-- ==== Sys2Proof/Word.lean ====
section
/-! DEFINITION. The words of the machine: bytes, 32-bit registers and code words, 64-bit uniform registers. -/

namespace Sys2Proof

/-- One byte of memory. -/
abbrev Byte := BitVec 8

/-- A 32-bit vector register or code word (R57, R85). -/
abbrev Word := BitVec 32

/-- A 64-bit uniform register (R63). -/
abbrev DWord := BitVec 64

end Sys2Proof
end

