-- ==== Sys2Proof/Machine/Float.lean ====
section
/-! DEFINITION. Exact values, the six roundings (R143) and the wide formats f32, bf16 and f16 (R142) with the
sticky bits that a computation sets (R179). An exact value is a sign, a natural significand and a power of two;
nothing is rounded before the one rounding of an instruction. -/

namespace Sys2Proof.Machine

/-- An exact value: a NaN, an infinity (true: negative), or (-1)^neg * m * 2^e with the sign of a zero kept. -/
inductive FVal where
  | nan
  | inf (neg : Bool)
  | fin (neg : Bool) (m : Nat) (e : Int)
  deriving DecidableEq, Repr

/-- Sticky bits of sr.status (R227). -/
def stNNAN : DWord := 0x1000
/-- NSAT. -/
def stNSAT : DWord := 0x800
/-- FINV. -/
def stFINV : DWord := 0x400
/-- FDZ. -/
def stFDZ : DWord := 0x200
/-- FOVF. -/
def stFOVF : DWord := 0x100
/-- FUNF. -/
def stFUNF : DWord := 0x80
/-- FINX. -/
def stFINX : DWord := 0x40

/-- Round num/den to a natural number, as the magnitude of a value with the sign `neg`: modes 1 .rn, 2 .rz,
3 .ru, 4 .rd, 5 .ra, 6 .ro (R97, R143). DEDUCED (log 18): with m = 0 a normal significand is 1, which counts as odd, so that
.ro takes the lower magnitude. -/
def roundNat (mode : Nat) (neg : Bool) (num den : Nat) : Nat :=
  let n := num / den
  let r := num % den
  if r = 0 then n
  else match mode with
    | 2 => n
    | 3 => if neg then n else n + 1
    | 4 => if neg then n + 1 else n
    | 5 => if den ≤ 2 * r then n + 1 else n
    | 6 => if n % 2 = 1 then n else n + 1
    | _ => if den < 2 * r ∨ (2 * r = den ∧ n % 2 = 1) then n + 1 else n

/-- A wide format: its precision with the hidden bit, its bias, its exponent bits (R142). -/
structure WFmt where
  p : Nat
  bias : Nat
  ebits : Nat
  deriving DecidableEq, Repr

/-- IEEE 754 binary32. -/
def fmtF32 : WFmt := { p := 24, bias := 127, ebits := 8 }

/-- binary32's sign and exponent with 7 fraction bits. -/
def fmtBf16 : WFmt := { p := 8, bias := 127, ebits := 8 }

/-- IEEE 754 binary16. -/
def fmtF16 : WFmt := { p := 11, bias := 15, ebits := 5 }

/-- The format of class 2's ty (R176). -/
def wfmtOf (ty : Nat) : WFmt := if ty = 0 then fmtF32 else if ty = 1 then fmtBf16 else fmtF16

/-- The sign bit's weight. -/
def WFmt.signBit (f : WFmt) : Nat := 2 ^ (f.ebits + f.p - 1)

/-- The code of +infinity. -/
def WFmt.infCode (f : WFmt) : Nat := (2 ^ f.ebits - 1) * 2 ^ (f.p - 1)

/-- The canonical NaN (R142). -/
def WFmt.nanCode (f : WFmt) : Nat := f.infCode + 2 ^ (f.p - 2)

/-- The value of a code (R142). -/
def WFmt.decode (f : WFmt) (c : Nat) : FVal :=
  let neg := f.signBit ≤ c % (2 * f.signBit)
  let m := c % 2 ^ (f.p - 1)
  let e := c / 2 ^ (f.p - 1) % 2 ^ f.ebits
  if e = 2 ^ f.ebits - 1 then (if m = 0 then .inf neg else .nan)
  else if e = 0 then .fin neg m (1 - (f.bias : Int) - ((f.p : Int) - 1))
  else .fin neg (m + 2 ^ (f.p - 1)) ((e : Int) - (f.bias : Int) - ((f.p : Int) - 1))

/-- A code with a sign. -/
def WFmt.signed (f : WFmt) (neg : Bool) (c : Nat) : Nat := if neg then c + f.signBit else c

/-- num * 2^k / den as a fraction with natural parts. -/
def scaleFrac (num den : Nat) (k : Int) : Nat × Nat :=
  if 0 ≤ k then (num * 2 ^ k.toNat, den) else (num, den * 2 ^ (-k).toNat)

/-- The floor of the binary logarithm of num/den, both positive. -/
def log2Frac (num den : Nat) : Int :=
  let k : Int := (Nat.log2 num : Int) - (Nat.log2 den : Int)
  let q := scaleFrac num den (-k)
  if q.1 < q.2 then k - 1 else k

/-- The result of an overflow in a mode (R142). -/
def WFmt.overflow (f : WFmt) (mode : Nat) (neg : Bool) : Nat :=
  let toInf := mode == 1 || mode == 5 || (mode == 3 && !neg) || (mode == 4 && neg)
  f.signed neg (if toInf then f.infCode else f.infCode - 1)

/-- Round (-1)^neg * num/den * 2^e, not zero, into a format: the code and the sticky bits (R142, R178, R179). -/
def WFmt.roundFrac (f : WFmt) (mode : Nat) (neg : Bool) (num den : Nat) (e : Int) : Nat × DWord :=
  let top := log2Frac num den + e
  let emin : Int := 1 - (f.bias : Int)
  let p1 : Int := (f.p : Int) - 1
  let q := max top emin - p1
  let fr := scaleFrac num den (e - q)
  let n := roundNat mode neg fr.1 fr.2
  let exact := fr.1 % fr.2 == 0
  let fu := scaleFrac num den (e - (top - p1))
  let nu := roundNat mode neg fu.1 fu.2
  let tiny := decide (top < emin) && !(nu == 2 ^ f.p && decide (top + 1 = emin))
  let bits := (q + p1 - emin).toNat * 2 ^ (f.p - 1) + n
  if f.infCode ≤ bits then (f.overflow mode neg, stFOVF ||| stFINX)
  else (f.signed neg bits, (if exact then 0 else stFINX) ||| (if tiny && !exact then stFUNF else 0))

/-- Round an exact value into a format (R142, R178). -/
def WFmt.round (f : WFmt) (mode : Nat) (v : FVal) : Nat × DWord :=
  match v with
  | .nan => (f.nanCode, 0)
  | .inf neg => (f.signed neg f.infCode, 0)
  | .fin neg m e => if m = 0 then (f.signed neg 0, 0) else f.roundFrac mode neg m 1 e

/-- The integer m * 2^(e - lo) with the sign of the value, lo at most e. -/
def FVal.intAt (neg : Bool) (m : Nat) (e lo : Int) : Int :=
  let n : Int := (m * 2 ^ (e - lo).toNat : Nat)
  if neg then -n else n

/-- The exact sum of finite values; an exact zero is +0, in mode 4 (.rd) -0, and a sum of zeros of one sign keeps
that sign (R180). -/
def addFin (mode : Nat) (n1 : Bool) (m1 : Nat) (e1 : Int) (n2 : Bool) (m2 : Nat) (e2 : Int) : FVal :=
  let lo := min e1 e2
  let t := FVal.intAt n1 m1 e1 lo + FVal.intAt n2 m2 e2 lo
  if t = 0 then
    (if m1 = 0 ∧ m2 = 0 ∧ n1 = n2 then .fin n1 0 0 else .fin (mode == 4) 0 0)
  else .fin (decide (t < 0)) t.natAbs lo

/-- The exact sum and FINV (R179, R180). -/
def addVal (mode : Nat) (a b : FVal) : FVal × DWord :=
  match a, b with
  | .nan, _ => (.nan, 0)
  | _, .nan => (.nan, 0)
  | .inf x, .inf y => if x = y then (.inf x, 0) else (.nan, stFINV)
  | .inf x, .fin .. => (.inf x, 0)
  | .fin .., .inf y => (.inf y, 0)
  | .fin n1 m1 e1, .fin n2 m2 e2 => (addFin mode n1 m1 e1 n2 m2 e2, 0)

/-- The negated value. -/
def FVal.neg (a : FVal) : FVal :=
  match a with
  | .nan => .nan
  | .inf x => .inf (!x)
  | .fin n m e => .fin (!n) m e

/-- The exact product and FINV (R179, R180). -/
def mulVal (a b : FVal) : FVal × DWord :=
  match a, b with
  | .nan, _ => (.nan, 0)
  | _, .nan => (.nan, 0)
  | .inf x, .inf y => (.inf (x != y), 0)
  | .inf x, .fin n m _ => if m = 0 then (.nan, stFINV) else (.inf (x != n), 0)
  | .fin n m _, .inf y => if m = 0 then (.nan, stFINV) else (.inf (n != y), 0)
  | .fin n1 m1 e1, .fin n2 m2 e2 => (.fin (n1 != n2) (m1 * m2) (e1 + e2), 0)

/-- The exact value a * b + c and FINV: 0 times an infinity is invalid even when c is NaN (R180). -/
def fmaVal (mode : Nat) (a b c : FVal) : FVal × DWord :=
  let p := mulVal a b
  let r := addVal mode p.1 c
  (r.1, p.2 ||| r.2)

/-- Whether a value is an infinity of a sign. -/
def FVal.isInf (a : FVal) (neg : Bool) : Bool := a == .inf neg

/-- The exact sum of two products and an addend, with FINV of R181: a product 0 times an infinity, or infinite
terms of opposite signs. -/
def dot2Val (mode : Nat) (a0 b0 a1 b1 c : FVal) : FVal × DWord :=
  let p := mulVal a0 b0
  let q := mulVal a1 b1
  let terms := [p.1, q.1, c]
  let bad := terms.any (fun t => t.isInf true) && terms.any (fun t => t.isInf false)
  let inv := p.2 ||| q.2 ||| (if bad then stFINV else 0)
  if bad then (.nan, inv)
  else match p.1, q.1, c with
    | .fin n1 m1 e1, .fin n2 m2 e2, .fin n3 m3 e3 =>
      if m1 = 0 ∧ m2 = 0 ∧ m3 = 0 then
        (.fin (if n1 = n2 ∧ n2 = n3 then n1 else mode == 4) 0 0, inv)
      else
        let lo := min e1 (min e2 e3)
        let t := FVal.intAt n1 m1 e1 lo + FVal.intAt n2 m2 e2 lo + FVal.intAt n3 m3 e3 lo
        (if t = 0 then .fin (mode == 4) 0 0 else .fin (decide (t < 0)) t.natAbs lo, inv)
    | _, _, _ => ((addVal mode (addVal mode p.1 q.1).1 c).1, inv)

/-- Whether a is less than b, both not NaN; -0 equals +0. -/
def ltVal (a b : FVal) : Bool :=
  match a, b with
  | .nan, _ => false
  | _, .nan => false
  | .inf x, .inf y => x && !y
  | .inf x, .fin .. => x
  | .fin .., .inf y => !y
  | .fin n1 m1 e1, .fin n2 m2 e2 =>
    let lo := min e1 e2
    decide (FVal.intAt n1 m1 e1 lo < FVal.intAt n2 m2 e2 lo)

/-- Whether a equals b, both not NaN; -0 equals +0. -/
def eqVal (a b : FVal) : Bool :=
  match a, b with
  | .nan, _ => false
  | _, .nan => false
  | a, b => !ltVal a b && !ltVal b a

/-- The sign of a value that is not NaN. -/
def FVal.sign (a : FVal) : Bool :=
  match a with
  | .nan => false
  | .inf n => n
  | .fin n _ _ => n

/-- fmin on codes: the lesser, -0 below +0, a NaN giving the other operand (R180). -/
def WFmt.minCode (f : WFmt) (a b : Nat) : Nat :=
  match f.decode a, f.decode b with
  | .nan, .nan => f.nanCode
  | .nan, _ => b
  | _, .nan => a
  | x, y => if ltVal y x || (!ltVal x y && y.sign && !x.sign) then b else a

/-- fmax on codes (R180). -/
def WFmt.maxCode (f : WFmt) (a b : Nat) : Nat :=
  match f.decode a, f.decode b with
  | .nan, .nan => f.nanCode
  | .nan, _ => b
  | _, .nan => a
  | x, y => if ltVal x y || (!ltVal y x && x.sign && !y.sign) then b else a

/-- fadd on codes. -/
def WFmt.addCode (f : WFmt) (mode a b : Nat) : Nat × DWord :=
  let v := addVal mode (f.decode a) (f.decode b)
  let r := f.round mode v.1
  (r.1, v.2 ||| r.2)

/-- The truncation of a finite value to an integer, clamped to -512 to 512 (R182). -/
def truncClamp (v : FVal) : Int :=
  match v with
  | .nan => 0
  | .inf neg => if neg then -512 else 512
  | .fin neg m e =>
    let fr := scaleFrac m 1 e
    let n : Int := min (fr.1 / fr.2) 512
    if neg then -n else n

/-- fscale on codes (R182). -/
def WFmt.scaleCode (f : WFmt) (mode a b : Nat) : Nat × DWord :=
  match f.decode b with
  | .nan => (f.nanCode, stFINV)
  | vb => match f.decode a with
    | .fin neg m e => f.round mode (.fin neg m (e + truncClamp vb))
    | v => f.round mode v

/-- frnd on codes: no flag is set (R183). -/
def WFmt.integralCode (f : WFmt) (mode a : Nat) : Nat :=
  match f.decode a with
  | .fin neg m e =>
    let fr := scaleFrac m 1 e
    (f.round mode (.fin neg (roundNat mode neg fr.1 fr.2) 0)).1
  | v => (f.round mode v).1

/-- fclass on codes (R184). -/
def WFmt.classCode (f : WFmt) (c : Nat) : Nat :=
  match f.decode c with
  | .nan => if c / 2 ^ (f.p - 2) % 2 = 1 then 2 ^ 9 else 2 ^ 8
  | .inf neg => if neg then 2 ^ 0 else 2 ^ 7
  | .fin neg m _ =>
    if m = 0 then (if neg then 2 ^ 3 else 2 ^ 4)
    else if m < 2 ^ (f.p - 1) then (if neg then 2 ^ 2 else 2 ^ 5)
    else (if neg then 2 ^ 1 else 2 ^ 6)

/-- A small integer as a value (R95). -/
def intVal (n : Int) : FVal := .fin (decide (n < 0)) n.natAbs 0

end Sys2Proof.Machine
end

