-- ==== Sys2Proof/Config.lean ====
section
/-! DEFINITION. The free values: what the manual leaves open and an instruction goes on with. None has a body
that a proof can see, so a claim holds whatever they are. Each is applied to a plain counter of State, or to
the operands it depends on. Their log entries are named beside them. -/

namespace Sys2Proof.Config

/-- Which of the enabled actions comes next, by the step counter (R31, R43: any delay is allowed; log 3). -/
opaque pick : Nat → Nat

/-- How many arithmetic-clock cycles pass in a step (R12, R31; log 6). -/
opaque elapsed : Nat → Nat

/-- Which of several cached translations of an address, at different levels, serves an access (R363; log 9). -/
opaque tlbChoice : Nat → Nat

/-- Which entry of a full translation cache makes room for a new one (R363; log 9). -/
opaque tlbVictim : Nat → Nat

/-- A byte that the manual calls unspecified (R270, R277, R334, R378; log 4). -/
opaque freeByte : Nat → Byte

/-- A word of a tile's status that the manual calls unspecified (R270; log 4). -/
opaque freeStatus : Nat → DWord

/-- Whether an engine reads, for an operand byte, a value from before a store that no `opfence` has followed (R55; log 55). -/
opaque takesOld : Nat → Bool

/-- Which of the copies of a decided cell serves a `cell.ld`, counted from 0; a number past them means that its home does
(R315; log 10). -/
opaque cellCopyUsed : Nat → Nat

/-- The chiplet in whose cache a reply leaves a copy of its decided cell; a chiplet of a package that is neither the reader's
nor the home's stands for none (R315; log 10). -/
opaque cellCopyMade : Nat → Nat

/-- The hash that gives a path its link and channel, and an access its path (R322; log 84). -/
opaque pathHash : Nat → Nat

/-- Where a package's shard notice area and staging lie in the packets between shard units (R370; log 86). -/
opaque noticeArea : Nat → Nat

/-- How many bytes the Shawm fetches ahead (R392; log 11). -/
opaque fetchAhead : Nat → Nat

/-- At which of its levels the Shawm fetches ahead, counted from the innermost (R392; log 11). -/
opaque fetchLevel : Nat → Nat

/-- The correct rounding of a special function where the interval of the model (above 800 bits) does not decide it
(R187; log 12): no argument of the nine functions is known to need it. -/
opaque sfuUndecided : Nat → DWord → DWord

/-- The signature of an attestation report under a key that never leaves the device (R441; log 13). -/
opaque attestSignature : List Byte → Nat → Byte

/-- The device identity from fuses (R441; log 13). -/
opaque deviceIdentity : Nat → Byte

/-- The public key's bytes (R441; log 13). -/
opaque attestKey : Nat → Byte

/-- The boot ROM (R439: its listing is published with each stepping; log 13). -/
opaque romImage : List Byte

/-- How many 64-byte units an access makes an HBM controller move (R403: a cache may serve it; log 23). -/
opaque hbmUnits : Nat → Nat

/-- The refresh commands per stack and period that HBM4 requires (R405; log 29). -/
opaque refreshCommands : Nat

/-- Where the memory controller scrubs next in a stack, and how many bytes at once (R405; log 29). -/
opaque scrubFrom : Nat → Nat
opaque scrubBytes : Nat → Nat

/-- The bytes of a package's snapshot images (R445; log 29). -/
opaque snapshotBytes : Nat

/-- What a firmware core, which has no partition, reads of the discovery table (R38, R39; log 14). -/
opaque discovery : Nat → DWord

end Sys2Proof.Config
end

