-- ==== Sys2Proof/Syntax.lean ====
section
/-! DEFINITION. The instructions and events of the Theonawyn 9160: one constructor per row of
spec/opcode_table.json. An encoded instruction carries its unit's fields (R87 to R92) as they are named in
the manual; an event carries the numbers that say what it acts on. -/

namespace Sys2Proof

/-- The four forms of a unit (R85). -/
inductive Form where
  | base
  | prefixed
  | extended
  | literal
  deriving DecidableEq, Repr

/-- The fields of one unit, put together as R88 to R92 say: register numbers are whole (R90), and a field
that the form does not carry has its neutral value. `pre` is the prefix word's reserved field [4:0]. -/
structure Enc where
  form : Form := .base
  d : BitVec 8 := 0
  a : BitVec 8 := 0
  b : BitVec 8 := 0
  c : BitVec 8 := 0
  ty : BitVec 2 := 0
  i : Bool := false
  u : Bool := false
  f : Bool := false
  msk : BitVec 3 := 0
  z : Bool := false
  rnd : BitVec 3 := 0
  bh : BitVec 3 := 0
  bw : BitVec 3 := 0
  isel : BitVec 2 := 0
  pre : BitVec 5 := 0
  w2 : BitVec 32 := 0
  lit : BitVec 64 := 0
  deriving DecidableEq, Repr

/-- One constructor per row of the opcode table. -/
inductive Instr where
  /-- CLAUSE_HEADER (R104): WAIT, SETA, SETB, LEN. -/
  | clauseHeader (w : BitVec 12) (a b : BitVec 4) (l : BitVec 6)
  /-- ADD (R162). -/
  | add (x : Enc)
  /-- SUB (R162). -/
  | sub (x : Enc)
  /-- MUL (R162). -/
  | mul (x : Enc)
  /-- MULHI (R162). -/
  | mulhi (x : Enc)
  /-- MAD (R162). -/
  | mad (x : Enc)
  /-- MIN (R162). -/
  | min (x : Enc)
  /-- MAX (R162). -/
  | max (x : Enc)
  /-- ABS (R162). -/
  | abs (x : Enc)
  /-- NEG (R162). -/
  | neg (x : Enc)
  /-- AND (R162). -/
  | and (x : Enc)
  /-- OR (R162). -/
  | or (x : Enc)
  /-- XOR (R162). -/
  | xor (x : Enc)
  /-- ANDN (R162). -/
  | andn (x : Enc)
  /-- NOT (R162). -/
  | not (x : Enc)
  /-- SHL (R163). -/
  | shl (x : Enc)
  /-- SHR (R163). -/
  | shr (x : Enc)
  /-- SAR (R163). -/
  | sar (x : Enc)
  /-- ROT (R163). -/
  | rot (x : Enc)
  /-- CLZ (R163). -/
  | clz (x : Enc)
  /-- POPC (R163). -/
  | popc (x : Enc)
  /-- BFE (R164). -/
  | bfe (x : Enc)
  /-- BFI (R164). -/
  | bfi (x : Enc)
  /-- SEL (R165). -/
  | sel (x : Enc)
  /-- CMP_EQ (R166). -/
  | cmpEq (x : Enc)
  /-- CMP_NE (R166). -/
  | cmpNe (x : Enc)
  /-- CMP_LT (R166). -/
  | cmpLt (x : Enc)
  /-- CMP_LE (R166). -/
  | cmpLe (x : Enc)
  /-- CMP_GT (R166). -/
  | cmpGt (x : Enc)
  /-- CMP_GE (R166). -/
  | cmpGe (x : Enc)
  /-- MOV (R167). -/
  | mov (x : Enc)
  /-- MOVI (R167). -/
  | movi (x : Enc)
  /-- LEA (R168). -/
  | lea (x : Enc)
  /-- SHFL (R170). -/
  | shfl (x : Enc)
  /-- SHFL_UP (R170). -/
  | shflUp (x : Enc)
  /-- SHFL_DN (R170). -/
  | shflDn (x : Enc)
  /-- SHFL_X (R170). -/
  | shflX (x : Enc)
  /-- VOTE_ANY (R171). -/
  | voteAny (x : Enc)
  /-- VOTE_ALL (R171). -/
  | voteAll (x : Enc)
  /-- BALLOT (R171). -/
  | ballot (x : Enc)
  /-- MATCH (R171). -/
  | matchOp (x : Enc)
  /-- ELECT (R171). -/
  | elect (x : Enc)
  /-- REDUX_ADD (R172). -/
  | reduxAdd (x : Enc)
  /-- REDUX_MIN (R172). -/
  | reduxMin (x : Enc)
  /-- REDUX_MAX (R172). -/
  | reduxMax (x : Enc)
  /-- REDUX_AND (R172). -/
  | reduxAnd (x : Enc)
  /-- REDUX_OR (R172). -/
  | reduxOr (x : Enc)
  /-- SCAN_ADD (R172). -/
  | scanAdd (x : Enc)
  /-- SCAN_XADD (R172). -/
  | scanXadd (x : Enc)
  /-- MOVR (R174). -/
  | movr (x : Enc)
  /-- MOVW (R174). -/
  | movw (x : Enc)
  /-- IXSET (R174). -/
  | ixset (x : Enc)
  /-- TIDX (R175). -/
  | tidx (x : Enc)
  /-- BCAST (R173). -/
  | bcast (x : Enc)
  /-- PICK (R173). -/
  | pick (x : Enc)
  /-- FADD (R180). -/
  | fadd (x : Enc)
  /-- FSUB (R180). -/
  | fsub (x : Enc)
  /-- FMUL (R180). -/
  | fmul (x : Enc)
  /-- FMA (R180). -/
  | fma (x : Enc)
  /-- FMIN (R180). -/
  | fmin (x : Enc)
  /-- FMAX (R180). -/
  | fmax (x : Enc)
  /-- FABS (R180). -/
  | fabs (x : Enc)
  /-- FNEG (R180). -/
  | fneg (x : Enc)
  /-- FCMP_EQ (R185). -/
  | fcmpEq (x : Enc)
  /-- FCMP_NE (R185). -/
  | fcmpNe (x : Enc)
  /-- FCMP_LT (R185). -/
  | fcmpLt (x : Enc)
  /-- FCMP_LE (R185). -/
  | fcmpLe (x : Enc)
  /-- FCMP_UN (R185). -/
  | fcmpUn (x : Enc)
  /-- FCLASS (R184). -/
  | fclass (x : Enc)
  /-- FSCALE (R182). -/
  | fscale (x : Enc)
  /-- FRND (R183). -/
  | frnd (x : Enc)
  /-- FDOT2 (R181). -/
  | fdot2 (x : Enc)
  /-- FREDUX_ADD (R186). -/
  | freduxAdd (x : Enc)
  /-- FREDUX_MAX (R186). -/
  | freduxMax (x : Enc)
  /-- FSCAN_ADD (R186). -/
  | fscanAdd (x : Enc)
  /-- FCOPYSIGN (R180). -/
  | fcopysign (x : Enc)
  /-- RCP (R187). -/
  | rcp (x : Enc)
  /-- RSQ (R187). -/
  | rsq (x : Enc)
  /-- SQRT (R187). -/
  | sqrt (x : Enc)
  /-- EXP2 (R187). -/
  | exp2 (x : Enc)
  /-- LOG2 (R187). -/
  | log2 (x : Enc)
  /-- SIN (R187). -/
  | sin (x : Enc)
  /-- COS (R187). -/
  | cos (x : Enc)
  /-- TANH (R187). -/
  | tanh (x : Enc)
  /-- ERF (R187). -/
  | erf (x : Enc)
  /-- CVT (R189). -/
  | cvt (x : Enc)
  /-- QNT (R191). -/
  | qnt (x : Enc)
  /-- DQNT (R189). -/
  | dqnt (x : Enc)
  /-- PACK (R189). -/
  | pack (x : Enc)
  /-- UNPACK (R189). -/
  | unpack (x : Enc)
  /-- JMP (R195). -/
  | jmp (x : Enc)
  /-- BR (R195). -/
  | br (x : Enc)
  /-- BRU (R195). -/
  | bru (x : Enc)
  /-- BRX (R195). -/
  | brx (x : Enc)
  /-- CALL (R195). -/
  | call (x : Enc)
  /-- CALLX (R195). -/
  | callx (x : Enc)
  /-- RET (R195). -/
  | ret (x : Enc)
  /-- REJOIN (R75). -/
  | rejoin (x : Enc)
  /-- EXIT (R198). -/
  | exit (x : Enc)
  /-- KILL (R198). -/
  | kill (x : Enc)
  /-- LOOP (R195). -/
  | loop (x : Enc)
  /-- TRAP (R199). -/
  | trap (x : Enc)
  /-- TRET (R225). -/
  | tret (x : Enc)
  /-- YIELD (R200). -/
  | yield (x : Enc)
  /-- SLEEP (R200). -/
  | sleep (x : Enc)
  /-- NOP (R200). -/
  | nop (x : Enc)
  /-- HALT (R438). -/
  | halt (x : Enc)
  /-- LD_L (R245). -/
  | ldL (x : Enc)
  /-- ST_L (R245). -/
  | stL (x : Enc)
  /-- LDB_L (R245). -/
  | ldbL (x : Enc)
  /-- STB_L (R245). -/
  | stbL (x : Enc)
  /-- TAG_CLR (R246). -/
  | tagClr (x : Enc)
  /-- TAG_SET (R246). -/
  | tagSet (x : Enc)
  /-- TAG_WC (R240). -/
  | tagWc (x : Enc)
  /-- PLANE (R247). -/
  | plane (x : Enc)
  /-- UNPLANE (R247). -/
  | unplane (x : Enc)
  /-- ZERO_L (R248). -/
  | zeroL (x : Enc)
  /-- LD_G (R250). -/
  | ldG (x : Enc)
  /-- ST_G (R250). -/
  | stG (x : Enc)
  /-- LDB_G (R250). -/
  | ldbG (x : Enc)
  /-- STB_G (R250). -/
  | stbG (x : Enc)
  /-- PRF_G (R254). -/
  | prfG (x : Enc)
  /-- LD_R (R253). -/
  | ldR (x : Enc)
  /-- ST_R (R253). -/
  | stR (x : Enc)
  /-- LD_ACQ (R252). -/
  | ldAcq (x : Enc)
  /-- ST_REL (R252). -/
  | stRel (x : Enc)
  /-- ATOM_ADD (R306). -/
  | atomAdd (x : Enc)
  /-- ATOM_MIN (R306). -/
  | atomMin (x : Enc)
  /-- ATOM_MAX (R306). -/
  | atomMax (x : Enc)
  /-- ATOM_AND (R306). -/
  | atomAnd (x : Enc)
  /-- ATOM_OR (R306). -/
  | atomOr (x : Enc)
  /-- ATOM_XOR (R306). -/
  | atomXor (x : Enc)
  /-- ATOM_XCHG (R306). -/
  | atomXchg (x : Enc)
  /-- ATOM_CAS (R306). -/
  | atomCas (x : Enc)
  /-- RED_ADD (R306). -/
  | redAdd (x : Enc)
  /-- RED_MIN (R306). -/
  | redMin (x : Enc)
  /-- RED_MAX (R306). -/
  | redMax (x : Enc)
  /-- RED_X96 (R307). -/
  | redX96 (x : Enc)
  /-- X96_LD (R308). -/
  | x96Ld (x : Enc)
  /-- X96_INIT (R308). -/
  | x96Init (x : Enc)
  /-- CELL_ARM (R311). -/
  | cellArm (x : Enc)
  /-- CELL_PROP (R313). -/
  | cellProp (x : Enc)
  /-- CELL_LD (R315). -/
  | cellLd (x : Enc)
  /-- CELL_RESET (R316). -/
  | cellReset (x : Enc)
  /-- CELL_FLUSH (R317). -/
  | cellFlush (x : Enc)
  /-- BAR_ARV (R205). -/
  | barArv (x : Enc)
  /-- BAR_WAIT (R206). -/
  | barWait (x : Enc)
  /-- BAR_SYNC (R206). -/
  | barSync (x : Enc)
  /-- BAR_BIND (R208). -/
  | barBind (x : Enc)
  /-- SET_NEW (R210). -/
  | setNew (x : Enc)
  /-- SET_JOIN (R211). -/
  | setJoin (x : Enc)
  /-- SET_LEAVE (R211). -/
  | setLeave (x : Enc)
  /-- SET_FREE (R212). -/
  | setFree (x : Enc)
  /-- FENCE (R214). -/
  | fence (x : Enc)
  /-- OPFENCE (R215). -/
  | opfence (x : Enc)
  /-- WAITF (R216). -/
  | waitf (x : Enc)
  /-- ACQ_REMOTE (R218). -/
  | acqRemote (x : Enc)
  /-- SCOPEOF (R217). -/
  | scopeof (x : Enc)
  /-- BAR_POLL (R209). -/
  | barPoll (x : Enc)
  /-- MX_LOOP (R261). -/
  | mxLoop (x : Enc)
  /-- MX_LOOPS (R266). -/
  | mxLoops (x : Enc)
  /-- MX_ZERO (R275). -/
  | mxZero (x : Enc)
  /-- MX_WIN (R275). -/
  | mxWin (x : Enc)
  /-- MX_READ (R276). -/
  | mxRead (x : Enc)
  /-- MX_STORE (R277). -/
  | mxStore (x : Enc)
  /-- MX_LOAD (R277). -/
  | mxLoad (x : Enc)
  /-- MX_STAT (R278). -/
  | mxStat (x : Enc)
  /-- MX_MOVE (R279). -/
  | mxMove (x : Enc)
  /-- SIG_CFG (R292). -/
  | sigCfg (x : Enc)
  /-- SIG_ONE (R293). -/
  | sigOne (x : Enc)
  /-- SIG_STEP_REG (R285). -/
  | sigStepReg (x : Enc)
  /-- SIG_STEP_SCRATCH (R294). -/
  | sigStepScratch (x : Enc)
  /-- SIG_JOIN (R286). -/
  | sigJoin (x : Enc)
  /-- SIG_JOINL (R286). -/
  | sigJoinl (x : Enc)
  /-- SIG_LOG (R287). -/
  | sigLog (x : Enc)
  /-- SIG_READ (R295). -/
  | sigRead (x : Enc)
  /-- SIG_STAT (R291). -/
  | sigStat (x : Enc)
  /-- XF_PUT (R332). -/
  | xfPut (x : Enc)
  /-- XF_GET (R332). -/
  | xfGet (x : Enc)
  /-- XF_CPY (R332). -/
  | xfCpy (x : Enc)
  /-- XF_DRAIN (R336). -/
  | xfDrain (x : Enc)
  /-- CTR_SET (R339). -/
  | ctrSet (x : Enc)
  /-- CTR_ADD (R339). -/
  | ctrAdd (x : Enc)
  /-- CTR_ARM (R338). -/
  | ctrArm (x : Enc)
  /-- CTR_WAIT (R341). -/
  | ctrWait (x : Enc)
  /-- COLL_POST (R352). -/
  | collPost (x : Enc)
  /-- FETCHWK (R400). -/
  | fetchwk (x : Enc)
  /-- XQ_PUSH (R355). -/
  | xqPush (x : Enc)
  /-- XQ_TAKE (R356). -/
  | xqTake (x : Enc)
  /-- MFS (R229). -/
  | mfs (x : Enc)
  /-- MTS (R229). -/
  | mts (x : Enc)
  /-- TID_WR (R156). -/
  | tidWr (x : Enc)
  /-- TID_RD (R156). -/
  | tidRd (x : Enc)
  /-- CLK (R229). -/
  | clk (x : Enc)
  /-- SNAP (R229). -/
  | snap (x : Enc)
  /-- SH_EVICT (R378). -/
  | shEvict (x : Enc)
  /-- SH_TOUCH (R378). -/
  | shTouch (x : Enc)
  /-- PG_INVAL (R379). -/
  | pgInval (x : Enc)
  /-- CTX_DRAIN (R417). -/
  | ctxDrain (x : Enc)
  /-- CTX_SVB (R419). -/
  | ctxSvb (x : Enc)
  /-- CTX_LDB (R419). -/
  | ctxLdb (x : Enc)
  /-- CTX_SVD (R420). -/
  | ctxSvd (x : Enc)
  /-- CTX_LDD (R420). -/
  | ctxLdd (x : Enc)
  /-- CTX_SVX (R421). -/
  | ctxSvx (x : Enc)
  /-- CTX_LDX (R421). -/
  | ctxLdx (x : Enc)
  /-- LEASE_CAS (R433). -/
  | leaseCas (x : Enc)
  /-- MEASURE (R436). -/
  | measure (x : Enc)
  /-- WFE (R437). -/
  | wfe (x : Enc)
  /-- TRAP_ENTRY (R223): Take a pending record or synchronous fault and enter the handler. -/
  | trapEntry (bk : Nat)
  /-- FAULT_REPORT (R222): An engine's fault report reaches the bundle and is recorded or coalesced. -/
  | faultReport (rep : Nat)
  /-- LANE_ISSUE (R71): A free lane starts the next instruction of a runnable bundle. -/
  | laneIssue (bk : Nat)
  /-- SLEEP_EXPIRY (R200): A sleep count ends and the path runs again. -/
  | sleepExpiry (bk : Nat)
  /-- ENGINE_ARRIVAL (R207): An engine operation completes and arrives on its completion barrier. -/
  | engineArrival (op : Nat)
  /-- RESULT_WRITEBACK (R107): A long-latency operation writes its last register and its flag falls. -/
  | resultWriteback (op k : Nat)
  /-- BANK_SERVICE (R234): A scratchpad bank serves one queued request. -/
  | bankService (op k : Nat)
  /-- TILE_PORT_DISPATCH (R268): The matrix engine dispatches a queued tile-port entry. -/
  | tilePortDispatch (core : Nat)
  /-- LOOP_STEP (R261): The cell array starts a loop step once its reads, grant and budget allow. -/
  | loopStep (core : Nat)
  /-- SURGE_GRANT (R404): The chiplet surge arbiter grants a loop start within a 128-cycle window. -/
  | surgeGrant (chiplet : Nat)
  /-- SIG_DISPATCH (R296): The signature engine dispatches its next queued entry. -/
  | sigDispatch (core : Nat)
  /-- HOME_PERFORM (R302): The home agent performs one request on a 16-byte unit. -/
  | homePerform (op k : Nat)
  /-- WRITE_PACKET (R332): A write packet lands, is performed, adds to its counter and is acknowledged. -/
  | writePacket (pkt : Nat)
  /-- READ_REQUEST (R321): A read request reaches its home and is served. -/
  | readRequest (pkt : Nat)
  /-- READ_REPLY (R321): A read reply returns and is written through the return slot. -/
  | readReply (pkt : Nat)
  /-- ATOMIC_REQUEST (R326): An atomic request packet is performed at its home. -/
  | atomicRequest (pkt : Nat)
  /-- ATOMIC_REPLY (R303): An atomic reply is written through its return slot. -/
  | atomicReply (pkt : Nat)
  /-- ACKNOWLEDGEMENT (R332): An acknowledgement returns to the source on VC 6. -/
  | acknowledgement (pkt : Nat)
  /-- DROP_NOTICE (R329): A cancel or drop notice ends the request with a transfer error or passes a sequence number. -/
  | dropNotice (pkt : Nat)
  /-- FLIT (R327): A flit is received whole, CRC checked and accepted, discarded or triggers a resend. -/
  | flit (link kind vc fseq ack rvc rcnt rsnd crcOk body : Nat)
  /-- IDLE_FLIT (R328): After 256 idle base-die cycles the receiver sends an idle flit with a return count. -/
  | idleFlit (link : Nat)
  /-- ESCAPE_MOVE (R329): After 64 µs at a head a packet moves to the escape channel. -/
  | escapeMove (pkt : Nat)
  /-- ESCAPE_DROP (R329): After a further 64 µs a packet is dropped with cancel and drop notices. -/
  | escapeDrop (pkt : Nat)
  /-- XQ_PUSH_ARRIVAL (R354): A push arrives, takes a slot, or is held or refused. -/
  | xqPushArrival (pkt : Nat)
  /-- XQ_ROW_LANDING (R354): A held row lands when capacity frees and batch counting advances. -/
  | xqRowLanding (row : Nat)
  /-- COLL_CHUNK_POST (R345): A chunk is posted when the last of its blocks ends. -/
  | collChunkPost (lid chunk : Nat)
  /-- COLL_COMBINE (R348): A member's transfer engine combines received partials or segments. -/
  | collCombine (lid chunk : Nat)
  /-- PAGE_WALK_COMPLETE (R364): A page walk ends and its held accesses are replayed or faulted. -/
  | pageWalkComplete (op k : Nat)
  /-- PROP (R370): A proposing slice claims the record and proposes to the gather cell. -/
  | prop (msg : Nat)
  /-- REPLY (R371): A proposer receives WON or LOST with ACKED. -/
  | reply (msg : Nat)
  /-- GSTART (R370): A member starts gathering and sends its units. -/
  | gstart (msg : Nat)
  /-- SHARD (R370): Another member's units land in the receiver's frame. -/
  | shard (msg : Nat)
  /-- EVACK (R370): The coordinator records an eviction acknowledgement and frees the record when complete. -/
  | evack (msg : Nat)
  /-- FREE (R370): Held accesses propose again after the record is freed. -/
  | free (msg : Nat)
  /-- SLICE (R376): An owner adds an evicted partial slice into its staging. -/
  | slice (msg : Nat)
  /-- SACK (R376): The evicting member counts an owner's acknowledgement. -/
  | sack (msg : Nat)
  /-- DOWN (R375): A member sets DN for a lapsed peer and loses affected pages. -/
  | down (msg : Nat)
  /-- QTAIL_WRITE (R384): A write of QTAIL releases new queue bytes to the Shawm. -/
  | qtailWrite (ctx q value : Nat)
  /-- QUEUE_ENABLE (R383): Writing EN to 1 resets the queue pointers and status; 0 stops new packets. -/
  | queueEnable (ctx q value : Nat)
  /-- SHAWM_FETCH (R392): The Shawm fetches queue bytes ahead of the beginning packet. -/
  | shawmFetch (ctx q bytes : Nat)
  /-- NOP_PACKET (R385): A NOP packet does nothing. -/
  | nopPacket (ctx q : Nat)
  /-- LAUNCH (R394): A launch packet captures and checks its record and starts placing blocks. -/
  | launch (ctx q : Nat)
  /-- COPY (R388): A copy packet moves bytes global to global. -/
  | copy (ctx q : Nat)
  /-- INDIRECT (R390): Run a buffer's packets as the next level. -/
  | indirect (ctx q : Nat)
  /-- PRED (R389): Wait on or test a memory word, skipping bytes on failure. -/
  | pred (ctx q : Nat)
  /-- PRED_POLL (R389): A waiting PRED rereads its word every 256 base-die cycles. -/
  | predPoll (ctx q : Nat)
  /-- LOOP_PACKET (R390): Run the following body n times. -/
  | loopPacket (ctx q : Nat)
  /-- FETCHFENCE (R392): Discard fetched bytes, acquire and fetch again. -/
  | fetchfence (ctx q : Nat)
  /-- GRAPH (R393): Replay a graph body with patches. -/
  | graph (ctx q : Nat)
  /-- SIGNAL (R391): Write a value as a release and optionally post a record. -/
  | signal (ctx q : Nat)
  /-- LAUNCH_COMPLETE (R397): A launch's work has settled and its completion record is written. -/
  | launchComplete (lid : Nat)
  /-- BLOCK_PLACEMENT (R68): The distributor places a waiting block on a core with room. -/
  | blockPlacement (lid core : Nat)
  /-- QOS_PERIOD (R403): At each 18,000-cycle boundary every balance is refilled. -/
  | qosPeriod (pkg : Nat)
  /-- PAUSE_WRITE (R408): Writing PAUSE stops or resumes packets of the function. -/
  | pauseWrite (ctx value : Nat)
  /-- FUNCTION_RESET (R409): Writing RESET closes the log, stops queues, kills launches and clears the log. -/
  | functionReset (ctx : Nat)
  /-- REGISTER_WRITE (R383): A write to a register without behaviour of its own stores the value. -/
  | registerWrite (agent addr value : Nat)
  /-- SLICE_END (R413): All cores stop issue, settle in-flight work, switch frames and resume the incoming context. -/
  | sliceEnd (part vf : Nat)
  /-- FW_TIMER (R437): Every 2 ms the firmware core's timer sets EVT bit 0. -/
  | fwTimer (core : Nat)
  /-- LEASE_LAPSE (R437): The hardware sees the lease lapsed and sets EVT bit 1. -/
  | leaseLapse (pkg : Nat)
  /-- DOOR (R437): A write to a DOOR register sets the writer's event bit. -/
  | door (agent core : Nat)
  /-- EVT_CLEAR (R437): A write-one-to-clear of EVT bits. -/
  | evtClear (core mask : Nat)
  /-- FWSTAT_RUN (R438): Writing RUN 1 restarts a halted firmware core. -/
  | fwstatRun (core : Nat)
  /-- OCTL_ARM (R444): OCTL command 1 arms the owner cell with ARMW. -/
  | octlArm (pkg agent : Nat)
  /-- OCTL_RESET_FORCE (R444): OCTL command 2 resets the owner cell with force. -/
  | octlResetForce (pkg agent : Nat)
  /-- HANDO (R443): The owner names its successor for handover. -/
  | hando (pkg agent value : Nat)
  /-- SNAPCTL_TRIG (R445): Writing TRIG latches a snapshot or joins a held one. -/
  | snapctlTrig (pkg agent : Nat)
  /-- SNAPCTL_RELEASE (R445): Writing LATCHED 1 releases the held snapshot. -/
  | snapctlRelease (pkg agent : Nat)
  /-- SNAP_FABRIC_TRIGGER (R445): A fabric snapshot message triggers a snapshot. -/
  | snapFabricTrigger (pkg : Nat)
  /-- TRIP (R446): A temperature or power trip triggers a snapshot and powers off the domain. -/
  | trip (pkg dom : Nat)
  /-- PD_REQ_OFF (R447): Request a power domain off, in order. -/
  | pdReqOff (pkg dom : Nat)
  /-- PD_REQ_RETENTION (R447): Request a power domain to retention. -/
  | pdReqRetention (pkg dom : Nat)
  /-- PD_REQ_ON (R447): Request a power domain on, in order. -/
  | pdReqOn (pkg dom : Nat)
  /-- GO (R441): Writing GO starts a signed attestation report. -/
  | go (pkg value : Nat)
  /-- POWER_ON (R439): Power-on runs the boot ROM on firmware core 0. -/
  | powerOn (pkg : Nat)
  /-- MT_IEEE1500_RESET (R449): Memory training phase 1: reset and device-ID read. -/
  | mtIeee1500Reset (pkg stack : Nat)
  /-- MT_IMPEDANCE_CAL (R449): Memory training phase 2: impedance calibration. -/
  | mtImpedanceCal (pkg stack : Nat)
  /-- MT_CA_TRAINING (R449): Memory training phase 3: command and address training. -/
  | mtCaTraining (pkg stack : Nat)
  /-- MT_READ_EYE (R449): Memory training phase 4: read data-eye training. -/
  | mtReadEye (pkg stack : Nat)
  /-- MT_WRITE_EYE (R449): Memory training phase 5: write data-eye training. -/
  | mtWriteEye (pkg stack : Nat)
  /-- MT_LANE_REPAIR (R449): Memory training phase 6: lane repair and repeat. -/
  | mtLaneRepair (pkg stack : Nat)
  /-- MT_SCRUB_START (R449): Memory training phase 7: scrub start and ECC enable. -/
  | mtScrubStart (pkg stack : Nat)
  /-- MT_REFRESH_ENABLE (R449): Memory training phase 8: refresh enable; stack in service. -/
  | mtRefreshEnable (pkg stack : Nat)
  /-- LT_RECEIVER_DETECT (R450): Link training phase 1: receiver detect. -/
  | ltReceiverDetect (pkg link : Nat)
  /-- LT_BIT_LOCK (R450): Link training phase 2: bit lock. -/
  | ltBitLock (pkg link : Nat)
  /-- LT_FLIT_LOCK (R450): Link training phase 3: flit lock. -/
  | ltFlitLock (pkg link : Nat)
  /-- LT_CREDIT_EXCHANGE (R450): Link training phase 4: credit exchange. -/
  | ltCreditExchange (pkg link : Nat)
  /-- LT_ACTIVE (R450): Link training phase 5: link active. -/
  | ltActive (pkg link : Nat)
  /-- SOFT_ERROR (R232): A soft error strikes an SRAM or HBM word, leaving it with a correctable single-bit error or an uncorrectable error. -/
  | softError (space addr hard : Nat)
  /-- PRESSURE_EVICTION (R376): The shard unit evicts a shard page of its own accord, reduce-scattering a PARTIAL page as sh.evict does. -/
  | pressureEviction (ctx va : Nat)
  /-- SCRUB (R405): The memory controller scrubs its budgeted bytes of a stack, correcting and counting soft errors. -/
  | scrub (pkg stack : Nat)
  /-- LINK_RECALIBRATION (R450): A link in service repeats bit lock and flit lock under the link-recalibration budget while its retry buffer holds its flits. -/
  | linkRecalibration (pkg link : Nat)
  /-- SETTLE (R447): SETTLE base-die cycles pass and a changing power domain moves to its next step or reaches its requested state. -/
  | settle (pkg dom : Nat)
  /-- MEMORY_TRAINING_DONE (R449): A memory-training phase of a stack ends and sets DONE or FAIL with the failing lane in MTSTAT. -/
  | memoryTrainingDone (pkg stack ok lane : Nat)
  /-- LINK_TRAINING_DONE (R450): A link-training phase reaches its completion condition or fails, setting DONE or FAIL and on failure returning the link to step 1 or out of service. -/
  | linkTrainingDone (pkg link ok : Nat)
  /-- ACQ_REMOTE_REQUEST (R54): An acq.remote request reaches core C, and C promotes its earlier .lg and .co releases to level L and answers once they are performed. -/
  | acqRemoteRequest (op : Nat)
  /-- ACQ_REMOTE_ANSWER (R218): The answer from C returns; the issuer performs its acquire at L and the acq.remote completes. -/
  | acqRemoteAnswer (op : Nat)
  deriving DecidableEq, Repr

end Sys2Proof
end

