-- ==== Sys2Proof/WellFormed.lean ====
section
/-! DEFINITION. The opcode map (R110) as a table of rows, and the decode fates of R112 that depend on the
unit alone (its steps 4 to 8). The shape and the op (steps 1 and 2) are Decode's; what a firmware core may
run (step 3) and the allotment (step 9) depend on the state and are checked where the unit is started. -/

namespace Sys2Proof

/-- What an operand field names (the entries of each chapter). -/
inductive Role where
  /-- no role: must be 0 -/
  | none
  /-- a register of the operand type: vector (a pair for a 64-bit type), or uniform in the U form -/
  | val
  /-- one 32-bit vector register whatever the type, or a uniform register in the U form -/
  | r32
  /-- an even vector pair whatever the type, or a uniform register in the U form -/
  | pair
  /-- the origin of four vector registers, a multiple of 4 -/
  | quad
  /-- a vector register although the form is U (`bcast`, `pick`; v0 to v63) -/
  | vval
  /-- a uniform register in either form -/
  | sreg
  /-- a uniform register of number at most n, whose successors are used too -/
  | sregMax (n : Nat)
  /-- a mask register number in a range -/
  | mask (lo hi : Nat)
  /-- a floating compare's mask: 1 to 7, or 1 to 6 for a pair type (R185) -/
  | maskPair
  /-- `sel`'s selector: a mask number 0 to 7, or a uniform register (R165) -/
  | maskOrS
  /-- a mask destination in the vector form, a uniform register in the U form (`bar.poll`) -/
  | maskOrS1
  /-- a plain number in a range -/
  | num (lo hi : Nat)
  /-- one 32-bit vector register, or a uniform register, as a destination (`scopeof`) -/
  | val1
  /-- `red.x96`'s contribution: a pair for .i64 alone (R307) -/
  | x96val
  /-- `x96.ld`'s four registers or uniform pair (R305) -/
  | x96dst
  /-- `cell.prop` and `cell.ld`: the value, then one more register (R313, R315) -/
  | cellDst
  /-- a special-register number in the base and prefixed forms, 0 in the extended form (R228) -/
  | srNum
  deriving DecidableEq, Repr

/-- The legal forms of U (R110). -/
inductive UMode where
  | vec
  | uni
  | both
  deriving DecidableEq, Repr

/-- The role of I and of an immediate b (R95). -/
inductive Imm where
  /-- I must be 0 -/
  | none
  /-- b is a register or an immediate -/
  | opt
  /-- I must be 1 and the immediate lies in a range -/
  | req (lo hi : Int)
  /-- I = 1 gives the length in word 2, extended form only, b 0 (R330) -/
  | len
  deriving DecidableEq, Repr

/-- One row of the opcode map with the field rules of its entry. -/
structure Row where
  cls : Nat
  op : Nat
  tys : List Nat := [0]
  umode : UMode := .vec
  ll : Bool := false
  /-- 0: any form; 1: prefixed or extended; 2: extended -/
  minForm : Nat := 0
  d : Role := .none
  a : Role := .none
  b : Role := .none
  c : Role := .none
  imm : Imm := .none
  lit : Bool := false
  block : Bool := false
  rndOk : Bool := false
  hasDst : Bool := false
  mskOk : Bool := true
  /-- the word-2 bits that the entry uses -/
  w2 : BitVec 32 := 0
  /-- word-2 bits that must be 1 -/
  w2one : BitVec 32 := 0
  orders : List Nat := [0]
  /-- class 4: the fields a and b carry an offset -/
  off : Bool := false
  /-- class 4: the fields a and b carry a code in a range -/
  code : Option (Nat × Nat) := .none
  /-- class 8: a handle or flag mask, from S[a] in the short forms and from word 2 in the extended ones -/
  handle : Bool := false
  /-- a firmware-only op -/
  fw : Bool := false
  deriving DecidableEq, Repr

/-- Three-operand class-1 rows (R162). -/
def rAlu (op : Nat) : Row :=
  { cls := 1, op := op, tys := [0, 1, 2, 3], umode := .both, d := .val, a := .val, b := .val,
    imm := .opt, lit := true, block := true, hasDst := true }

/-- Unary class-1 rows. -/
def rUn (op : Nat) : Row :=
  { cls := 1, op := op, tys := [0, 1, 2, 3], umode := .both, d := .val, a := .val, block := true, hasDst := true }

/-- Class-2 rows (R176, R177). -/
def rFp (op : Nat) : Row :=
  { cls := 2, op := op, tys := [0, 1, 2], umode := .both, d := .val, a := .val, b := .val,
    imm := .opt, lit := true, block := (op ≤ 7 || (0x0D ≤ op && op ≤ 0x10) || op == 0x14),
    rndOk := true, hasDst := true }

/-- The special functions (R187). -/
def rSfu (op : Nat) : Row :=
  { cls := 3, op := op, tys := [0], umode := .both, ll := true, d := .val, a := .val, block := true,
    rndOk := true, hasDst := true }

/-- The conversions (R188, R189). -/
def rCvt (op : Nat) : Row :=
  { cls := 3, op := op, tys := [0, 1, 2, 3], umode := .both, ll := true, minForm := 2, d := .val, a := .val,
    rndOk := true, hasDst := true, w2 := 0xFF }

/-- Class-4 rows (R192, R193). -/
def rCtl (op : Nat) : Row := { cls := 4, op := op }

/-- Class-4 rows with a target: the offset stands in fields a and b, or in word 2 [31:8] (R91, R193). -/
def rOff (op : Nat) : Row := { rCtl op with off := true, w2 := 0xFFFFFF00 }

/-- Class-4 rows with a code or count in a range, in fields a and b or in word 2 [7:0] (R91, R193). -/
def rCode (op lo hi : Nat) : Row := { rCtl op with umode := .uni, code := some (lo, hi), w2 := 0xFF }

/-- Class-5 and class-6 rows (R244, R249). -/
def rMem (cls op : Nat) : Row :=
  { cls := cls, op := op, tys := [0, 1, 2, 3], umode := .both, ll := true, a := .sreg, b := .r32,
    imm := .opt, w2 := 0xFFFFFF00 }

/-- Class-7 rows (R305). -/
def rHome (op : Nat) : Row :=
  { cls := 7, op := op, tys := [0, 1, 2, 3], umode := .both, ll := true, a := .sreg, b := .r32,
    imm := .opt, w2 := 0xFFFFFF3F }

/-- Class-8 rows (R201). -/
def rSyn (op : Nat) : Row := { cls := 8, op := op }

/-- Class-9 rows (R273). -/
def rMx (op : Nat) : Row := { cls := 9, op := op, umode := .uni, ll := true, minForm := 2, mskOk := false }

/-- Class-10 rows (R290). -/
def rSig (op : Nat) : Row := { cls := 10, op := op, umode := .uni, ll := true, minForm := 2 }

/-- Class-11 rows (R330, R339). -/
def rXf (op : Nat) : Row := { cls := 11, op := op, umode := .uni, ll := true, mskOk := false }

/-- Class-12 rows (R228, R377, R416). -/
def rSys (op : Nat) : Row := { cls := 12, op := op, umode := .uni, mskOk := false }

/-- The row of an encoded instruction in the opcode map (R110) with its unit's fields; none for a clause
header and for an event, which have no unit. DEDUCED (log 87): an index register (`ixset`) and the signature state of the
register form of `sig.step` are no register destinations, so Z = 1 is trap 0x01 for both (R96, R174). DEDUCED (log 102):
`movr` and `movw` have no literal form (L = 11 is trap 0x01). -/
def Instr.parts : Instr → Option (Row × Enc)
  | .clauseHeader _ _ _ _ => none
  | .add x => some (rAlu 0, x)
  | .sub x => some (rAlu 1, x)
  | .mul x => some (rAlu 2, x)
  | .mulhi x => some (rAlu 3, x)
  | .mad x => some ({ rAlu 4 with c := .val, minForm := 1 }, x)
  | .min x => some (rAlu 5, x)
  | .max x => some (rAlu 6, x)
  | .abs x => some (rUn 7, x)
  | .neg x => some (rUn 8, x)
  | .and x => some (rAlu 9, x)
  | .or x => some (rAlu 10, x)
  | .xor x => some (rAlu 11, x)
  | .andn x => some (rAlu 12, x)
  | .not x => some (rUn 13, x)
  | .shl x => some ({ rAlu 14 with b := .r32 }, x)
  | .shr x => some ({ rAlu 15 with b := .r32 }, x)
  | .sar x => some ({ rAlu 16 with b := .r32 }, x)
  | .rot x => some ({ rAlu 17 with b := .r32 }, x)
  | .clz x => some (rUn 18, x)
  | .popc x => some (rUn 19, x)
  | .bfe x => some ({ rAlu 20 with b := .r32, w2 := 0xFFFFFF00 }, x)
  | .bfi x => some ({ rAlu 21 with b := .r32, c := .val, minForm := 1, w2 := 0xFFFFFF00 }, x)
  | .sel x => some ({ rAlu 22 with c := .maskOrS, minForm := 1 }, x)
  | .cmpEq x => some ({ rAlu 23 with d := .mask 1 7, umode := .vec, block := false }, x)
  | .cmpNe x => some ({ rAlu 24 with d := .mask 1 7, umode := .vec, block := false }, x)
  | .cmpLt x => some ({ rAlu 25 with d := .mask 1 7, umode := .vec, block := false }, x)
  | .cmpLe x => some ({ rAlu 26 with d := .mask 1 7, umode := .vec, block := false }, x)
  | .cmpGt x => some ({ rAlu 27 with d := .mask 1 7, umode := .vec, block := false }, x)
  | .cmpGe x => some ({ rAlu 28 with d := .mask 1 7, umode := .vec, block := false }, x)
  | .mov x => some (rUn 0x1D, x)
  | .movi x => some ({ rAlu 0x1E with a := .none, b := .none, w2 := 0xFFFFFF00 }, x)
  | .lea x => some ({ rAlu 0x1F with a := .sreg, d := .pair, w2 := 0xFFFFFF00 }, x)
  | .shfl x => some ({ rAlu 32 with b := .r32, umode := .vec, ll := true, block := false }, x)
  | .shflUp x => some ({ rAlu 33 with b := .r32, umode := .vec, ll := true, block := false }, x)
  | .shflDn x => some ({ rAlu 34 with b := .r32, umode := .vec, ll := true, block := false }, x)
  | .shflX x => some ({ rAlu 35 with b := .r32, umode := .vec, ll := true, block := false }, x)
  | .voteAny x => some ({ rUn 0x24 with d := .mask 1 7, tys := [0], umode := .vec, ll := true, block := false }, x)
  | .voteAll x => some ({ rUn 0x25 with d := .mask 1 7, tys := [0], umode := .vec, ll := true, block := false }, x)
  | .ballot x => some ({ rUn 0x26 with d := .pair, tys := [0], umode := .vec, ll := true, block := false }, x)
  | .matchOp x => some ({ rUn 0x27 with d := .pair, umode := .vec, ll := true, block := false }, x)
  | .elect x => some ({ rUn 0x28 with d := .mask 1 7, a := .none, tys := [0], umode := .vec, ll := true, block := false }, x)
  | .reduxAdd x => some ({ rUn 41 with umode := .vec, ll := true, block := false }, x)
  | .reduxMin x => some ({ rUn 42 with umode := .vec, ll := true, block := false }, x)
  | .reduxMax x => some ({ rUn 43 with umode := .vec, ll := true, block := false }, x)
  | .reduxAnd x => some ({ rUn 44 with umode := .vec, ll := true, block := false }, x)
  | .reduxOr x => some ({ rUn 45 with umode := .vec, ll := true, block := false }, x)
  | .scanAdd x => some ({ rUn 46 with umode := .vec, ll := true, block := false }, x)
  | .scanXadd x => some ({ rUn 47 with umode := .vec, ll := true, block := false }, x)
  | .movr x => some ({ rUn 0x30 with a := .num 0 3, b := .none, imm := .opt, tys := [0], umode := .vec, block := false }, x)
  | .movw x => some ({ rUn 0x31 with d := .num 0 3, b := .none, imm := .opt, tys := [0], umode := .vec, block := false, hasDst := true }, x)
  | .ixset x => some ({ rUn 0x32 with d := .num 0 3, a := .none, b := .r32, imm := .opt, lit := true, tys := [0], umode := .vec, block := false, hasDst := false }, x)
  | .tidx x => some ({ rUn 0x33 with a := .none, b := .none, imm := .req 0 15, tys := [0], block := false }, x)
  | .bcast x => some ({ rUn 0x34 with d := .sreg, a := .vval, umode := .uni, ll := true, block := false }, x)
  | .pick x => some ({ rAlu 0x35 with d := .sreg, a := .vval, b := .sreg, umode := .uni, ll := true, block := false }, x)
  | .fadd x => some (rFp 0, x)
  | .fsub x => some (rFp 1, x)
  | .fmul x => some (rFp 2, x)
  | .fma x => some ({ rFp 3 with c := .val, minForm := 1 }, x)
  | .fmin x => some ({ rFp 4 with rndOk := false }, x)
  | .fmax x => some ({ rFp 5 with rndOk := false }, x)
  | .fabs x => some ({ rFp 6 with rndOk := false, b := .none, imm := .none, lit := false }, x)
  | .fneg x => some ({ rFp 7 with rndOk := false, b := .none, imm := .none, lit := false }, x)
  | .fcmpEq x => some ({ rFp 8 with rndOk := false, d := .maskPair, umode := .vec, block := false }, x)
  | .fcmpNe x => some ({ rFp 9 with rndOk := false, d := .maskPair, umode := .vec, block := false }, x)
  | .fcmpLt x => some ({ rFp 10 with rndOk := false, d := .maskPair, umode := .vec, block := false }, x)
  | .fcmpLe x => some ({ rFp 11 with rndOk := false, d := .maskPair, umode := .vec, block := false }, x)
  | .fcmpUn x => some ({ rFp 12 with rndOk := false, d := .maskPair, umode := .vec, block := false }, x)
  | .fclass x => some ({ rFp 13 with rndOk := false, b := .none, imm := .none, lit := false }, x)
  | .fscale x => some (rFp 0x0E, x)
  | .frnd x => some ({ rFp 0x0F with b := .none, imm := .none, lit := false }, x)
  | .fdot2 x => some ({ rFp 0x10 with c := .val, minForm := 1, tys := [1, 2] }, x)
  | .freduxAdd x => some ({ rFp 17 with b := .none, imm := .none, lit := false, umode := .vec, ll := true, block := false, rndOk := true }, x)
  | .freduxMax x => some ({ rFp 18 with b := .none, imm := .none, lit := false, umode := .vec, ll := true, block := false, rndOk := false }, x)
  | .fscanAdd x => some ({ rFp 19 with b := .none, imm := .none, lit := false, umode := .vec, ll := true, block := false, rndOk := true }, x)
  | .fcopysign x => some ({ rFp 20 with rndOk := false }, x)
  | .rcp x => some (rSfu 0, x)
  | .rsq x => some (rSfu 1, x)
  | .sqrt x => some (rSfu 2, x)
  | .exp2 x => some (rSfu 3, x)
  | .log2 x => some (rSfu 4, x)
  | .sin x => some (rSfu 5, x)
  | .cos x => some (rSfu 6, x)
  | .tanh x => some (rSfu 7, x)
  | .erf x => some (rSfu 8, x)
  | .cvt x => some (rCvt 9, x)
  | .qnt x => some ({ rCvt 0x0A with c := .val }, x)
  | .dqnt x => some ({ rCvt 0x0B with c := .val }, x)
  | .pack x => some ({ rCvt 0x0C with b := .val, imm := .opt }, x)
  | .unpack x => some ({ rCvt 0x0D with b := .val, imm := .opt }, x)
  | .jmp x => some ({ rOff 0 with umode := .uni }, x)
  | .br x => some ({ rOff 1 with d := .num 0 7 }, x)
  | .bru x => some ({ rOff 2 with umode := .uni, d := .sreg }, x)
  | .brx x => some ({ rCtl 3 with a := .val }, x)
  | .call x => some ({ rOff 4 with umode := .both, d := .val, hasDst := false }, x)
  | .callx x => some ({ rCtl 5 with d := .val, a := .val, hasDst := false }, x)
  | .ret x => some ({ rCtl 6 with umode := .both, a := .val }, x)
  | .rejoin x => some (rOff 7, x)
  | .exit x => some (rCtl 8, x)
  | .kill x => some ({ rCtl 9 with d := .num 0 7 }, x)
  | .loop x => some ({ rOff 0x0A with umode := .uni, d := .sreg }, x)
  | .trap x => some (rCode 0x0B 0x80 0xFF, x)
  | .tret x => some ({ rCtl 0x0C with umode := .uni }, x)
  | .yield x => some ({ rCtl 0x0D with umode := .uni }, x)
  | .sleep x => some (rCode 0x0E 0 0xFF, x)
  | .nop x => some ({ rCtl 0x0F with umode := .uni }, x)
  | .halt x => some ({ rCtl 0x10 with umode := .uni, fw := true }, x)
  | .ldL x => some ({ rMem 5 0 with d := .val, hasDst := true }, x)
  | .stL x => some ({ rMem 5 1 with d := .val }, x)
  | .ldbL x => some ({ rMem 5 2 with tys := [0], umode := .vec, d := .quad, hasDst := true }, x)
  | .stbL x => some ({ rMem 5 3 with tys := [0], umode := .vec, d := .quad }, x)
  | .tagClr x => some ({ rMem 5 4 with tys := [0], umode := .uni, d := .num 1 3 }, x)
  | .tagSet x => some ({ rMem 5 5 with tys := [0], umode := .uni, d := .num 1 3 }, x)
  | .tagWc x => some ({ rMem 5 6 with tys := [0], umode := .uni }, x)
  | .plane x => some ({ rMem 5 7 with tys := [0], umode := .uni, d := .sreg, b := .sreg, imm := .none, w2 := 0 }, x)
  | .unplane x => some ({ rMem 5 8 with tys := [0], umode := .uni, d := .sreg, b := .sreg, imm := .none, w2 := 0 }, x)
  | .zeroL x => some ({ rMem 5 9 with tys := [0], umode := .uni, d := .sreg }, x)
  | .ldG x => some ({ rMem 6 0 with d := .val, hasDst := true }, x)
  | .stG x => some ({ rMem 6 1 with d := .val }, x)
  | .ldbG x => some ({ rMem 6 2 with tys := [0], umode := .vec, d := .quad, hasDst := true }, x)
  | .stbG x => some ({ rMem 6 3 with tys := [0], umode := .vec, d := .quad }, x)
  | .prfG x => some ({ rMem 6 4 with tys := [0] }, x)
  | .ldR x => some ({ rMem 6 5 with d := .val, hasDst := true }, x)
  | .stR x => some ({ rMem 6 6 with d := .val }, x)
  | .ldAcq x => some ({ rMem 6 7 with d := .val, hasDst := true, w2 := 0xFFFFFF3F, orders := [0, 1, 4] }, x)
  | .stRel x => some ({ rMem 6 8 with d := .val, w2 := 0xFFFFFF3F, orders := [0, 2, 4] }, x)
  | .atomAdd x => some ({ rHome 0 with d := .val, c := .val, minForm := 1, hasDst := true, orders := [0, 1, 2, 3, 4] }, x)
  | .atomMin x => some ({ rHome 1 with d := .val, c := .val, minForm := 1, hasDst := true, orders := [0, 1, 2, 3, 4] }, x)
  | .atomMax x => some ({ rHome 2 with d := .val, c := .val, minForm := 1, hasDst := true, orders := [0, 1, 2, 3, 4] }, x)
  | .atomAnd x => some ({ rHome 3 with d := .val, c := .val, minForm := 1, hasDst := true, orders := [0, 1, 2, 3, 4] }, x)
  | .atomOr x => some ({ rHome 4 with d := .val, c := .val, minForm := 1, hasDst := true, orders := [0, 1, 2, 3, 4] }, x)
  | .atomXor x => some ({ rHome 5 with d := .val, c := .val, minForm := 1, hasDst := true, orders := [0, 1, 2, 3, 4] }, x)
  | .atomXchg x => some ({ rHome 6 with d := .val, c := .val, minForm := 1, hasDst := true, orders := [0, 1, 2, 3, 4] }, x)
  | .atomCas x => some ({ rHome 7 with d := .val, c := .val, minForm := 1, hasDst := true, orders := [0, 1, 2, 3, 4] }, x)
  | .redAdd x => some ({ rHome 8 with d := .val, orders := [0, 2] }, x)
  | .redMin x => some ({ rHome 9 with d := .val, orders := [0, 2] }, x)
  | .redMax x => some ({ rHome 10 with d := .val, orders := [0, 2] }, x)
  | .redX96 x => some ({ rHome 0x0B with d := .x96val, orders := [0, 2] }, x)
  | .x96Ld x => some ({ rHome 0x0C with tys := [0], d := .x96dst, hasDst := true, orders := [0, 1] }, x)
  | .x96Init x => some ({ rHome 0x0D with tys := [0], d := .r32, orders := [0, 2] }, x)
  | .cellArm x => some ({ rHome 0x0E with tys := [0, 2], d := .pair, orders := [0, 2] }, x)
  | .cellProp x => some ({ rHome 0x0F with tys := [0, 2], d := .cellDst, c := .val, minForm := 1, hasDst := true, orders := [0, 2], w2 := 0xFFFFFFFF }, x)
  | .cellLd x => some ({ rHome 0x10 with tys := [0, 2], d := .cellDst, hasDst := true, orders := [0, 1] }, x)
  | .cellReset x => some ({ rHome 0x11 with tys := [0, 2], orders := [0, 2], w2 := 0xFFFFFF7F }, x)
  | .cellFlush x => some ({ rHome 0x12 with tys := [0, 2], orders := [0] }, x)
  | .barArv x => some ({ rSyn 0 with handle := true, w2 := 0xFFFF0000 }, x)
  | .barWait x => some ({ rSyn 1 with handle := true, w2 := 0xFFFF0000 }, x)
  | .barSync x => some ({ rSyn 2 with handle := true, w2 := 0xFFFF0000 }, x)
  | .barBind x => some ({ rSyn 3 with umode := .uni, b := .sreg, handle := true, w2 := 0xFFFF0000 }, x)
  | .setNew x => some ({ rSyn 4 with umode := .uni, d := .sreg, imm := .req 1 3 }, x)
  | .setJoin x => some ({ rSyn 5 with handle := true, w2 := 0xFFFF0000 }, x)
  | .setLeave x => some ({ rSyn 6 with handle := true, w2 := 0xFFFF0000 }, x)
  | .setFree x => some ({ rSyn 7 with umode := .uni, handle := true, w2 := 0xFFFF0000 }, x)
  | .fence x => some ({ rSyn 8 with umode := .both, w2 := 0x7 }, x)
  | .opfence x => some ({ rSyn 9 with umode := .uni }, x)
  | .waitf x => some ({ rSyn 0x0A with umode := .uni, handle := true, w2 := 0x0FFF0000 }, x)
  | .acqRemote x => some ({ rSyn 0x0B with umode := .both, a := .sreg, ll := true, w2 := 0xFFC7 }, x)
  | .scopeof x => some ({ rSyn 0x0C with umode := .both, d := .val1, a := .sreg, b := .r32, imm := .opt }, x)
  | .barPoll x => some ({ rSyn 0x0D with umode := .both, d := .maskOrS1, handle := true, w2 := 0xFFFF0000 }, x)
  | .mxLoop x => some ({ rMx 0 with a := .sreg, b := .sreg, w2 := 0xFFFFFFF9 }, x)
  | .mxLoops x => some ({ rMx 1 with a := .sreg, b := .sreg, w2 := 0xFFFFFFFF }, x)
  | .mxZero x => some ({ rMx 2 with a := .sreg, w2 := 0xFFF8 }, x)
  | .mxWin x => some ({ rMx 3 with a := .sreg, w2 := 0xFFF8 }, x)
  | .mxRead x => some ({ rMx 4 with a := .sreg, w2 := 0xFF00FC01, rndOk := true }, x)
  | .mxStore x => some ({ rMx 5 with a := .sreg, w2 := 0xFFF8 }, x)
  | .mxLoad x => some ({ rMx 6 with a := .sreg, w2 := 0xFFF9 }, x)
  | .mxStat x => some ({ rMx 7 with d := .sreg, w2 := 0xFC00 }, x)
  | .mxMove x => some ({ rMx 8 with d := .num 0 47, w2 := 0xFFF8 }, x)
  | .sigCfg x => some ({ rSig 0 with a := .sregMax 61, w2 := 0x00C0FC00 }, x)
  | .sigOne x => some ({ rSig 1 with w2 := 0x00C003F8 }, x)
  | .sigStepReg x => some ({ rSig 2 with umode := .vec, a := .val, w2 := 0x00C003F8 }, x)
  | .sigStepScratch x => some ({ rSig 2 with umode := .vec, mskOk := false, a := .sreg, w2 := 0xFFC003FB, w2one := 2 }, x)
  | .sigJoin x => some ({ rSig 3 with d := .num 0 3, w2 := 0x00C003F8 }, x)
  | .sigJoinl x => some ({ rSig 4 with d := .num 0 3, w2 := 0x00C003F8 }, x)
  | .sigLog x => some ({ rSig 5 with w2 := 0x00C003F8 }, x)
  | .sigRead x => some ({ rSig 6 with a := .sreg, w2 := 0xFFC00000, rndOk := true }, x)
  | .sigStat x => some ({ rSig 7 with d := .sreg, w2 := 0x00C00000 }, x)
  | .xfPut x => some ({ rXf 0 with d := .sreg, a := .sreg, b := .sreg, c := .sreg, imm := .len, w2 := 0xFFFFFF07 }, x)
  | .xfGet x => some ({ rXf 1 with d := .sreg, a := .sreg, b := .sreg, c := .sreg, imm := .len, w2 := 0xFFFFFF07 }, x)
  | .xfCpy x => some ({ rXf 2 with d := .sreg, a := .sreg, b := .sreg, c := .sreg, imm := .len, w2 := 0xFFFFFF07 }, x)
  | .xfDrain x => some (rXf 3, x)
  | .ctrSet x => some ({ rXf 4 with d := .sreg, a := .sreg, w2 := 0x7 }, x)
  | .ctrAdd x => some ({ rXf 5 with d := .sreg, a := .sreg, w2 := 0x7 }, x)
  | .ctrArm x => some ({ rXf 6 with d := .sreg, a := .sreg, w2 := 0xFFFF0007 }, x)
  | .ctrWait x => some ({ rXf 7 with a := .sreg, ll := false, w2 := 0x7 }, x)
  | .collPost x => some ({ rXf 8 with d := .sreg, a := .sreg, w2 := 0x7 }, x)
  | .fetchwk x => some ({ rXf 9 with a := .sreg }, x)
  | .xqPush x => some ({ rXf 0x0A with umode := .vec, mskOk := true, minForm := 2, d := .pair, a := .sreg, b := .r32, w2 := 0xFFFFFF07 }, x)
  | .xqTake x => some ({ rXf 0x0B with d := .sreg, a := .sreg, imm := .req 0 2 }, x)
  | .mfs x => some ({ rSys 0 with umode := .both, d := .pair, a := .srNum, mskOk := true, w2 := 0xFFFF0000 }, x)
  | .mts x => some ({ rSys 1 with d := .srNum, a := .sreg, w2 := 0xFFFF0000 }, x)
  | .tidWr x => some ({ rSys 2 with a := .sregMax 62, minForm := 2, w2 := 0xFF }, x)
  | .tidRd x => some ({ rSys 3 with d := .sregMax 62, minForm := 2, w2 := 0xFF }, x)
  | .clk x => some ({ rSys 4 with umode := .both, d := .pair, imm := .req 0 1, mskOk := true }, x)
  | .snap x => some ({ rSys 5 with d := .sreg, ll := true }, x)
  | .shEvict x => some ({ rSys 6 with a := .sreg, ll := true }, x)
  | .shTouch x => some ({ rSys 7 with d := .num 0 2, a := .sreg, ll := true }, x)
  | .pgInval x => some ({ rSys 8 with a := .sreg, imm := .req 0 1, ll := true }, x)
  | .ctxDrain x => some ({ rSys 9 with ll := true }, x)
  | .ctxSvb x => some ({ rSys 0x0A with d := .sreg, a := .sreg, ll := true }, x)
  | .ctxLdb x => some ({ rSys 0x0B with a := .sreg, ll := true }, x)
  | .ctxSvd x => some ({ rSys 0x0C with d := .sreg, a := .sreg, ll := true }, x)
  | .ctxLdd x => some ({ rSys 0x0D with a := .sreg, ll := true }, x)
  | .ctxSvx x => some ({ rSys 0x0E with d := .sreg, a := .sreg, b := .sreg, ll := true }, x)
  | .ctxLdx x => some ({ rSys 0x0F with a := .sreg, b := .sreg, ll := true }, x)
  | .leaseCas x => some ({ rSys 0x10 with d := .sregMax 62, a := .sreg, b := .sreg, ll := true, fw := true }, x)
  | .measure x => some ({ rSys 0x11 with d := .num 0 15, a := .sreg, b := .sreg, ll := true, fw := true, w2 := 0xFFFF0000 }, x)
  | .wfe x => some ({ rSys 0x12 with d := .sreg, a := .sreg, fw := true }, x)
  | .trapEntry _ => none
  | .faultReport _ => none
  | .laneIssue _ => none
  | .sleepExpiry _ => none
  | .engineArrival _ => none
  | .resultWriteback _ _ => none
  | .bankService _ _ => none
  | .tilePortDispatch _ => none
  | .loopStep _ => none
  | .surgeGrant _ => none
  | .sigDispatch _ => none
  | .homePerform _ _ => none
  | .writePacket _ => none
  | .readRequest _ => none
  | .readReply _ => none
  | .atomicRequest _ => none
  | .atomicReply _ => none
  | .acknowledgement _ => none
  | .dropNotice _ => none
  | .flit _ _ _ _ _ _ _ _ _ _ => none
  | .idleFlit _ => none
  | .escapeMove _ => none
  | .escapeDrop _ => none
  | .xqPushArrival _ => none
  | .xqRowLanding _ => none
  | .collChunkPost _ _ => none
  | .collCombine _ _ => none
  | .pageWalkComplete _ _ => none
  | .prop _ => none
  | .reply _ => none
  | .gstart _ => none
  | .shard _ => none
  | .evack _ => none
  | .free _ => none
  | .slice _ => none
  | .sack _ => none
  | .down _ => none
  | .qtailWrite _ _ _ => none
  | .queueEnable _ _ _ => none
  | .shawmFetch _ _ _ => none
  | .nopPacket _ _ => none
  | .launch _ _ => none
  | .copy _ _ => none
  | .indirect _ _ => none
  | .pred _ _ => none
  | .predPoll _ _ => none
  | .loopPacket _ _ => none
  | .fetchfence _ _ => none
  | .graph _ _ => none
  | .signal _ _ => none
  | .launchComplete _ => none
  | .blockPlacement _ _ => none
  | .qosPeriod _ => none
  | .pauseWrite _ _ => none
  | .functionReset _ => none
  | .registerWrite _ _ _ => none
  | .sliceEnd _ _ => none
  | .fwTimer _ => none
  | .leaseLapse _ => none
  | .door _ _ => none
  | .evtClear _ _ => none
  | .fwstatRun _ => none
  | .octlArm _ _ => none
  | .octlResetForce _ _ => none
  | .hando _ _ _ => none
  | .snapctlTrig _ _ => none
  | .snapctlRelease _ _ => none
  | .snapFabricTrigger _ => none
  | .trip _ _ => none
  | .pdReqOff _ _ => none
  | .pdReqRetention _ _ => none
  | .pdReqOn _ _ => none
  | .go _ _ => none
  | .powerOn _ => none
  | .mtIeee1500Reset _ _ => none
  | .mtImpedanceCal _ _ => none
  | .mtCaTraining _ _ => none
  | .mtReadEye _ _ => none
  | .mtWriteEye _ _ => none
  | .mtLaneRepair _ _ => none
  | .mtScrubStart _ _ => none
  | .mtRefreshEnable _ _ => none
  | .ltReceiverDetect _ _ => none
  | .ltBitLock _ _ => none
  | .ltFlitLock _ _ => none
  | .ltCreditExchange _ _ => none
  | .ltActive _ _ => none
  | .softError _ _ _ => none
  | .pressureEviction _ _ => none
  | .scrub _ _ => none
  | .linkRecalibration _ _ => none
  | .settle _ _ => none
  | .memoryTrainingDone _ _ _ _ => none
  | .linkTrainingDone _ _ _ => none
  | .acqRemoteRequest _ => none
  | .acqRemoteAnswer _ => none

/-- Whether the form is one of the extended ones (R89). -/
def Enc.ext (x : Enc) : Bool := x.form == .extended || x.form == .literal

/-- The width of the b immediate of the form (R95). -/
def Enc.immBits (x : Enc) : Nat :=
  match x.form with
  | .base => 5
  | .prefixed => 7
  | .extended => 8
  | .literal => 8

/-- The signed immediate of R95. -/
def Enc.imm (x : Enc) : Int :=
  let w := x.immBits
  let n := x.b.toNat % 2 ^ w
  if n < 2 ^ (w - 1) then (n : Int) else (n : Int) - (2 ^ w : Int)

/-- Fields that a form does not carry have their neutral values: register bits (R90), c, mask and rounding
(R88), block and ISEL (R89), word 2 (R91), the literal (R92) and the prefix's reserved field. -/
def Enc.shapeOk (x : Enc) : Bool :=
  match x.form with
  | .base => x.d < 32 && x.a < 32 && x.b < 32 && x.c == 0 && x.msk == 0 && !x.z && x.rnd == 0 && x.bh == 0 &&
      x.bw == 0 && x.isel == 0 && x.pre == 0 && x.w2 == 0 && x.lit == 0
  | .prefixed => x.d < 128 && x.a < 128 && x.b < 128 && x.bh == 0 && x.bw == 0 && x.isel == 0 && x.w2 == 0 &&
      x.lit == 0
  | .extended => x.pre == 0 && x.lit == 0
  | .literal => x.pre == 0

/-- Whether the type is one of the 64-bit ones (R158, R244): ty 2 and 3 of class 1 and of the class-7 atomics,
ty 1 of classes 5 and 6, ty 2 of the cell operations. -/
def Row.wide (r : Row) (x : Enc) : Bool :=
  if r.cls == 5 || r.cls == 6 then x.ty == 1
  else if r.cls == 1 || r.cls == 7 then 2 ≤ x.ty.toNat
  else false

/-- A role in the U form names a uniform register (R93). -/
def Role.uniform (r : Role) (u : Bool) : Bool :=
  match r with
  | .sreg | .sregMax _ => true
  | .val | .r32 | .pair | .maskOrS | .maskOrS1 | .val1 | .x96val | .x96dst | .cellDst => u
  | _ => false

/-- How many vector registers a vector role names from its number on; 0 when it names none. -/
def Role.span (r : Role) (row : Row) (x : Enc) : Nat :=
  match r with
  | .vval => if row.wide x then 2 else 1
  | .val => if x.u then 0 else if row.wide x then 2 else 1
  | .r32 => if x.u then 0 else 1
  | .val1 => if x.u then 0 else 1
  | .pair => if x.u then 0 else 2
  | .quad => 4
  | .x96val => if x.u then 0 else if x.ty == 3 then 2 else 1
  | .x96dst => if x.u then 0 else 4
  | .cellDst => if x.u then 0 else if x.ty == 2 then 3 else 2
  | _ => 0

/-- A role whose vector register number must be even (R94), given directly by the encoding. -/
def Role.evenPair (r : Role) (row : Row) (x : Enc) : Bool :=
  match r with
  | .vval => row.wide x
  | .val => !x.u && row.wide x
  | .pair => !x.u
  | .x96val => !x.u && x.ty == 3
  | .cellDst => !x.u && x.ty == 2
  | _ => false

/-- Step 6 for one field: a field without a role is 0, numbers lie in their ranges, uniform numbers are below
64 (R93, R159, R166, R185, R244, R305). -/
def Role.fieldOk (r : Role) (x : Enc) (n : BitVec 8) : Bool :=
  match r with
  | .none => n == 0
  | .quad => n.toNat % 4 == 0
  | .vval => n < 64
  | .sregMax k => n.toNat ≤ k
  | .mask _ hi => n.toNat ≤ hi
  | .maskPair => n.toNat ≤ (if x.ty == 0 then 7 else 6)
  | .maskOrS => n < (if x.u then 64 else 8)
  | .maskOrS1 => n < (if x.u then 64 else 8)
  | .num lo hi => lo ≤ n.toNat && n.toNat ≤ hi
  | .x96dst => if x.u then n.toNat % 2 == 0 && n.toNat ≤ 62 else n.toNat % 4 == 0
  | .cellDst => !x.u || n.toNat ≤ 62
  | .srNum => !x.ext || n == 0
  | r => !(r.uniform x.u) || n < 64

/-- Step 7: a mask destination is not m0 (R64, R166, R185). -/
def Role.m0Ok (r : Role) (x : Enc) : Bool :=
  match r with
  | .mask lo _ => lo == 0 || x.d != 0
  | .maskPair => x.d != 0
  | .maskOrS1 => x.u || x.d != 0
  | _ => true

/-- Whether ISEL names this field (R100). -/
def Enc.indirect (x : Enc) (k : Nat) : Bool := x.isel.toNat == k && k != 0

/-- Step 4 (R110): the type is legal for the op. -/
def Row.tyOk (r : Row) (x : Enc) : Bool := r.tys.contains x.ty.toNat

/-- Step 5: the U value and the form (R91, R92, R110). -/
def Row.formOk (r : Row) (x : Enc) : Bool :=
  (match r.umode with
    | .vec => !x.u
    | .uni => x.u
    | .both => true) &&
  (match x.form with
    | .base => r.minForm == 0
    | .prefixed => r.minForm ≤ 1
    | .extended => true
    | .literal => r.lit)

/-- The b field and I (R92, R95, R164, R167, R193, R330). -/
def Row.immOk (r : Row) (x : Enc) : Bool :=
  if x.form == .literal then !x.i && x.b == 0
  else if r.cls == 1 && (r.op == 0x14 || r.op == 0x15) && x.i then x.ext && x.b == 0
  else if r.cls == 1 && r.op == 0x1E then (x.i || (x.ext && x.b == 0))
  else match r.imm with
    | .none => !x.i
    | .opt => true
    | .req lo hi => x.i && lo ≤ x.imm && x.imm ≤ hi
    | .len => !x.i || (x.ext && x.b == 0)

/-- What word 2 may hold (R91): bits outside the entry's fields are 0, orders and scopes are legal, and imm24
of `movi`, `bfe`, `bfi` and of a bulk copy is used by one of their forms only. -/
def Row.w2Ok (r : Row) (x : Enc) : Bool :=
  (x.w2 &&& ~~~r.w2) == 0 && (x.w2 &&& r.w2one) == r.w2one &&
  (!(r.cls == 6 || r.cls == 7) || r.orders.contains ((x.w2.toNat / 8) % 8)) &&
  (!(r.cls == 1 && r.op == 0x1E) || x.w2 == 0 || (x.form == .extended && !x.i)) &&
  (!(r.cls == 1 && (r.op == 0x14 || r.op == 0x15)) || x.w2 == 0 || x.i) &&
  (!(r.imm == .len) || x.i || x.w2.toNat < 8) &&
  (!(r.cls == 7 && r.op == 0x0F) || !x.u || (x.w2.toNat / 64) % 4 == 0) &&
  (match r.code with
    | .none => true
    | .some (lo, hi) =>
      let n := if x.ext then x.w2.toNat % 256 else x.a.toNat * 32 + x.b.toNat % 32
      lo ≤ n && n ≤ hi) &&
  (!(r.cls == 12 && r.op == 0x11) || !x.ext ||
    (let t := x.w2.toNat / 65536
     t == 0 || (0x8000 ≤ t && t < 0x8100 && x.d == 0)))

/-- The a and b fields of class 4: an offset or a code in the short forms, 0 in the extended ones (R91, R193). -/
def Row.ctlOk (r : Row) (x : Enc) : Bool :=
  if r.off then (if x.ext then x.a == 0 && x.b == 0 else x.a < 32 && x.b < 32)
  else if r.code.isSome then (if x.ext then x.a == 0 && x.b == 0 else x.a < 8 && x.b < 32)
  else true

/-- The handle field of class 8: a uniform register in the short forms, a = 0 in the extended ones (R201). -/
def Row.handleOk (r : Row) (x : Enc) : Bool :=
  !r.handle || (if x.ext then x.a == 0 else x.a < 64)

/-- Special-register numbers that exist, and for `mts` the writable one (R226). -/
def srNumber (r : Row) (x : Enc) : Nat :=
  if x.ext then x.w2.toNat / 65536 else if r.op == 1 then x.d.toNat else x.a.toNat

/-- R226: the number is listed, and `mts` names a register that is RW. -/
def Row.srOk (r : Row) (x : Enc) : Bool :=
  !(r.cls == 12 && (r.op == 0 || r.op == 1)) ||
  (if r.op == 1 then srNumber r x == 0
   else srNumber r x ≤ 4 || (8 ≤ srNumber r x && srNumber r x ≤ 15))

/-- Step 6, the fields d, a, b and c. A field with I = 1 is an immediate, and an indirect field is read as two
parts (R100). -/
def Row.fieldsOk (r : Row) (x : Enc) : Bool :=
  (x.indirect 3 || r.d.fieldOk x x.d) &&
  (r.off || r.code.isSome || r.handle || x.indirect 1 || r.a.fieldOk x x.a) &&
  (r.off || r.code.isSome || x.i || x.form == .literal || x.indirect 2 || r.b.fieldOk x x.b) &&
  (!(r.cls == 1 && (r.op == 0x30 || r.op == 0x31)) || x.i || x.b == 0) &&
  r.c.fieldOk x x.c

/-- Step 6, rounding, mask, zeroing, F, blocks and ISEL (R96, R97, R99, R100, R107). -/
def Row.modsOk (r : Row) (x : Enc) : Bool :=
  x.rnd != 7 && (r.rndOk || x.rnd == 0) &&
  !(x.z && (x.msk == 0 || !r.hasDst)) &&
  (x.msk == 0 || (!x.u && r.mskOk)) &&
  (r.ll || !x.f) &&
  ((x.bh == 0 && x.bw == 0) || (r.block && !x.u)) &&
  (x.isel == 0 || (r.block && !x.u &&
    (match x.isel.toNat with
      | 1 => 0 < r.a.span r x
      | 2 => !x.i && x.form != .literal && 0 < r.b.span r x
      | _ => 0 < r.d.span r x)))

/-- Step 8 (R94): register pairs given directly are even. -/
def Row.pairsOk (r : Row) (x : Enc) : Bool :=
  (x.indirect 3 || !r.d.evenPair r x || x.d.toNat % 2 == 0) &&
  (x.indirect 1 || !r.a.evenPair r x || x.a.toNat % 2 == 0) &&
  (x.i || x.form == .literal || x.indirect 2 || !r.b.evenPair r x || x.b.toNat % 2 == 0) &&
  (!r.c.evenPair r x || x.c.toNat % 2 == 0)

/-- Steps 4 to 8 of R112 for a row and its fields, with the shape of the form. -/
def Row.ok (r : Row) (x : Enc) : Bool :=
  x.shapeOk && x.pre == 0 && r.tyOk x && r.formOk x && r.fieldsOk x && r.modsOk x && r.immOk x && r.w2Ok x &&
  r.ctlOk x && r.handleOk x && r.srOk x && r.d.m0Ok x && r.pairsOk x

/-- A clause header's own fates (R104): LEN is not 0, SETA and SETB are not 12 to 14. -/
def headerOk (a b : BitVec 4) (l : BitVec 6) : Bool :=
  l != 0 && !(12 ≤ a.toNat && a.toNat ≤ 14) && !(12 ≤ b.toNat && b.toNat ≤ 14)

/-- No decode fate of R104 or of steps 4 to 8 of R112 applies. Events have no encoding and no fate. -/
def Instr.wellFormed (i : Instr) : Bool :=
  match i with
  | .clauseHeader _ a b l => headerOk a b l
  | i => match i.parts with
    | some (r, x) => r.ok x
    | none => true

end Sys2Proof
end

