-- ==== Sys2Proof/Decode.lean ====
section
/-! DEFINITION. The decoder (R85 to R92, R104, R111 and steps 1 and 2 of R112), total on any words and
rejecting by name, and the encoder written from the same tables. The fates of steps 4 to 8 of R112 are
`Instr.wellFormed`; every fate is trap 0x01. -/

namespace Sys2Proof

/-- Why words are no instruction (R112, steps 1 and 2). -/
inductive DecodeFate where
  /-- the unit's words run past what there is (R105) -/
  | truncated
  /-- the shape is wrong: R86, class 14 or 15, a class-13 word that is no prefix, class 0 with L not 00 -/
  | shape
  /-- the op is unassigned in its class (R110) -/
  | unassigned
  deriving DecidableEq, Repr

/-- Bits [lo+n-1 : lo] of a word. -/
def fld (w lo n : Nat) : Nat := w / 2 ^ lo % 2 ^ n

/-- The 32-bit little-endian words of a list of bytes (R85); bytes past the last whole word are dropped. -/
def wordsOfBytes : List Byte → List Word
  | a :: b :: c :: d :: t =>
    BitVec.ofNat 32 (a.toNat + 2 ^ 8 * b.toNat + 2 ^ 16 * c.toNat + 2 ^ 24 * d.toNat) :: wordsOfBytes t
  | _ => []

/-- The four bytes of a word, least significant first (R85). -/
def bytesOfWord (w : Word) : List Byte :=
  [BitVec.ofNat 8 w.toNat, BitVec.ofNat 8 (w.toNat / 2 ^ 8), BitVec.ofNat 8 (w.toNat / 2 ^ 16),
    BitVec.ofNat 8 (w.toNat / 2 ^ 24)]

/-- The instruction of an op (R110), with its unit's fields. The two forms of `sig.step` differ in word 2
bit 1 (R290). -/
def instrOfOp (cls op : Nat) (x : Enc) : Option Instr :=
  match cls, op with
  | 1, 0x00 => some (.add x)
  | 1, 0x01 => some (.sub x)
  | 1, 0x02 => some (.mul x)
  | 1, 0x03 => some (.mulhi x)
  | 1, 0x04 => some (.mad x)
  | 1, 0x05 => some (.min x)
  | 1, 0x06 => some (.max x)
  | 1, 0x07 => some (.abs x)
  | 1, 0x08 => some (.neg x)
  | 1, 0x09 => some (.and x)
  | 1, 0x0A => some (.or x)
  | 1, 0x0B => some (.xor x)
  | 1, 0x0C => some (.andn x)
  | 1, 0x0D => some (.not x)
  | 1, 0x0E => some (.shl x)
  | 1, 0x0F => some (.shr x)
  | 1, 0x10 => some (.sar x)
  | 1, 0x11 => some (.rot x)
  | 1, 0x12 => some (.clz x)
  | 1, 0x13 => some (.popc x)
  | 1, 0x14 => some (.bfe x)
  | 1, 0x15 => some (.bfi x)
  | 1, 0x16 => some (.sel x)
  | 1, 0x17 => some (.cmpEq x)
  | 1, 0x18 => some (.cmpNe x)
  | 1, 0x19 => some (.cmpLt x)
  | 1, 0x1A => some (.cmpLe x)
  | 1, 0x1B => some (.cmpGt x)
  | 1, 0x1C => some (.cmpGe x)
  | 1, 0x1D => some (.mov x)
  | 1, 0x1E => some (.movi x)
  | 1, 0x1F => some (.lea x)
  | 1, 0x20 => some (.shfl x)
  | 1, 0x21 => some (.shflUp x)
  | 1, 0x22 => some (.shflDn x)
  | 1, 0x23 => some (.shflX x)
  | 1, 0x24 => some (.voteAny x)
  | 1, 0x25 => some (.voteAll x)
  | 1, 0x26 => some (.ballot x)
  | 1, 0x27 => some (.matchOp x)
  | 1, 0x28 => some (.elect x)
  | 1, 0x29 => some (.reduxAdd x)
  | 1, 0x2A => some (.reduxMin x)
  | 1, 0x2B => some (.reduxMax x)
  | 1, 0x2C => some (.reduxAnd x)
  | 1, 0x2D => some (.reduxOr x)
  | 1, 0x2E => some (.scanAdd x)
  | 1, 0x2F => some (.scanXadd x)
  | 1, 0x30 => some (.movr x)
  | 1, 0x31 => some (.movw x)
  | 1, 0x32 => some (.ixset x)
  | 1, 0x33 => some (.tidx x)
  | 1, 0x34 => some (.bcast x)
  | 1, 0x35 => some (.pick x)
  | 2, 0x00 => some (.fadd x)
  | 2, 0x01 => some (.fsub x)
  | 2, 0x02 => some (.fmul x)
  | 2, 0x03 => some (.fma x)
  | 2, 0x04 => some (.fmin x)
  | 2, 0x05 => some (.fmax x)
  | 2, 0x06 => some (.fabs x)
  | 2, 0x07 => some (.fneg x)
  | 2, 0x08 => some (.fcmpEq x)
  | 2, 0x09 => some (.fcmpNe x)
  | 2, 0x0A => some (.fcmpLt x)
  | 2, 0x0B => some (.fcmpLe x)
  | 2, 0x0C => some (.fcmpUn x)
  | 2, 0x0D => some (.fclass x)
  | 2, 0x0E => some (.fscale x)
  | 2, 0x0F => some (.frnd x)
  | 2, 0x10 => some (.fdot2 x)
  | 2, 0x11 => some (.freduxAdd x)
  | 2, 0x12 => some (.freduxMax x)
  | 2, 0x13 => some (.fscanAdd x)
  | 2, 0x14 => some (.fcopysign x)
  | 3, 0x00 => some (.rcp x)
  | 3, 0x01 => some (.rsq x)
  | 3, 0x02 => some (.sqrt x)
  | 3, 0x03 => some (.exp2 x)
  | 3, 0x04 => some (.log2 x)
  | 3, 0x05 => some (.sin x)
  | 3, 0x06 => some (.cos x)
  | 3, 0x07 => some (.tanh x)
  | 3, 0x08 => some (.erf x)
  | 3, 0x09 => some (.cvt x)
  | 3, 0x0A => some (.qnt x)
  | 3, 0x0B => some (.dqnt x)
  | 3, 0x0C => some (.pack x)
  | 3, 0x0D => some (.unpack x)
  | 4, 0x00 => some (.jmp x)
  | 4, 0x01 => some (.br x)
  | 4, 0x02 => some (.bru x)
  | 4, 0x03 => some (.brx x)
  | 4, 0x04 => some (.call x)
  | 4, 0x05 => some (.callx x)
  | 4, 0x06 => some (.ret x)
  | 4, 0x07 => some (.rejoin x)
  | 4, 0x08 => some (.exit x)
  | 4, 0x09 => some (.kill x)
  | 4, 0x0A => some (.loop x)
  | 4, 0x0B => some (.trap x)
  | 4, 0x0C => some (.tret x)
  | 4, 0x0D => some (.yield x)
  | 4, 0x0E => some (.sleep x)
  | 4, 0x0F => some (.nop x)
  | 4, 0x10 => some (.halt x)
  | 5, 0x00 => some (.ldL x)
  | 5, 0x01 => some (.stL x)
  | 5, 0x02 => some (.ldbL x)
  | 5, 0x03 => some (.stbL x)
  | 5, 0x04 => some (.tagClr x)
  | 5, 0x05 => some (.tagSet x)
  | 5, 0x06 => some (.tagWc x)
  | 5, 0x07 => some (.plane x)
  | 5, 0x08 => some (.unplane x)
  | 5, 0x09 => some (.zeroL x)
  | 6, 0x00 => some (.ldG x)
  | 6, 0x01 => some (.stG x)
  | 6, 0x02 => some (.ldbG x)
  | 6, 0x03 => some (.stbG x)
  | 6, 0x04 => some (.prfG x)
  | 6, 0x05 => some (.ldR x)
  | 6, 0x06 => some (.stR x)
  | 6, 0x07 => some (.ldAcq x)
  | 6, 0x08 => some (.stRel x)
  | 7, 0x00 => some (.atomAdd x)
  | 7, 0x01 => some (.atomMin x)
  | 7, 0x02 => some (.atomMax x)
  | 7, 0x03 => some (.atomAnd x)
  | 7, 0x04 => some (.atomOr x)
  | 7, 0x05 => some (.atomXor x)
  | 7, 0x06 => some (.atomXchg x)
  | 7, 0x07 => some (.atomCas x)
  | 7, 0x08 => some (.redAdd x)
  | 7, 0x09 => some (.redMin x)
  | 7, 0x0A => some (.redMax x)
  | 7, 0x0B => some (.redX96 x)
  | 7, 0x0C => some (.x96Ld x)
  | 7, 0x0D => some (.x96Init x)
  | 7, 0x0E => some (.cellArm x)
  | 7, 0x0F => some (.cellProp x)
  | 7, 0x10 => some (.cellLd x)
  | 7, 0x11 => some (.cellReset x)
  | 7, 0x12 => some (.cellFlush x)
  | 8, 0x00 => some (.barArv x)
  | 8, 0x01 => some (.barWait x)
  | 8, 0x02 => some (.barSync x)
  | 8, 0x03 => some (.barBind x)
  | 8, 0x04 => some (.setNew x)
  | 8, 0x05 => some (.setJoin x)
  | 8, 0x06 => some (.setLeave x)
  | 8, 0x07 => some (.setFree x)
  | 8, 0x08 => some (.fence x)
  | 8, 0x09 => some (.opfence x)
  | 8, 0x0A => some (.waitf x)
  | 8, 0x0B => some (.acqRemote x)
  | 8, 0x0C => some (.scopeof x)
  | 8, 0x0D => some (.barPoll x)
  | 9, 0x00 => some (.mxLoop x)
  | 9, 0x01 => some (.mxLoops x)
  | 9, 0x02 => some (.mxZero x)
  | 9, 0x03 => some (.mxWin x)
  | 9, 0x04 => some (.mxRead x)
  | 9, 0x05 => some (.mxStore x)
  | 9, 0x06 => some (.mxLoad x)
  | 9, 0x07 => some (.mxStat x)
  | 9, 0x08 => some (.mxMove x)
  | 10, 0x00 => some (.sigCfg x)
  | 10, 0x01 => some (.sigOne x)
  | 10, 0x02 => some (if x.w2.getLsbD 1 then .sigStepScratch x else .sigStepReg x)
  | 10, 0x03 => some (.sigJoin x)
  | 10, 0x04 => some (.sigJoinl x)
  | 10, 0x05 => some (.sigLog x)
  | 10, 0x06 => some (.sigRead x)
  | 10, 0x07 => some (.sigStat x)
  | 11, 0x00 => some (.xfPut x)
  | 11, 0x01 => some (.xfGet x)
  | 11, 0x02 => some (.xfCpy x)
  | 11, 0x03 => some (.xfDrain x)
  | 11, 0x04 => some (.ctrSet x)
  | 11, 0x05 => some (.ctrAdd x)
  | 11, 0x06 => some (.ctrArm x)
  | 11, 0x07 => some (.ctrWait x)
  | 11, 0x08 => some (.collPost x)
  | 11, 0x09 => some (.fetchwk x)
  | 11, 0x0A => some (.xqPush x)
  | 11, 0x0B => some (.xqTake x)
  | 12, 0x00 => some (.mfs x)
  | 12, 0x01 => some (.mts x)
  | 12, 0x02 => some (.tidWr x)
  | 12, 0x03 => some (.tidRd x)
  | 12, 0x04 => some (.clk x)
  | 12, 0x05 => some (.snap x)
  | 12, 0x06 => some (.shEvict x)
  | 12, 0x07 => some (.shTouch x)
  | 12, 0x08 => some (.pgInval x)
  | 12, 0x09 => some (.ctxDrain x)
  | 12, 0x0A => some (.ctxSvb x)
  | 12, 0x0B => some (.ctxLdb x)
  | 12, 0x0C => some (.ctxSvd x)
  | 12, 0x0D => some (.ctxLdd x)
  | 12, 0x0E => some (.ctxSvx x)
  | 12, 0x0F => some (.ctxLdx x)
  | 12, 0x10 => some (.leaseCas x)
  | 12, 0x11 => some (.measure x)
  | 12, 0x12 => some (.wfe x)
  | _, _ => none

/-- The fields of a base word alone (R87). -/
def encOfBase (w : Nat) : Enc :=
  { form := .base
    d := BitVec.ofNat 8 (fld w 15 5)
    a := BitVec.ofNat 8 (fld w 10 5)
    b := BitVec.ofNat 8 (fld w 5 5)
    ty := BitVec.ofNat 2 (fld w 3 2)
    i := fld w 2 1 == 1
    u := fld w 1 1 == 1
    f := fld w 0 1 == 1 }

/-- The fields of a prefixed unit: prefix word p and base word w (R88, R90). -/
def encOfPrefixed (p w : Nat) : Enc :=
  { encOfBase w with
    form := .prefixed
    d := BitVec.ofNat 8 (fld p 9 2 * 32 + fld w 15 5)
    a := BitVec.ofNat 8 (fld p 7 2 * 32 + fld w 10 5)
    b := BitVec.ofNat 8 (fld p 5 2 * 32 + fld w 5 5)
    c := BitVec.ofNat 8 (fld p 11 8)
    msk := BitVec.ofNat 3 (fld p 23 3)
    z := fld p 22 1 == 1
    rnd := BitVec.ofNat 3 (fld p 19 3)
    pre := BitVec.ofNat 5 (fld p 0 5) }

/-- The fields of an extended unit: words 0, 1 and 2 and the literal (R89 to R92). -/
def encOfExtended (form : Form) (w w1 w2 lit : Nat) : Enc :=
  { encOfBase w with
    form := form
    d := BitVec.ofNat 8 (fld w1 29 3 * 32 + fld w 15 5)
    a := BitVec.ofNat 8 (fld w1 26 3 * 32 + fld w 10 5)
    b := BitVec.ofNat 8 (fld w1 23 3 * 32 + fld w 5 5)
    c := BitVec.ofNat 8 (fld w1 15 8)
    msk := BitVec.ofNat 3 (fld w1 12 3)
    z := fld w1 11 1 == 1
    rnd := BitVec.ofNat 3 (fld w1 8 3)
    bh := BitVec.ofNat 3 (fld w1 5 3)
    bw := BitVec.ofNat 3 (fld w1 2 3)
    isel := BitVec.ofNat 2 (fld w1 0 2)
    w2 := BitVec.ofNat 32 w2
    lit := BitVec.ofNat 64 lit }

/-- Step 2 of R112 for a unit whose shape stands. -/
def finishUnit (w : Nat) (x : Enc) (len : Nat) : Except DecodeFate (Instr × Nat) :=
  match instrOfOp (fld w 26 4) (fld w 20 6) x with
  | some i => .ok (i, len)
  | none => .error .unassigned

/-- A class that no unit but a prefixed one may have in its base word: 0, 13, 14, 15 (R86, R105, R111). -/
def badUnitClass (cls : Nat) : Bool := cls == 0 || 13 ≤ cls

/-- Decode the unit, or the clause header, that begins the words; the number is its length in words (R85,
R104). Whether a header or a unit may stand there is the clause's matter (R105, R106). -/
def decodeWords : List Word → Except DecodeFate (Instr × Nat)
  | [] => .error .truncated
  | w :: ws =>
    let n := w.toNat
    match fld n 30 2, ws with
    | 0, _ =>
      if fld n 26 4 == 0 then
        .ok (.clauseHeader (BitVec.ofNat 12 (fld n 14 12)) (BitVec.ofNat 4 (fld n 10 4))
          (BitVec.ofNat 4 (fld n 6 4)) (BitVec.ofNat 6 (fld n 0 6)), 1)
      else if badUnitClass (fld n 26 4) then .error .shape
      else finishUnit n (encOfBase n) 1
    | 1, w1 :: _ =>
      if fld n 26 4 != 13 || fld w1.toNat 30 2 != 0 || badUnitClass (fld w1.toNat 26 4) then .error .shape
      else finishUnit w1.toNat (encOfPrefixed n w1.toNat) 2
    | 1, [] => if fld n 26 4 != 13 then .error .shape else .error .truncated
    | 2, w1 :: w2 :: _ =>
      if badUnitClass (fld n 26 4) then .error .shape
      else finishUnit n (encOfExtended .extended n w1.toNat w2.toNat 0) 3
    | 3, w1 :: w2 :: w3 :: w4 :: _ =>
      if badUnitClass (fld n 26 4) then .error .shape
      else finishUnit n (encOfExtended .literal n w1.toNat w2.toNat (w3.toNat + 2 ^ 32 * w4.toNat)) 5
    | _, _ => if badUnitClass (fld n 26 4) then .error .shape else .error .truncated

/-- Decode from bytes as they stand in memory (R85). -/
def decode (bs : List Byte) : Except DecodeFate (Instr × Nat) := decodeWords (wordsOfBytes bs)

/-- The length in words that the first two bits of a unit give (R85). -/
def unitWords (w : Nat) : Nat :=
  match fld w 30 2 with
  | 0 => 1
  | 1 => 2
  | 2 => 3
  | _ => 5

/-- 1 for true. -/
def bit1 (b : Bool) : Nat := if b then 1 else 0

/-- Word 0 of a unit, its length code given (R87). -/
def baseWord (l cls op : Nat) (x : Enc) : Word :=
  BitVec.ofNat 32 (l * 2 ^ 30 + cls * 2 ^ 26 + op * 2 ^ 20 + x.d.toNat % 32 * 2 ^ 15 + x.a.toNat % 32 * 2 ^ 10 +
    x.b.toNat % 32 * 2 ^ 5 + x.ty.toNat * 2 ^ 3 + bit1 x.i * 2 ^ 2 + bit1 x.u * 2 + bit1 x.f)

/-- The prefix word (R88). -/
def prefixWord (x : Enc) : Word :=
  BitVec.ofNat 32 (2 ^ 30 + 13 * 2 ^ 26 + x.msk.toNat * 2 ^ 23 + bit1 x.z * 2 ^ 22 + x.rnd.toNat * 2 ^ 19 +
    x.c.toNat * 2 ^ 11 + x.d.toNat / 32 % 4 * 2 ^ 9 + x.a.toNat / 32 % 4 * 2 ^ 7 + x.b.toNat / 32 % 4 * 2 ^ 5 +
    x.pre.toNat)

/-- Word 1 of the extended forms (R89). -/
def extWord (x : Enc) : Word :=
  BitVec.ofNat 32 (x.d.toNat / 32 * 2 ^ 29 + x.a.toNat / 32 * 2 ^ 26 + x.b.toNat / 32 * 2 ^ 23 +
    x.c.toNat * 2 ^ 15 + x.msk.toNat * 2 ^ 12 + bit1 x.z * 2 ^ 11 + x.rnd.toNat * 2 ^ 8 + x.bh.toNat * 2 ^ 5 +
    x.bw.toNat * 2 ^ 2 + x.isel.toNat)

/-- The words of a unit of a class and op (R85 to R92). -/
def encodeUnit (cls op : Nat) (x : Enc) : List Word :=
  match x.form with
  | .base => [baseWord 0 cls op x]
  | .prefixed => [prefixWord x, baseWord 0 cls op x]
  | .extended => [baseWord 2 cls op x, extWord x, x.w2]
  | .literal => [baseWord 3 cls op x, extWord x, x.w2, BitVec.ofNat 32 x.lit.toNat,
      BitVec.ofNat 32 (x.lit.toNat / 2 ^ 32)]

/-- The words of a well-formed instruction (R85 to R92, R104); an event has none. -/
def encode (i : Instr) : List Word :=
  match i with
  | .clauseHeader w a b l =>
    [BitVec.ofNat 32 (w.toNat * 2 ^ 14 + a.toNat * 2 ^ 10 + b.toNat * 2 ^ 6 + l.toNat)]
  | i => match i.parts with
    | some (r, x) => encodeUnit r.cls r.op x
    | none => []

/-- The instruction that the decoder reads from an instruction whose bits are w, numbered from the least
significant bit of its first word, with every bit at and above nbits 0. -/
def decodeTableWord (nbits w : Nat) : Option Instr :=
  let v := w % 2 ^ nbits
  match decodeWords [BitVec.ofNat 32 v, BitVec.ofNat 32 (v / 2 ^ 32), BitVec.ofNat 32 (v / 2 ^ 64),
      BitVec.ofNat 32 (v / 2 ^ 96), BitVec.ofNat 32 (v / 2 ^ 128)] with
  | .ok (i, _) => some i
  | .error _ => none

end Sys2Proof
end

