-- ==== Sys2Proof/Machine/FMap.lean ====
section
/-! DEFINITION. Sparse data by key: a list of key and value pairs, keys rising, no entry equal to what an
unlisted key reads as. Memory, register files and every numbered resource are held so. -/

namespace Sys2Proof.Machine

/-- A sparse map from numbers; what an unlisted key reads as is given with each use. -/
abbrev FMap (α : Type) := List (Nat × α)

/-- The value at a key; `d` is what an unlisted key reads as. -/
def FMap.look {α : Type} (m : FMap α) (d : α) (k : Nat) : α :=
  match m with
  | [] => d
  | (j, v) :: t => if j = k then v else FMap.look t d k

/-- The entry at a key, if the key is listed. -/
def FMap.find {α : Type} (m : FMap α) (k : Nat) : Option α :=
  match m with
  | [] => none
  | (j, v) :: t => if j = k then some v else FMap.find t k

/-- The map with a key listed at a value, its place kept in order. -/
def FMap.put {α : Type} (m : FMap α) (k : Nat) (v : α) : FMap α :=
  match m with
  | [] => [(k, v)]
  | (j, w) :: t =>
    if j = k then (k, v) :: t
    else if k < j then (k, v) :: (j, w) :: t
    else (j, w) :: FMap.put t k v

/-- The map with a key no longer listed. -/
def FMap.del {α : Type} (m : FMap α) (k : Nat) : FMap α :=
  match m with
  | [] => []
  | (j, w) :: t => if j = k then FMap.del t k else (j, w) :: FMap.del t k

/-- Write a value: listing it, or removing the entry when it is what an unlisted key reads as. -/
def FMap.write {α : Type} [DecidableEq α] (m : FMap α) (d : α) (k : Nat) (v : α) : FMap α :=
  if v = d then FMap.del m k else FMap.put m k v

/-- Change the value at a key. -/
def FMap.modify {α : Type} [DecidableEq α] (m : FMap α) (d : α) (k : Nat) (f : α → α) : FMap α :=
  FMap.write m d k (f (FMap.look m d k))

/-- Whether every key is above a bound and the keys rise. -/
def FMap.risesFrom {α : Type} (m : FMap α) (lo : Nat) : Bool :=
  match m with
  | [] => true
  | (j, _) :: t => decide (lo ≤ j) && FMap.risesFrom t (j + 1)

/-- The canonical form: keys strictly rising, no entry equal to the default. -/
def FMap.canon {α : Type} [DecidableEq α] (m : FMap α) (d : α) : Bool :=
  FMap.risesFrom m 0 && m.all (fun e => decide (e.2 ≠ d))

/-- Write a list of values from a key on. -/
def FMap.writeFrom {α : Type} [DecidableEq α] (m : FMap α) (d : α) (k : Nat) (vs : List α) : FMap α :=
  match vs with
  | [] => m
  | v :: t => FMap.writeFrom (FMap.write m d k v) d (k + 1) t

/-- The map with the values from a key on replaced by a list of values; written in one pass. -/
def FMap.fill {α : Type} [DecidableEq α] (m : FMap α) (d : α) (k : Nat) (vs : List α) : FMap α :=
  m.filter (fun e => decide (e.1 < k)) ++ ((vs.zipIdx k).map (fun p => (p.2, p.1))).filter (fun e => decide (e.2 ≠ d)) ++
    m.filter (fun e => decide (k + vs.length ≤ e.1))

/-- The values at n keys from a key on. -/
def FMap.lookFrom {α : Type} (m : FMap α) (d : α) (k n : Nat) : List α :=
  match n with
  | 0 => []
  | n + 1 => FMap.look m d k :: FMap.lookFrom m d (k + 1) n

end Sys2Proof.Machine
end

