-- ==== Sys2Proof/Machine/State.lean ====
section
/-! DEFINITION. The state of a pod of Theonawyn 9160 packages as plain data. Every agent's state stands in a
sparse map under a number that names the agent: a context is 256 * package + 16 * first die layer + function, a
core of a context is 1024 * context + dense core, a bundle is 512 * core + 8 * home lane + slot, a thread is
64 * bundle + bundle index, a chiplet is 8 * package + chiplet. A firmware core is a bundle of width 1 whose key
is 2^40 + 16 * package + core. INVENTORY.md lists each field with the rule that names it. -/

namespace Sys2Proof.Machine

/-- What stops the machine. -/
inductive Fault where
  /-- An instruction of a bundle was executed while no bundle issues. Only a direct call of `exec` raises it, never
  `step`; safe. -/
  | noBundle
  deriving DecidableEq, Repr

/-- Why an instruction has no meaning. -/
inductive Refusal where
  /-- Not modelled yet; safe. No arm of this model answers it. -/
  | notModelled (mnemonic : String)
  deriving DecidableEq, Repr

/-- A thread's condition, with the cause of its parking (R57). -/
inductive Cond where
  | dead
  | running
  /-- at its meeting address (R76) -/
  | meet
  /-- on completion flags: a clause's wait mask or `waitf` (R108, R216) -/
  | flags (mask : Nat)
  /-- on a barrier, by its key (R206) -/
  | barrier (key : Nat)
  /-- at a `ctr.wait` of some words, on an arrival counter by the key of its first byte (R341) -/
  | counter (key len : Nat)
  /-- in `sleep`, until the context's active cycles reach a count (R200) -/
  | sleep (till : Nat)
  /-- a firmware core in `wfe` (R437): destination and mask -/
  | event (d : Nat) (mask : DWord)
  /-- a halted firmware core (R438) -/
  | halted
  deriving DecidableEq, Repr

/-- A thread's own state but for its registers (R57). `clo` counts the words from the header of its clause to
its PC, 0 where it stands at a header not begun (R415); `hdr` is that header word; `released` says that it begins
the clause without the test of its meeting address (R76), `tested` that it has passed the test of the flags (R108). -/
structure Thread where
  pc : Word := 0
  meet : Word := 0xFFFFFFFF
  depth : Nat := 0
  cond : Cond := .dead
  clo : Nat := 0
  hdr : Word := 0
  released : Bool := false
  tested : Bool := false
  deriving DecidableEq, Repr

/-- A pending record of a reported fault (R222). -/
structure TrapRec where
  code : Nat
  cnt : Nat
  eng : Nat
  upc : Word
  threads : DWord
  detail : DWord
  deriving DecidableEq, Repr

/-- The hidden save of a handler and its handler set (R223), with the place in its clause of the path that
took the trap: the resume point, `clo` and the header there, and the threads that had been released (R76). -/
structure Hidden where
  s60 : DWord
  s61 : DWord
  s62 : DWord
  s63 : DWord
  prio : Nat
  hs : DWord
  rpc : Word
  clo : Nat
  hdr : Word
  rel : DWord
  deriving DecidableEq, Repr

/-- A bundle (R63) with the state of its threads. DESIGN CHOICE (log 90): R453 gives the register file's bytes no layout,
so a thread's vector registers stand in `v`, and bytes of the pool frame where registers stood are free. -/
structure Bundle where
  ser : Nat := 0
  launch : Nat := 0
  width : Nat := 1
  allot : Nat := 16
  dmax : Nat := 0
  prio : Nat := 0
  thr : FMap Thread := []
  /-- register n of thread t, at 64 * n + t -/
  v : FMap Word := []
  /-- index register k of thread t, at 4 * t + k -/
  ix : FMap Byte := []
  s : FMap DWord := []
  m : FMap DWord := []
  wf : FMap Nat := []
  fam : FMap DWord := []
  active : DWord := 0
  status : DWord := 1
  trapReg : DWord := 0
  pend : List TrapRec := []
  hidden : Option Hidden := none
  blk : Nat := 0
  bno : Nat := 0
  nb : Nat := 0
  /-- the number of a firmware core -/
  fw : Option Nat := none
  /-- its last unit stalled at hand-off and would stall again now (R15) -/
  stalled : Bool := false
  /-- its path parked on a line tag (R195, R239): a path is chosen anew before its next instruction -/
  held : Bool := false
  /-- the threads that have issued a release or a sequentially consistent fence (R45, case 1) -/
  rel : DWord := 0
  deriving DecidableEq, Repr

/-- A barrier (R202): the bound set's handle and key, the phase bit and the state of both phases. -/
structure Bar where
  bound : Option (Nat × Nat) := none
  p : Bool := false
  arr0 : List Nat := []
  arr1 : List Nat := []
  hit0 : Bool := false
  hit1 : Bool := false
  eng0 : Nat := 0
  eng1 : Nat := 0
  eb0 : List Nat := []
  eb1 : List Nat := []
  deriving DecidableEq, Repr

/-- A membership set (R81): its threads, and whether it is allocated or an initial set. -/
structure SetRec where
  members : List Nat := []
  alloc : Bool := false
  initial : Bool := false
  deriving DecidableEq, Repr

/-- A signature descriptor (R281); `win1` holds L1 to L4 and `win2` L5 to L8, as `sig.cfg` reads them. -/
structure SigDesc where
  dim : Nat := 0
  n : Nat := 0
  base : Nat := 0
  win1 : DWord := 0
  win2 : DWord := 0
  l0 : Bool := false
  deriving DecidableEq, Repr

/-- Elements of a tile: rows r0 to r1 - 1, columns c0 to c1 - 1. -/
structure Area where
  tile : Nat
  r0 : Nat := 0
  r1 : Nat := 64
  c0 : Nat := 0
  c1 : Nat := 64
  deriving DecidableEq, Repr

/-- What an engine instruction touches (R270): the elements that it writes, the tiles that it only reads, the scratchpad ranges
that it reads and writes; `mixes`: what it writes in one tile depends on its other tiles. -/
structure Touch where
  writes : List Area := []
  reads : List Nat := []
  lines : List (Nat × Nat) := []
  images : List (Nat × Nat) := []
  mixes : Bool := false
  deriving DecidableEq, Repr

/-- An entry of the matrix FIFO (R267): the op and all that its hand-off captured. -/
structure MxEntry where
  op : Nat
  opId : Nat
  bk : Nat
  ser : Nat
  upc : Word
  ex : DWord
  tile : Nat := 0
  src : Nat := 0
  ta : BitVec 128 := 0
  tb : BitVec 128 := 0
  ra : DWord := 0
  rb : DWord := 0
  span : Nat := 1
  consume : Bool := false
  keep : Bool := false
  rnd : Nat := 0
  d : Nat := 0
  /-- completion barrier's key and enrolled phase -/
  bar : Option (Nat × Bool) := none
  /-- next step of a running loop -/
  step : Nat := 0
  /-- false while it waits for the surge arbiter's grant -/
  grant : Bool := true
  /-- the launch whose completion waits for it (R397) -/
  launch : Nat := 0
  /-- OVF of the tile as the entry's work began (R271) -/
  ovf0 : Bool := false
  /-- what ends unspecified, or is read so: another access touches it, or its operand lines, unordered (R270) -/
  raced : List Area := []
  /-- operand bytes from before stores that no `opfence` had followed at hand-off (R55) -/
  old : List (Nat × List Byte) := []
  deriving DecidableEq, Repr

/-- An entry of the signature queue (R296). -/
structure SigEntry where
  op : Nat
  opId : Nat
  bk : Nat
  ser : Nat
  upc : Word
  ex : DWord
  k : Nat := 0
  y : Nat := 0
  dx : SigDesc := {}
  dy : SigDesc := {}
  delta : List Word := []
  scratch : Bool := false
  tid : BitVec 128 := 0
  ra : DWord := 0
  consume : Bool := false
  rnd : Nat := 0
  d : Nat := 0
  bar : Option (Nat × Bool) := none
  /-- what ends unspecified, or is read so (R297) -/
  raced : List Area := []
  /-- operand bytes from before stores that no `opfence` had followed at hand-off (R55) -/
  old : List (Nat × List Byte) := []
  /-- the launch whose completion waits for it (R397) -/
  launch : Nat := 0
  /-- the launch for whose ordered join the transfer engine entered it (R350) -/
  coll : Option Nat := none
  deriving DecidableEq, Repr

/-- A completed engine instruction whose completion not every bundle of the core has observed (R56, R270): what it touches, its
barrier and phase, the bundle that issued it, whether the phase is over, and the bundles that have observed it. -/
structure Unseen where
  touch : Touch
  bar : Nat
  phase : Bool
  loop : Bool := false
  sig : Bool := false
  ser : Nat := 0
  ended : Bool := false
  seen : List Nat := []
  deriving DecidableEq, Repr

/-- One core of one context (R13, R410). The pool's bytes stand in `State.pool`. -/
structure Core where
  tagV : FMap Bool := []
  tagC : FMap Bool := []
  tid : FMap (BitVec 128) := []
  desc : FMap SigDesc := []
  tst : FMap DWord := []
  mq : List MxEntry := []
  /-- the loop on the cell array -/
  loop : Option MxEntry := none
  /-- the entry in progress on the tile port: an `mx.load` held on a line tag, or one with registers to write (R268) -/
  port : Option MxEntry := none
  sq : List SigEntry := []
  /-- the `sig.read` or `sig.stat` dispatched last, which has registers to write (R296) -/
  sgo : Option SigEntry := none
  /-- completed instructions of both engines that some bundle has not observed (R270, R297) -/
  unseen : List Unseen := []
  /-- next slot in turn, at 8 * lane + level (R71) -/
  rr : FMap Nat := []
  part : DWord := 0
  errors : Nat := 0
  /-- 64 * cycle + lane + 1 of the last lane that acted (R16) -/
  acted : Nat := 0
  /-- per line: 64 * cycle + lane of the last tag instruction on it (R241) -/
  tagAt : FMap Nat := []
  /-- scratchpad bytes before bundles' stores that no `opfence` has followed, latest first: address and bytes (R55) -/
  stale : List (Nat × List Byte) := []
  deriving DecidableEq, Repr

/-- A cached translation (R363): the chiplet that holds it, in its shared TLB (core 0) or in the micro-TLB of the core with
dense number core - 1, the level and the page number at that level, and the leaf. -/
structure TlbEntry where
  chiplet : Nat
  core : Nat := 0
  level : Nat
  page : Nat
  leaf : DWord
  deriving DecidableEq, Repr

/-- A message between shard unit slices (R370). `kind`: 0 PROP, 1 REPLY, 2 GSTART, 3 SHARD, 4 EVACK, 5 FREE,
6 SLICE, 7 SACK, 8 DOWN. -/
structure Msg where
  id : Nat
  kind : Nat
  src : Nat
  dst : Nat
  group : Nat
  page : Nat
  rank : Nat := 0
  won : Bool := false
  ackd : Bool := false
  /-- the winner id of a REPLY -/
  winner : Nat := 0
  data : List Byte := []
  /-- on the escape channel, and the cycle from which it waits on its channel (R329): SHARD and SLICE are write packets -/
  escape : Bool := false
  since : Nat := 0
  /-- a SLICE that the owner's shard unit slice holds for want of a staging frame (R376) -/
  held : Bool := false
  deriving DecidableEq, Repr

/-- A context (R410, R411) but for its cores, sets and barriers. -/
structure Ctx where
  /-- the physical address of its descriptor, CD0 to CD7, in the package's HBM -/
  desc : Nat := 0
  running : Bool := false
  active : Nat := 0
  /-- word w of group entry g, at 65 * g + w; w = 0 is the header (R366) -/
  group : FMap DWord := []
  tlb : List TlbEntry := []
  /-- shard pages with a proposal outstanding (R371) -/
  props : List Nat := []
  /-- shard pages evicted in the present arming, whose waiters wait for FREE (R371) -/
  acked : List Nat := []
  /-- SHARDED pages whose proposal has its REPLY and whose gather is on its way (R371) -/
  decided : List Nat := []
  /-- units received of the gathers in progress: page and bit mask of ranks (R372); the own bit stands for the
  SHARD messages sent (R370) -/
  got : FMap DWord := []
  /-- shard pages whose install waits for the context to run (R374) -/
  deferred : List Nat := []
  /-- evictions in progress: page and bit mask of ranks whose SACK is awaited (R376) -/
  sacks : FMap DWord := []
  /-- REPLY, FREE and SACK notices that came while the context did not run, oldest first (R374) -/
  kept : List Msg := []
  /-- pages that become LOST when the context runs again (R374, R375) -/
  lost : List Nat := []
  /-- staging frames in use: page and frame (R368, R376) -/
  frames : FMap Nat := []
  deriving DecidableEq, Repr

/-- A replay of a non-reentrant graph object (R393): descriptor address, context and queue, and the launches that
were open as its body ended. -/
structure Replay where
  desc : Nat
  ctx : Nat
  q : Nat
  launches : List Nat := []
  /-- whether its last packet was a PRED that polled or a SIGNAL without its record when the body ended -/
  waits : Bool := false
  deriving DecidableEq, Repr

/-- A partition (R401, R402). -/
structure Part where
  layers : Nat := 0
  remap : FMap (BitVec 16) := []
  /-- the function whose context holds the active frames -/
  cur : Option Nat := none
  /-- the functions whose contexts stand in the three frames of every core, the one that ran last first (R20, R410) -/
  frames : List Nat := []
  /-- a slice end in progress: the incoming function, 16 for none (R413) -/
  ending : Option Nat := none
  /-- monitor writes to the selection table of collectives (R349) -/
  sel : FMap Byte := []
  /-- non-reentrant graph replays in progress (R393) -/
  replays : List Replay := []
  /-- the function and queue, 8v + q, that the Shawm has taken last (R387) -/
  turn : Nat := 127
  /-- per dense core: the cycle since which its cell array has been idle (R404) -/
  idle : FMap Nat := []
  deriving DecidableEq, Repr

/-- One object the Shawm runs packets from (R390): a LOOP body, an INDIRECT buffer or a GRAPH body. -/
structure Level where
  /-- 0 LOOP, 1 INDIRECT, 2 GRAPH -/
  kind : Nat
  /-- whether the bytes lie in the queue (counts) or at virtual addresses -/
  inQueue : Bool
  start : Nat
  len : Nat
  pos : Nat := 0
  /-- passes still to run, this one included -/
  left : Nat := 1
  /-- patched words by virtual address, the later winning -/
  patches : List (Nat × DWord) := []
  /-- descriptor address of a non-reentrant GRAPH -/
  desc : Option Nat := none
  deriving DecidableEq, Repr

/-- A PRED in wait mode that polls (R389): its operands, and the cycle of its last read. -/
structure Poll where
  va : Nat
  value : DWord
  mask : DWord
  cmp : Nat
  since : Nat
  /-- the count at which its packet of level 0 begins -/
  origin : Nat := 0
  deriving DecidableEq, Repr

/-- One command queue of a function (R383) with the place of its interpreter. -/
structure Queue where
  base : Nat := 0
  size : Nat := 0
  err : Bool := false
  en : Bool := false
  tail : DWord := 0
  head : DWord := 0
  code : Nat := 0
  eoff : Nat := 0
  /-- count of the next packet of level 0 -/
  pos : Nat := 0
  /-- count of the packet of level 0 that is running -/
  cur0 : Nat := 0
  levels : List Level := []
  polling : Option Poll := none
  /-- bytes still to skip from the present place on (R389, R390) -/
  skip : Nat := 0
  /-- vector and value of a SIGNAL whose record is not posted yet (R391, R407) -/
  signal : Option (Nat × DWord) := none
  /-- the count at which that SIGNAL's packet of level 0 begins -/
  sigAt : Nat := 0
  /-- QSTAT of errors whose records are still to be posted, oldest first (R386, R406, R407) -/
  owes : List DWord := []
  /-- fetched bytes: byte x of level d (R390), a count or a virtual address, at key 8x + d (R392) -/
  fetched : FMap Byte := []
  /-- launches of this queue that are not complete -/
  open_ : List Nat := []
  deriving DecidableEq, Repr

/-- One function's block of the Shawm window (R383, R403, R406, R407). -/
structure Fn where
  q : FMap Queue := []
  lbase : Nat := 0
  lsize : Nat := 0
  closed : Bool := false
  len : Bool := false
  lhead : DWord := 0
  ltail : DWord := 0
  lnote : DWord := 0
  ldrop : Nat := 0
  seq : Nat := 0
  heldNote : Bool := false
  pause : Bool := false
  reset : Bool := false
  /-- budgets per period: matrix-busy, HBM, fabric, command -/
  bud : FMap Nat := []
  bal : FMap Int := []
  /-- notices written to LNOTE, newest first (what the host receives) -/
  notes : List DWord := []
  deriving DecidableEq, Repr

/-- A block that is placed and has not ended: its bundles still resident, its cores, and the keys of its set and
barrier (R68, R69, R82). -/
structure Block where
  left : Nat := 0
  cores : List Nat := []
  lvl : Nat := 1
  set : Nat := 0
  bar : Nat := 0
  /-- withdrawn blocks that it claimed and that have not ended (R400) -/
  claims : List Nat := []
  deriving DecidableEq, Repr

/-- A launch (R394 to R399). -/
structure Launch where
  ctx : Nat := 0
  q : Nat := 0
  eoff : Nat := 0
  lr : FMap DWord := []
  kh : FMap DWord := []
  tids : List (Nat × BitVec 128) := []
  codeBase : Nat := 0
  /-- next block not yet placed or withdrawn -/
  next : Nat := 0
  /-- that block has been considered and waits (R68) -/
  waiting : Bool := false
  /-- cores on which a block of the launch has been placed (R399) -/
  seen : List Nat := []
  /-- blocks placed and not ended -/
  live : FMap Block := []
  /-- withdrawn blocks not ended -/
  drawn : List Nat := []
  /-- blocks that have ended -/
  ended : FMap Bool := []
  /-- key of the grid set, once a block has been placed -/
  gridSet : Option Nat := none
  killed : Bool := false
  status : Nat := 1
  detail : Nat := 0
  core : Nat := 0
  s60 : DWord := 0
  s63 : DWord := 0
  posted : List Nat := []
  landed : List Nat := []
  complete : Bool := false
  /-- the k-th collective of this member on its group entry (R351) -/
  collSeq : Nat := 0
  /-- pairings of an ordered join that this member has made, and whether one is in its signature queue (R350) -/
  joins : Nat := 0
  joining : Bool := false
  /-- another access has written the tiles of its JD or SD meanwhile: its result is unspecified (R350) -/
  joinRaced : Bool := false
  deriving DecidableEq, Repr

/-- Where a request stands on its way. -/
inductive Stage where
  /-- its thread has not passed its lane (R15, R66) -/
  | pass
  /-- held outside the bank queue on V = 0 (R239), or a waiting `tag.wc` (R240) -/
  | held
  /-- in its bank's queue (R234) -/
  | queued
  /-- waits for its translation (R364) -/
  | walk
  /-- held by the shard unit (R365) -/
  | shard
  /-- on its way to the home agent or the port (R302) -/
  | home
  /-- a packet on the fabric carries it -/
  | fabric
  /-- waits for the operations before it, then completes (drains, saves, fences) -/
  | wait
  deriving DecidableEq, Repr

/-- What a request does where it is performed. -/
inductive Act where
  /-- read n bytes into registers from number d on: vector registers of 32 bits, or a uniform one -/
  | ld (d : Nat) (u : Bool)
  /-- write the low n bytes of a value -/
  | st (v : Nat)
  /-- a class-7 operation: op, type, operand, compare value, destination, won mask, U, proposer id, force -/
  | home (op ty opnd cmp d k : Nat) (u : Bool) (pid : Nat) (force : Bool)
  /-- change tags: 0 clear, 1 set, 2 wait and clear (R246) -/
  | tag (kind mask : Nat)
  /-- write zeros (R248) -/
  | zero
  /-- convert a tile's layout (R247): unplane, source identifier and base, destination identifier and base -/
  | plane (un : Bool) (src dst : BitVec 128) (sbase dbase : Nat)
  /-- ask the home to cache a segment (R254) -/
  | prf
  /-- a counter operation: 0 set, 1 add, 2 arm; value, barrier enrolment, level (R339) -/
  | ctr (kind v : Nat) (bar : Option (Nat × Bool)) (lvl : Nat)
  /-- one packet of a bulk copy: 0 put, 1 get, 2 cpy; scratchpad offset, counter (R332) -/
  | bulk (kind sp : Nat) (ctr : Option Nat)
  /-- one push of a row (R355): source offset -/
  | push (sp : Nat)
  /-- complete when everything earlier of the bundle has (0 `ctx.drain`, 1 `xf.drain`, 2 fence, 3 opfence) -/
  | drain (kind : Nat)
  /-- a system operation performed whole: kind and operands -/
  | sys (kind a b d : Nat)
  deriving DecidableEq, Repr

/-- One request of an operation: its number, thread (64: the bundle; 65: a load of a record), stage, act, address (scratchpad offset or
virtual address), size, physical address once translated, its place among the arrivals at its bank (R234), and the return
slot that it took, counted from 1 (R303). -/
structure Req where
  uid : Nat
  t : Nat
  stage : Stage
  act : Act
  addr : Nat := 0
  n : Nat := 0
  pa : Nat := 0
  seq : Nat := 0
  slot : Nat := 0
  deriving DecidableEq, Repr

/-- One register write that an operation still has to make. -/
inductive RegW where
  | v (n : Nat) (x : Word)
  | s (n : Nat) (x : DWord)
  | m (k : Nat) (b : Bool)
  | sticky (bits : DWord)
  deriving DecidableEq, Repr

/-- The writes of one thread (64: the bundle; 65: the words of a record that a load keeps until it has checked them,
which never land) that land together; the return slot that holds them (R303), and the place of the bank service that read
them (R234). -/
structure WB where
  t : Nat
  ws : List RegW
  slot : Nat := 0
  seq : Nat := 0
  deriving DecidableEq, Repr

/-- What follows when an operation has completed. -/
inductive Fin where
  | none
  /-- an engine arrival (R207) -/
  | arrive (bar : Nat) (phase : Bool)
  /-- V := 1 on the lines from lo to hi of the core (R332, R400) -/
  | setV (core lo hi : Nat)
  deriving DecidableEq, Repr

/-- An operation handed off and not complete (R14, R107). -/
structure Op where
  id : Nat
  bk : Nat
  ser : Nat
  cls : Nat
  /-- the op number in its class (R110) -/
  opn : Nat := 0
  flag : Option Nat
  upc : Word
  ex : DWord
  reqs : List Req := []
  ws : List WB := []
  fin : Fin := .none
  /-- the flag falls when nothing is left unsent (R333, R355) -/
  early : Bool := false
  /-- 0 relaxed, 1 acquire, 2 release, 3 acquire-release, 4 sequentially consistent -/
  ord : Nat := 0
  lvl : Nat := 0
  /-- a bulk copy or push that met an error sends nothing more (R334) -/
  failed : Bool := false
  /-- the flag on which an early operation counted, after it has fallen (R335) -/
  counted : Option Nat := none
  /-- the launch of its bundle -/
  launch : Nat := 0
  /-- its threads that had issued a release or a sequentially consistent fence before it (R45, case 1) -/
  rel : DWord := 0
  /-- the tiles that a `ctx.svx` or `ctx.ldx` saves or loads, and those of them that end unspecified (R421) -/
  tiles : List Nat := []
  raced : List Nat := []
  deriving DecidableEq, Repr

/-- A fault report on its way, or a transfer error held by the transfer engine (R220, R335). -/
structure Report where
  id : Nat
  bk : Nat
  ser : Nat
  code : Nat
  eng : Nat
  upc : Word
  threads : DWord
  detail : DWord
  /-- the flag on which a held error's operation counted -/
  flag : Option Nat := none
  /-- the operation that met it -/
  opId : Nat := 0
  deriving DecidableEq, Repr

/-- An arming of an arrival counter (R338). -/
structure Arming where
  key : Nat
  bk : Nat
  ser : Nat
  target : DWord
  bar : Option (Nat × Bool)
  lvl : Nat
  reached : Bool := false
  /-- the operation that installed it -/
  opId : Nat := 0
  /-- the counter changed while the context did not run: it is evaluated when the context runs again (R342) -/
  due : Bool := false
  deriving DecidableEq, Repr

/-- A packet on the fabric (R326). -/
structure Packet where
  id : Nat
  /-- OP of R326: 0 write, 1 read request, 2 read reply, 3 atomic request, 4 atomic reply, 5 acknowledgement,
  6 notice -/
  op : Nat
  /-- operation and request it belongs to; 0 for a packet of an outside master -/
  opId : Nat := 0
  uid : Nat := 0
  src : Nat := 0
  dst : Nat := 0
  aop : Nat := 0
  opnd : DWord := 0
  /-- CTR: the physical address of the arrival counter (R326) -/
  ctr : Option Nat := none
  /-- the issuing context, when a context sends it (ORIG, OV) -/
  orig : Option Nat := none
  /-- on the escape channel (R329) -/
  escape : Bool := false
  /-- the cycle from which it waits on its channel (R329) -/
  since : Nat := 0
  data : List Byte := []
  /-- SCOPE: the level of the release that it carries (R332) -/
  scope : Nat := 0
  /-- the bytes that it carries or asks for: LEN counts them in units of 16 -/
  len : Nat := 16
  /-- SIZE: 0 the whole payload, 1 to 5 one access of 1, 2, 4, 8 or 16 bytes -/
  size : Nat := 0
  srcEp : Nat := 0
  tag : Nat := 0
  /-- the path of a request: route and channel from a chiplet to a home; PATH is its low byte (R322) -/
  path : Nat := 0
  /-- PSEQ: the request's number on its path (R322) -/
  pseq : Nat := 0
  /-- the packages that it leaves and goes to -/
  leaves : Nat := 0
  goes : Nat := 0
  deriving DecidableEq, Repr

/-- A flit of a packet that no link has sent yet (R326, R327): its packet, path, virtual channel, KIND, and the 112
bytes of its payload as a number. -/
structure OutFlit where
  pkt : Nat
  path : Nat
  vc : Nat
  kind : Nat
  body : Nat
  deriving DecidableEq, Repr

/-- A copy of a decided cell in a chiplet cache (R315). -/
structure CellCopy where
  chiplet : Nat
  pa : Nat
  w0 : DWord
  w1 : DWord
  /-- threads that have flushed the cell since it was made, by their numbers in sets: it serves them no more (R317) -/
  barred : List Nat := []
  deriving DecidableEq, Repr

/-- A row that an expert queue accepted and holds (R354). -/
structure HeldRow where
  id : Nat
  core : Nat
  desc : Nat
  slot : Nat
  data : List Byte
  landed : Bool := false
  /-- the push it came from, and the package of its core -/
  opId : Nat := 0
  uid : Nat := 0
  goes : Nat := 0
  /-- DST, TAG, PATH and SRCEP of that push, which its acknowledgement carries (R326) -/
  dst : Nat := 0
  tag : Nat := 0
  path : Nat := 0
  srcEp : Nat := 0
  deriving DecidableEq, Repr

/-- A chunk that a member has posted, with its source bytes (R345). -/
structure Post where
  lid : Nat
  chunk : Nat
  data : List Byte
  l0 : Bool := false
  /-- which bytes of the source travel is decided (R347) -/
  fixed : Bool := false
  deriving DecidableEq, Repr

/-- An image that the device has streamed out (R412): the context and dense core whose frame and bank it holds, the step that
numbers its bytes, and what it holds: the core, and its frame's bytes and bundles by their places. `latest`: the context has
not come back since. -/
structure Image where
  ctx : Nat
  dense : Nat
  tick : Nat
  core : Core
  pool : FMap Byte := []
  bundles : FMap Bundle := []
  latest : Bool := true
  deriving DecidableEq, Repr

/-- A power domain (R447). -/
structure Power where
  settle : Nat := 0x1000
  state : Nat := 0
  err : Bool := false
  req : Nat := 0
  /-- the state a changing domain moves to -/
  goal : Nat := 0
  /-- the cycle at which it began to change -/
  since : Nat := 0
  /-- a tripped base die that waits for its dies and stacks to be off (R446) -/
  tripped : Bool := false
  deriving DecidableEq, Repr

/-- A link's sender and receiver (R325 to R328) and its training (R450). -/
structure Link where
  seqNext : Nat := 0
  seqWant : Nat := 0
  /-- flits not yet acknowledged: FSEQ and content -/
  retry : List (Nat × Nat) := []
  lastGood : Nat := 1023
  rsnd : Bool := false
  /-- the FSEQ from which the sender has last resent out of its retry buffer -/
  resendFrom : Option Nat := none
  /-- every flit sent, resent ones again, oldest first -/
  wire : List Nat := []
  freed : FMap Nat := []
  credit : FMap Nat := []
  sent : FMap Nat := []
  nextVc : Nat := 0
  accepted : List Nat := []
  phase : Nat := 0
  done : Bool := false
  fail : Bool := false
  tries : Nat := 0
  inService : Bool := false
  out : Bool := false
  /-- a link in service repeats bit lock and flit lock (R450) -/
  recal : Bool := false
  /-- the cycle at which the link carried its last flit (R328) -/
  last : Nat := 0
  deriving DecidableEq, Repr

/-- A stack's training registers (R449). -/
structure Stack where
  phase : Nat := 0
  done : Bool := false
  fail : Bool := false
  lane : Nat := 0
  inService : Bool := false
  failed : Bool := false
  repaired : Bool := false
  /-- bytes scrubbed in the present period (R405) -/
  scrubbed : Nat := 0
  corrected : Nat := 0
  deriving DecidableEq, Repr

/-- A package's management block (R430) and the state it shows. -/
structure Pkg where
  lease : DWord := 0xF800000000000000
  fwstat : FMap Nat := []
  fwvec : FMap Word := []
  evt : FMap DWord := []
  deny : DWord := 0
  meas : FMap (BitVec 384) := []
  fmeas : FMap (BitVec 384) := []
  owner0 : DWord := 0
  owner1 : DWord := 0
  hando : DWord := 0
  octlErr : Bool := false
  octlBusy : Bool := false
  /-- the command that the owner cell's home is to perform (R444), and the operations that stand before it -/
  octlCmd : Nat := 0
  octlAt : Nat := 0
  armw : DWord := 0
  snap : DWord := 0
  pd : FMap Power := []
  hbm : FMap Stack := []
  links : FMap Link := []
  /-- flits of packets that leave the package and wait for a retry slot and a credit of their channel (R327, R328) -/
  outbox : List OutFlit := []
  mtset : FMap DWord := []
  ltseq : FMap DWord := []
  mbox : FMap Byte := []
  goWord : DWord := 0
  /-- surge requests waiting per chiplet: core of a context and cycle, in order of arrival (R404) -/
  surge : FMap (List (Nat × Nat)) := []
  /-- the function granted last, per chiplet -/
  lastGrant : FMap Nat := []
  /-- per chiplet: eight times the 128-cycle window of the last grant, and the grants in it (R404) -/
  grants : FMap Nat := []
  /-- internal budgets' use in the present period (R405): link recalibration at 2, register reads of firmware core n at 16 + n -/
  used : FMap Nat := []
  /-- internal budgets that the monitor has written (R405), by activity -/
  budgets : FMap Nat := []
  /-- the period that the balances stand in (R403) -/
  period : Nat := 0
  /-- per firmware core: the 2 ms intervals that its timer has counted (R437) -/
  timer : FMap Nat := []
  /-- per neighbour package: the successive reads of its lease that ended in a transfer error, counted to two (R434) -/
  missed : FMap Nat := []
  /-- the step at which every block's snapshot registers latched (R445) -/
  snapAt : Nat := 0
  /-- bytes of the snapshot images that have been read out (R445) -/
  snapRead : Nat := 0
  deriving DecidableEq, Repr

/-- The whole machine. -/
structure State where
  /-- counter applied to the free values; the model's own -/
  tick : Nat := 0
  nextId : Nat := 1
  nextSer : Nat := 1
  cycle : Nat := 0
  /-- what the outside world has pending; the model's own -/
  inputs : List Instr := []
  issuing : Option Nat := none
  mem : FMap Byte := []
  /-- byte x of the frame of a core, at 2^22 * core + x -/
  pool : FMap Byte := []
  /-- byte x of firmware core n's SRAM, at 2^19 * n + x -/
  sram : FMap Byte := []
  /-- bytes in uncorrectable error (R232): byte k of the pool as 2k, of memory as 2k+1 -/
  poison : List Nat := []
  /-- words that hold a correctable error (R232): 8-byte words of the pool at 2k, of memory at 2k+1 -/
  soft : List Nat := []
  bundles : FMap Bundle := []
  cores : FMap Core := []
  sets : FMap SetRec := []
  bars : FMap Bar := []
  ctxs : FMap Ctx := []
  parts : FMap Part := []
  fns : FMap Fn := []
  launches : FMap Launch := []
  ops : List Op := []
  reports : List Report := []
  xerrs : List Report := []
  arms : List Arming := []
  pkts : List Packet := []
  msgs : List Msg := []
  copies : List CellCopy := []
  rows : List HeldRow := []
  /-- batches of expert queues freed out of order: descriptor key and batch (R356) -/
  freed : List (Nat × Nat) := []
  posts : List Post := []
  /-- images of contexts streamed out, the last one first (R412) -/
  images : List Image := []
  pkgs : FMap Pkg := []
  /-- per base-die engine, 16 * chiplet + kind (0 home agent, 1 transfer engine, 2 shard unit slice): 1024 * base-die cycle +
  dense core of the last request of a core that entered it (R16) -/
  homeAt : FMap Nat := []
  /-- requests numbered so far on each path, modulo 2^16 (R322) -/
  paths : FMap Nat := []
  deriving DecidableEq, Repr

/-- Memory: the bytes of every package's HBM by pod-global physical address. -/
abbrev Memory := FMap Byte

/-- What an unlisted byte of memory reads as. HBM at power-on: DESIGN CHOICE 0 (log 5, unsafe); a frame at the
start of its context: 0 (R453). -/
def Memory.unlisted : Byte := 0

/-- The canonical form of memory. -/
def Memory.wf (m : Memory) : Bool := FMap.canon m Memory.unlisted

/-- The machine right after power-on: no partition exists, no bundle is resident, every map is empty, so every
register reads as its default. POWER_ON is the outside world's first event. -/
def State.reset : State := {}

end Sys2Proof.Machine
end

