-- ==== Sys2Proof/Machine/Ops.lean ====
section
/-! DEFINITION. The named operations over the state of the bundle engine: registers, masks and flags, the
Chanter's choice of a path and its releases (R74 to R79), sets and barriers (R81, R204), kills and the end of a
bundle (R67, R78), taking a trap and returning from one (R222 to R225), and the hand-off and completion of
long-latency operations (R14, R107). -/

namespace Sys2Proof.Machine

/-! ### Names of agents -/

/-- The context of a core key. -/
def ctxOfCore (ck : Nat) : Nat := ck / 1024

/-- The dense core number of a core key. -/
def denseOfCore (ck : Nat) : Nat := ck % 1024

/-- The core key of a bundle key. -/
def coreOfBundle (bk : Nat) : Nat := bk / 512

/-- The home lane of a bundle key (R63). -/
def laneOfBundle (bk : Nat) : Nat := bk / 8 % 64

/-- The resident slot of a bundle key (R63). -/
def slotOfBundle (bk : Nat) : Nat := bk % 8

/-- The context of a bundle key. -/
def ctxOfBundle (bk : Nat) : Nat := ctxOfCore (coreOfBundle bk)

/-- The package of a context. -/
def pkgOfCtx (c : Nat) : Nat := c / 256

/-- The partition of a context: 16 * package + first die layer. -/
def partOfCtx (c : Nat) : Nat := c / 16

/-- The virtual function of a context. -/
def vfOfCtx (c : Nat) : Nat := c % 16

/-- Bundle keys from here on are firmware cores: 16 * package + core above it. -/
def fwBase : Nat := 2 ^ 40

/-- The bundle key of a firmware core. -/
def fwKey (pkg n : Nat) : Nat := fwBase + pkg * 16 + n

/-- Whether a bundle key is a firmware core's. -/
def isFw (bk : Nat) : Bool := decide (fwBase ≤ bk)

/-- The package of a bundle. -/
def pkgOfBundle (bk : Nat) : Nat := if isFw bk then (bk - fwBase) / 16 else pkgOfCtx (ctxOfBundle bk)

/-! ### Records of the state -/

/-- The bundle at a key; one with no thread where none is resident. -/
def State.bundle (s : State) (bk : Nat) : Bundle := FMap.look s.bundles {} bk

/-- The state with a bundle stored. -/
def State.setBundle (s : State) (bk : Nat) (b : Bundle) : State := { s with bundles := FMap.put s.bundles bk b }

/-- The core of a context at a key. -/
def State.core (s : State) (ck : Nat) : Core := FMap.look s.cores {} ck

/-- The state with a core stored. -/
def State.setCore (s : State) (ck : Nat) (c : Core) : State := { s with cores := FMap.put s.cores ck c }

/-- A context. -/
def State.ctx (s : State) (c : Nat) : Ctx := FMap.look s.ctxs {} c

/-- The state with a context stored. -/
def State.setCtx (s : State) (c : Nat) (x : Ctx) : State := { s with ctxs := FMap.put s.ctxs c x }

/-- A partition. -/
def State.part (s : State) (p : Nat) : Part := FMap.look s.parts {} p

/-- The state with a partition stored. -/
def State.setPart (s : State) (p : Nat) (x : Part) : State := { s with parts := FMap.put s.parts p x }

/-- A function's Shawm block. -/
def State.fn (s : State) (c : Nat) : Fn := FMap.look s.fns {} c

/-- The state with a function's block stored. -/
def State.setFn (s : State) (c : Nat) (x : Fn) : State := { s with fns := FMap.put s.fns c x }

/-- A launch. -/
def State.launch (s : State) (l : Nat) : Launch := FMap.look s.launches {} l

/-- The state with a launch stored. -/
def State.setLaunch (s : State) (l : Nat) (x : Launch) : State := { s with launches := FMap.put s.launches l x }

/-- A package. -/
def State.pkg (s : State) (p : Nat) : Pkg := FMap.look s.pkgs {} p

/-- The state with a package stored. -/
def State.setPkg (s : State) (p : Nat) (x : Pkg) : State := { s with pkgs := FMap.put s.pkgs p x }

/-! ### Masks -/

/-- Whether a thread's bit stands in a mask. -/
def hasBit (m : DWord) (t : Nat) : Bool := m.getLsbD t

/-- The thread indices of a mask, ascending. -/
def bitsOf (m : DWord) : List Nat := (List.range 64).filter (hasBit m)

/-- The mask of one thread. -/
def bitMask (t : Nat) : DWord := BitVec.ofNat 64 (2 ^ t)

/-- The mask of a list of thread indices. -/
def maskOf (l : List Nat) : DWord := l.foldl (fun m t => m ||| bitMask t) 0

/-- The mask of the first w threads. -/
def widthMask (w : Nat) : DWord := BitVec.ofNat 64 (2 ^ w - 1)

/-- A mask with one bit set to a value. -/
def putBit (m : DWord) (t : Nat) (v : Bool) : DWord := if v then m ||| bitMask t else m &&& ~~~bitMask t

/-! ### Registers of a bundle -/

/-- Vector register n of thread t (R57). -/
def Bundle.vreg (b : Bundle) (t n : Nat) : Word := FMap.look b.v 0 (64 * n + t)

/-- The bundle with vector register n of thread t written. -/
def Bundle.setVreg (b : Bundle) (t n : Nat) (x : Word) : Bundle :=
  { b with v := FMap.write b.v 0 (64 * n + t) x }

/-- A 64-bit operand in a register pair, low half first (R94). -/
def Bundle.vpair (b : Bundle) (t n : Nat) : DWord :=
  (b.vreg t (n + 1)).zeroExtend 64 <<< 32 ||| (b.vreg t n).zeroExtend 64

/-- The bundle with a register pair written (R94). -/
def Bundle.setVpair (b : Bundle) (t n : Nat) (x : DWord) : Bundle :=
  (b.setVreg t n (x.truncate 32)).setVreg t (n + 1) ((x >>> 32).truncate 32)

/-- Uniform register n (R63). -/
def Bundle.sreg (b : Bundle) (n : Nat) : DWord := FMap.look b.s 0 n

/-- The bundle with a uniform register written. -/
def Bundle.setSreg (b : Bundle) (n : Nat) (x : DWord) : Bundle := { b with s := FMap.write b.s 0 n x }

/-- Mask k: m0 is the active set (R64). -/
def Bundle.mreg (b : Bundle) (k : Nat) : DWord := if k = 0 then b.active else FMap.look b.m 0 k

/-- The bundle with mask k written; bits from W on ignore the write, and m0 cannot be written (R63, R64). -/
def Bundle.setMreg (b : Bundle) (k : Nat) (x : DWord) : Bundle :=
  if k = 0 then b else { b with m := FMap.write b.m 0 k (x &&& widthMask b.width) }

/-- Index register k of thread t (R57). -/
def Bundle.ireg (b : Bundle) (t k : Nat) : Byte := FMap.look b.ix 0 (4 * t + k)

/-- The bundle with an index register written. -/
def Bundle.setIreg (b : Bundle) (t k : Nat) (x : Byte) : Bundle := { b with ix := FMap.write b.ix 0 (4 * t + k) x }

/-- Completion flag k (R107). -/
def Bundle.flag (b : Bundle) (k : Nat) : Nat := FMap.look b.wf 0 k

/-- The bundle with a completion flag written. -/
def Bundle.setFlag (b : Bundle) (k n : Nat) : Bundle := { b with wf := FMap.write b.wf 0 k n }

/-- Family mask of depth k (R63). -/
def Bundle.family (b : Bundle) (k : Nat) : DWord := FMap.look b.fam 0 k

/-- The bundle with a family mask written. -/
def Bundle.setFamily (b : Bundle) (k : Nat) (m : DWord) : Bundle := { b with fam := FMap.write b.fam 0 k m }

/-! ### Threads of a bundle -/

/-- Thread t. -/
def Bundle.thread (b : Bundle) (t : Nat) : Thread := FMap.look b.thr {} t

/-- The bundle with the threads of a mask changed. -/
def Bundle.mapThreads (b : Bundle) (m : DWord) (f : Thread → Thread) : Bundle :=
  { b with thr := b.thr.map (fun (e : Nat × Thread) => if hasBit m e.1 then (e.1, f e.2) else e) }

/-- The threads that satisfy a test, as a mask. -/
def Bundle.maskWhere (b : Bundle) (p : Thread → Bool) : DWord :=
  b.thr.foldl (fun m e => if p e.2 then m ||| bitMask e.1 else m) 0

/-- The live threads (R61). -/
def Bundle.live (b : Bundle) : DWord := b.maskWhere (fun th => th.cond != .dead)

/-- The running threads (R57). -/
def Bundle.running (b : Bundle) : DWord := b.maskWhere (fun th => th.cond == .running)

/-- The thread that stands for the path: the lowest-indexed active one. -/
def Bundle.lead (b : Bundle) : Nat := (bitsOf b.active).headD 0

/-- The PC of the path that runs. -/
def Bundle.pc (b : Bundle) : Word := (b.thread b.lead).pc

/-- The executing threads of a vector-form instruction: the active ones in the mask (R160). -/
def Bundle.executing (b : Bundle) (x : Enc) : DWord :=
  if x.msk = 0 then b.active else b.active &&& b.mreg x.msk.toNat

/-- The threads that the Chanter may choose from: the running ones, in a handler those of its set (R74, R223). -/
def Bundle.candidates (b : Bundle) : DWord :=
  match b.hidden with
  | none => b.running
  | some h => b.running &&& h.hs

/-- The thread of greatest depth, and among equal depths of lowest index (R74). -/
def Bundle.deepest (b : Bundle) (l : List Nat) : Option Nat :=
  match l with
  | [] => none
  | t :: r =>
    match Bundle.deepest b r with
    | none => some t
    | some u => if (b.thread t).depth < (b.thread u).depth then some u else some t

/-- Whether two threads are on one path (R74): their PCs are equal. DEDUCED (log 79): where one stands inside a clause
and the other has transferred to the same word, which it must decode as a header (R106), they are on two paths. -/
def Thread.samePath (a th : Thread) : Bool :=
  th.pc == a.pc && th.clo == a.clo && (th.clo == 0 || th.hdr == a.hdr)

/-- Choose the path that runs next (R74). -/
def Bundle.choose (b : Bundle) : Bundle :=
  match b.deepest (bitsOf b.candidates) with
  | none => { b with active := 0 }
  | some t => { b with active := b.candidates &&& b.maskWhere ((b.thread t).samePath) }

/-- Choose again when the running path's active set has emptied (R74). -/
def Bundle.rechoose (b : Bundle) : Bundle :=
  let c := { b with active := b.active &&& b.running }
  if c.active = 0 then c.choose else c

/-- Release parked threads from depth k to depth k - 1, as one path (R77). -/
def Bundle.freeThreads (b : Bundle) (m : DWord) (k : Nat) : Bundle :=
  (bitsOf m).foldl (fun c t =>
    c.mapThreads (bitMask t) (fun th => { th with
      meet := if k = 0 then 0xFFFFFFFF else b.vreg t (b.allot - k)
      depth := k - 1
      cond := .running
      released := true })) b

/-- Whether the release condition holds for depth k (R77). -/
def Bundle.canRelease (b : Bundle) (k : Nat) : Bool :=
  match bitsOf (b.family k) with
  | [] => false
  | t :: r => (t :: r).all (fun u =>
      (b.thread u).depth == k && (b.thread u).cond == .meet && (b.thread u).pc == (b.thread t).pc)

/-- The release of depth k (R77). -/
def Bundle.release (b : Bundle) (k : Nat) : Bundle := (b.freeThreads (b.family k) k).setFamily k 0

/-- The depths at which the release condition holds. -/
def Bundle.releasable (b : Bundle) : Option Nat := (List.range 17).find? (fun k => 0 < k && b.canRelease k)

/-- Every release of R77, one after another; `fuel` bounds them by the sum of the depths. -/
def Bundle.releaseAll (fuel : Nat) (b : Bundle) : Bundle :=
  match fuel with
  | 0 => b
  | n + 1 => match b.releasable with
    | none => b
    | some k => Bundle.releaseAll n (b.release k)

/-- The threads of a forced release and their address, when R79 applies: every live thread is parked at a
meeting address and no release condition holds. -/
def Bundle.forced (b : Bundle) : Option (DWord × Nat × Word) :=
  if b.live ≠ 0 ∧ (bitsOf b.live).all (fun t => (b.thread t).cond == .meet) = true then
    match b.deepest (bitsOf b.live) with
    | none => none
    | some t => some (b.live &&& b.maskWhere (fun th => th.depth == (b.thread t).depth && th.pc == (b.thread t).pc),
        (b.thread t).depth, (b.thread t).pc)
  else none

/-- Bit of sr.status that a forced release sets (R227). -/
def stForced : DWord := 0x8000

/-! ### Sets and barriers -/

/-- The key of a set or barrier of a context: its level, its unit (a dense core or chiplet) and its index. -/
def setKey (ctx lvl unit idx : Nat) : Nat := ((ctx * 4 + lvl) * 1024 + unit) * 512 + idx

/-- The number that stands for a thread in sets and arrivals: its bundle's serial number and its index. -/
def threadNo (ser t : Nat) : Nat := ser * 64 + t

/-- The dense die layer of a core: the rank of its physical layer in the partition (R402). -/
def State.denseDl (s : State) (ck : Nat) : Nat :=
  (FMap.look (s.part (partOfCtx (ctxOfCore ck))).remap 0 (denseOfCore ck)).toNat / 4096 -
    partOfCtx (ctxOfCore ck) % 16

/-- The physical die layer of a core (R402). -/
def State.physDl (s : State) (ck : Nat) : Nat :=
  (FMap.look (s.part (partOfCtx (ctxOfCore ck))).remap 0 (denseOfCore ck)).toNat / 4096

/-- The dense chiplet of a core (R402). -/
def State.denseCh (s : State) (ck : Nat) : Nat := s.denseDl ck / 2

/-- The base-die cycles since a cycle of the arithmetic clock (R12). -/
def State.baseCycles (s : State) (since : Nat) : Nat := (s.cycle - since) * 10 / 9

/-- Whether a request of a core may enter a base-die engine now: those of one base-die cycle enter in ascending order of
dense core number (R16). -/
def State.inOrder (s : State) (engine bk : Nat) : Bool :=
  isFw bk || decide (FMap.look s.homeAt 0 engine ≤ 1024 * s.baseCycles 0 + denseOfCore (coreOfBundle bk))

/-- A request of a core has entered a base-die engine. -/
def State.enters (s : State) (engine bk : Nat) : State :=
  if isFw bk then s else { s with homeAt := FMap.put s.homeAt engine (1024 * s.baseCycles 0 + denseOfCore (coreOfBundle bk)) }

/-- The chiplet whose base die serves a core: 8 * package + physical chiplet (R7). -/
def State.chipletOf (s : State) (ck : Nat) : Nat := pkgOfCtx (ctxOfCore ck) * 8 + s.physDl ck / 2

/-- The unit that a handle of a level names resources of, for a core (R81). -/
def State.unitOf (s : State) (ck lvl : Nat) : Nat :=
  if lvl = 1 then denseOfCore ck else if lvl = 2 then s.denseCh ck else 0

/-- The key of a set or barrier that a core names by level and index. -/
def State.keyFor (s : State) (ck lvl idx : Nat) : Nat := setKey (ctxOfCore ck) lvl (s.unitOf ck lvl) idx

/-- A set. -/
def State.setRec (s : State) (k : Nat) : SetRec := FMap.look s.sets {} k

/-- A barrier. -/
def State.bar (s : State) (k : Nat) : Bar := FMap.look s.bars {} k

/-- The state with a barrier stored. -/
def State.putBar (s : State) (k : Nat) (x : Bar) : State := { s with bars := FMap.write s.bars {} k x }

/-- The state with a set stored. -/
def State.putSet (s : State) (k : Nat) (x : SetRec) : State := { s with sets := FMap.write s.sets {} k x }

/-- The resident bundle with a serial number. -/
def State.bundleOfSer (s : State) (ser : Nat) : Option (Nat × Bundle) := s.bundles.find? (fun e => e.2.ser == ser)

/-- The members of the set that a barrier is bound to: a bundle set's are its bundle's live threads (R81), none once that bundle
has ended (DESIGN CHOICE, log 105). -/
def State.members (s : State) (bound : Option (Nat × Nat)) : List Nat :=
  match bound with
  | none => []
  | some (h, k) =>
    if h / 2 ^ 14 = 0 then
      match s.bundleOfSer k with
      | none => []
      | some (_, b) => (bitsOf b.live).map (threadNo b.ser)
    else (s.setRec k).members

/-- Arrivals of phase p. -/
def Bar.arr (x : Bar) (p : Bool) : List Nat := if p then x.arr1 else x.arr0

/-- HIT of phase p. -/
def Bar.hit (x : Bar) (p : Bool) : Bool := if p then x.hit1 else x.hit0

/-- ENG of phase p. -/
def Bar.eng (x : Bar) (p : Bool) : Nat := if p then x.eng1 else x.eng0

/-- EB of phase p. -/
def Bar.eb (x : Bar) (p : Bool) : List Nat := if p then x.eb1 else x.eb0

/-- Record an arrival in phase p. -/
def Bar.addArr (x : Bar) (p : Bool) (n : Nat) : Bar :=
  if p then { x with arr1 := x.arr1 ++ [n], hit1 := true } else { x with arr0 := x.arr0 ++ [n], hit0 := true }

/-- Record an engine enrolment in the current phase (R207). -/
def Bar.enrol (x : Bar) (ser : Nat) : Bar :=
  if x.p then { x with eng1 := x.eng1 + 1, hit1 := true, eb1 := x.eb1.insert ser }
  else { x with eng0 := x.eng0 + 1, hit0 := true, eb0 := x.eb0.insert ser }

/-- An engine arrival in the phase it enrolled in (R207). -/
def Bar.engineArrive (x : Bar) (p : Bool) : Bar :=
  if p then { x with eng1 := x.eng1 - 1 } else { x with eng0 := x.eng0 - 1 }

/-- Whether the current phase completes (R204); `busy` says that an arrival of the phase still waits for the writes
before it (R205). -/
def Bar.complete (x : Bar) (members : List Nat) (busy : Bool → Bool) : Bool :=
  x.hit x.p && members.all (fun n => (x.arr x.p).contains n) && x.eng x.p == 0 && !busy x.p

/-- Clear the current phase and hand over to the next (R204). -/
def Bar.flip (x : Bar) : Bar :=
  if x.p then { x with arr1 := [], hit1 := false, eb1 := [], p := false }
  else { x with arr0 := [], hit0 := false, eb0 := [], p := true }

/-- The phases that an evaluation completes. -/
def Bar.flips (x : Bar) (members : List Nat) (busy : Bool → Bool) : List Bool :=
  if x.complete members busy then x.p :: (if x.flip.complete members busy then [x.flip.p] else []) else []

/-- The evaluation of R204: at most both phases complete, since completing one clears its HIT. -/
def Bar.evaluate (x : Bar) (members : List Nat) (busy : Bool → Bool) : Bar :=
  if x.complete members busy then
    let y := x.flip
    if y.complete members busy then y.flip else y
  else x

/-- Whether a thread waits: its arrival or its bundle's enrolment lies in an open phase (R206). -/
def Bar.holds (x : Bar) (ser t : Nat) : Bool :=
  x.arr0.contains (threadNo ser t) || x.arr1.contains (threadNo ser t) || x.eb0.contains ser || x.eb1.contains ser

/-- Release the waiters of a barrier whose condition no longer holds (R204, R206). -/
def Bundle.wakeBarrier (b : Bundle) (key : Nat) (x : Bar) : Bundle :=
  { b with thr := b.thr.map (fun (e : Nat × Thread) =>
      if e.2.cond == Cond.barrier key && !x.holds b.ser e.1 then (e.1, { e.2 with cond := .running }) else e) }.rechoose

/-- Whether an arrival on a phase of a barrier still waits for the writes before it (R205). -/
def State.barBusy (s : State) (key : Nat) (p : Bool) : Bool :=
  s.ops.any (fun o => o.reqs.any (fun r => r.act == Act.sys 1 key (if p then 1 else 0) 0))

/-- Some phases of a barrier are over: the completions of engine instructions on them may be observed (R56). -/
def Core.phasesOver (c : Core) (key : Nat) (phases : List Bool) : Core :=
  { c with unseen := c.unseen.map (fun u => if u.bar == key && phases.contains u.phase then { u with ended := true } else u) }

/-- A bundle observes completed instructions of its core's engines; those that every bundle of the core has observed are dropped. -/
def State.observes (s : State) (bk : Nat) (p : Unseen → Bool) : State :=
  let ck := coreOfBundle bk
  let c := s.core ck
  if c.unseen.isEmpty then s
  else
    let ser := (s.bundle bk).ser
    let here := (s.bundles.filter (fun e => coreOfBundle e.1 == ck)).map (fun e => e.2.ser)
    let see (u : Unseen) : Unseen := if p u then { u with seen := u.seen.insert ser } else u
    s.setCore ck { c with unseen := (c.unseen.map see).filter (fun u => !here.all u.seen.contains) }

/-- A bundle has made an acquire (R56): it has observed the instructions whose barrier's phase it waited for, and those that another
bundle has observed (DEDUCED, log 55: that bundle's release is taken to reach the acquire). -/
def State.sees (s : State) (bk : Nat) (key : Option Nat) : State :=
  s.observes bk (fun u => u.ended && (key == some u.bar || !u.seen.isEmpty))

/-- Whether a bundle has a thread that waits on a barrier no longer (R206). -/
def Bundle.passes (b : Bundle) (key : Nat) (x : Bar) : Bool :=
  b.thr.any (fun e => e.2.cond == Cond.barrier key && !x.holds b.ser e.1)

/-- Evaluate a barrier and release its waiters, which observe what it stands for (R56, R204). -/
def State.evalBar (s : State) (key : Nat) : State :=
  let x := (s.bar key).evaluate (s.members (s.bar key).bound) (s.barBusy key)
  let done := (s.bar key).flips (s.members (s.bar key).bound) (s.barBusy key)
  let s := s.putBar key x
  let woken := (s.bundles.filter (fun e => e.2.passes key x)).map (fun e => e.1)
  woken.foldl (fun s bk => s.sees bk (some key)) { s with
    bundles := s.bundles.map (fun e => (e.1, e.2.wakeBarrier key x))
    cores := if done.isEmpty then s.cores else s.cores.map (fun e => (e.1, e.2.phasesOver key done)) }

/-- Evaluate every bound barrier: what a membership change asks for (R78, R84, R211). A barrier whose set has
not changed stands evaluated already, so this changes nothing for it. -/
def State.evalBars (s : State) : State :=
  (s.bars.filter (fun e => e.2.bound.isSome)).foldl (fun s e => s.evalBar e.1) s

/-- An engine arrival (R207). -/
def State.engineArrival (s : State) (key : Nat) (p : Bool) : State :=
  (s.putBar key ((s.bar key).engineArrive p)).evalBar key

/-! ### Kills and the end of a bundle -/

/-- A block has ended: its set and barrier are freed (R82), and no phase holds a thread that waits on the barrier any more
(R206). DESIGN CHOICE (log 103): what other blocks' threads had arrived there, enrolled or bound is cleared with it. -/
def State.freeBlock (s : State) (k : Block) : State :=
  let s := (s.putSet k.set {}).putBar k.bar {}
  { s with bundles := s.bundles.map (fun e => (e.1, e.2.wakeBarrier k.bar {})) }

/-- The blocks of a launch that are neither ended, drawn nor still to be placed: a launch's grid set is freed
when the last block has ended (R82). -/
def State.freeGrid (s : State) (l : Nat) : State :=
  let x := s.launch l
  let blocks := ((FMap.look x.lr 0 2).toNat % 2 ^ 32) * ((FMap.look x.lr 0 2).toNat / 2 ^ 32 % 2 ^ 16) *
    ((FMap.look x.lr 0 2).toNat / 2 ^ 48)
  if x.live.isEmpty && x.drawn.isEmpty && (x.killed || blocks ≤ x.next) then
    (match x.gridSet with
      | none => s
      | some k => (s.putSet k {}).setLaunch l { x with gridSet := none })
  else s

/-- A bundle has ended (R67): its slot is free; a block whose last bundle it was has ended, and with it the block
it had withdrawn (R82, R400). Threads of other blocks leave the sets that are freed, so barriers are evaluated (R204). -/
def State.endBundle (s : State) (bk : Nat) : State :=
  let b := s.bundle bk
  let s := { s with bundles := FMap.del s.bundles bk }
  let x := s.launch b.launch
  match FMap.find x.live b.blk with
  | none => s
  | some k =>
    if 1 < k.left then
      s.setLaunch b.launch { x with live := FMap.put x.live b.blk { k with left := k.left - 1 } }
    else
      let claimed := k.claims
      let x := { x with
        live := FMap.del x.live b.blk
        ended := FMap.put (claimed.foldl (fun m w => FMap.put m w true) x.ended) b.blk true
        drawn := x.drawn.filter (fun d => !claimed.contains d) }
      (((s.freeBlock k).setLaunch b.launch x).freeGrid b.launch).evalBars

/-- A bundle ends when all its threads are dead and all twelve flags are zero (R67). -/
def State.endIfDone (s : State) (bk : Nat) : State :=
  let b := s.bundle bk
  if b.ser != 0 && b.fw.isNone && b.live == 0 && b.wf.isEmpty then s.endBundle bk else s

/-- The bundle with threads dead: they leave the active set and every family mask (R78). -/
def Bundle.kill (b : Bundle) (m : DWord) : Bundle :=
  { b.mapThreads m (fun th => { th with cond := .dead }) with
    active := b.active &&& ~~~m
    fam := (b.fam.map (fun e => (e.1, e.2 &&& ~~~m))).filter (fun e => e.2 != 0) }

/-- Threads leave every set of which they are members (R78). -/
def State.leaveSets (s : State) (ser : Nat) (m : DWord) : State :=
  let leave (x : SetRec) : SetRec :=
    { x with members := x.members.filter (fun n => !(n / 64 == ser && hasBit m (n % 64))) }
  { s with sets := (s.sets.map (fun e => (e.1, leave e.2))).filter (fun e => e.2 != {}) }

/-- Threads of a bundle die, with every evaluation that R78 asks for but the bundle's own meetings. -/
def State.killIn (s : State) (bk : Nat) (m : DWord) : State :=
  let b := s.bundle bk
  ((s.setBundle bk (b.kill m)).leaveSets b.ser m).evalBars

/-- The launch ends with a trap completion, a collective error or a reset: no further block is placed, and every
live thread of its resident bundles dies at once (R223, R351, R409). -/
def State.killLaunch (s : State) (l status core : Nat) (s60 s63 : DWord) : State :=
  let x := s.launch l
  if x.killed then s else
  let s := s.setLaunch l { x with killed := true, status := status, core := core, s60 := s60, s63 := s63 }
  let s := (s.bundles.filter (fun e => e.2.launch == l && e.2.fw.isNone)).foldl
    (fun s e => (s.killIn e.1 (s.bundle e.1).live).endIfDone e.1) s
  (s.freeGrid l).evalBars

/-! ### Traps -/

/-- The s60 record (R224). -/
def trapRecord (upc : Word) (kind cnt eng code : Nat) : DWord :=
  BitVec.ofNat 64 (upc.toNat * 2 ^ 32 + kind % 4 * 2 ^ 26 + cnt % 256 * 2 ^ 16 + eng % 16 * 2 ^ 8 + code % 256)

/-- The number of words from a clause header to the word after its last unit. -/
def clauseSpan (hdr : Word) : Nat := hdr.toNat % 64 + 1

/-- The trap vector of a bundle: KH1's VEC, or a firmware core's FWVEC (R395, R427). -/
def State.vector (s : State) (bk : Nat) : Word :=
  match (s.bundle bk).fw with
  | none => (FMap.look (s.launch (s.bundle bk).launch).kh 0 1).truncate 32
  | some n => FMap.look (s.pkg (pkgOfBundle bk)).fwvec 0xFFFFFFFF n

/-- The bundle as it enters a handler (R223): the hidden save, the trap state in s60 to s63, priority 4, and the
threads of the path at the vector clause. -/
def Bundle.enter (b : Bundle) (vec : Word) (record : DWord) (rpc : Word) (clo : Nat) (tmask detail : DWord) :
    Bundle :=
  let th := b.thread b.lead
  let h : Hidden :=
    { s60 := b.sreg 60, s61 := b.sreg 61, s62 := b.sreg 62, s63 := b.sreg 63, prio := b.prio, hs := b.active,
      rpc := rpc, clo := clo, hdr := th.hdr, rel := b.maskWhere (fun th => th.released) }
  let c := { b with hidden := some h, prio := 4, trapReg := record }
  let c := (((c.setSreg 60 record).setSreg 61 (rpc.zeroExtend 64)).setSreg 62 tmask).setSreg 63 detail
  c.mapThreads b.active (fun th => { th with pc := vec, clo := 0, released := false, tested := false })

/-- A firmware core without a vector halts on a trap and sets FAULT (R427). -/
def State.fwHalt (s : State) (bk : Nat) (fault : Bool) : State :=
  let n := (bk - fwBase) % 16
  let p := s.pkg (pkgOfBundle bk)
  let old := FMap.look p.fwstat 0 n
  let s := s.setPkg (pkgOfBundle bk) { p with
    fwstat := FMap.write p.fwstat 0 n (old / 8 * 8 + (if fault then 4 else old / 4 % 2 * 4) + 2) }
  let b := s.bundle bk
  s.setBundle bk { b.mapThreads 1 (fun th => { th with cond := .halted }) with active := 0 }

/-- Whether a firmware core without a vector still has operations that stand before its halt (R427, R438). -/
def State.haltWaits (s : State) (bk : Nat) : Bool :=
  (s.bundle bk).fw.isSome && s.ops.any (fun o => o.ser == (s.bundle bk).ser)

/-- Taking a trap, the one shared operation (R223, R224): entry to the handler, or, where the kernel has no
vector or a synchronous trap is raised at priority 4, the end of the launch with a trap completion. A firmware core then
halts as `halt` does, once its outstanding operations have completed: until then it stalls at the unit (R427, R438). `clo`
is the place of the resume point in its clause. The lane is free again. -/
def State.takeTrap (s : State) (bk code kind : Nat) (upc rpc : Word) (clo cnt eng : Nat) (tmask detail : DWord) :
    State :=
  let s := { s with issuing := none }
  let b := s.bundle bk
  let record := trapRecord upc kind cnt eng code
  if s.vector bk = 0xFFFFFFFF ∨ (kind ≠ 1 ∧ b.hidden.isSome) then
    if s.haltWaits bk then s.setBundle bk { b with stalled := true } else
    let s := s.setBundle bk { b with trapReg := record }
    match b.fw with
    | some _ => s.fwHalt bk true
    | none => s.killLaunch b.launch 3 (denseOfCore (coreOfBundle bk)) record detail
  else s.setBundle bk (b.enter (s.vector bk) record rpc clo tmask detail)

/-- A synchronous trap of the unit at the path's PC: no effect but the entry (R219, R224 KIND 0). -/
def State.trapSync (s : State) (bk code detail : Nat) : State :=
  let b := s.bundle bk
  let th := b.thread b.lead
  s.takeTrap bk code 0 th.pc th.pc th.clo 1 0 b.active (BitVec.ofNat 64 detail)

/-- `tret` (R225): live threads of the handler set run again from RPC; inside the clause that the trap
interrupted, that clause goes on (log 15). -/
def Bundle.leave (b : Bundle) : Bundle :=
  match b.hidden with
  | none => b
  | some h =>
    let p : Word := (b.sreg 61).truncate 32
    let place : Int := (h.clo : Int) + ((p.toNat : Int) - (h.rpc.toNat : Int))
    let clo := if h.clo ≠ 0 ∧ 1 ≤ place ∧ place < (clauseSpan h.hdr : Int) then place.toNat else 0
    let c := { b with thr := b.thr.map (fun (e : Nat × Thread) =>
        if hasBit h.hs e.1 && e.2.cond != Cond.dead then (e.1, { e.2 with
          pc := p, cond := .running, clo := clo, hdr := h.hdr, tested := false
          released := clo == 0 && p == h.rpc && hasBit h.rel e.1 }) else e) }
    let c := (((c.setSreg 60 h.s60).setSreg 61 h.s61).setSreg 62 h.s62).setSreg 63 h.s63
    { c with prio := h.prio, hidden := none }

/-- Meetings: every release of R77, then, if R79 applies, the forced release with its sticky bit and, where the
kernel header enables it, trap 0x0C in the released path; then the path is chosen where none runs. -/
def State.settle (s : State) (bk : Nat) : State :=
  let b := (s.bundle bk).releaseAll 1100
  match b.forced with
  | none => s.setBundle bk b.rechoose
  | some (m, k, x) =>
    let c := (b.freeThreads m k).setFamily k (b.family k &&& ~~~m)
    let c := { c with status := c.status ||| stForced }
    let c := (Bundle.releaseAll 1100 c).rechoose
    let s := s.setBundle bk c
    if (FMap.look (s.launch b.launch).kh 0 1).toNat / 2 ^ 33 % 2 = 1 then
      s.takeTrap bk 0x0C 3 x x 0 1 0 c.active (x.zeroExtend 64)
    else s

/-- Threads of a bundle die (R78): sets, barriers and meetings are evaluated at once, and the bundle ends under
R67 if nothing of it is left. -/
def State.killThreads (s : State) (bk : Nat) (m : DWord) : State :=
  ((s.killIn bk m).settle bk).endIfDone bk

/-! ### Passing on to the next unit -/

/-- A thread one unit of n words further: the unit after its clause's last is the next header (R104, R105). -/
def Thread.advance (th : Thread) (n : Nat) : Thread :=
  { th with pc := th.pc + BitVec.ofNat 32 n
            clo := if th.clo + n < clauseSpan th.hdr then th.clo + n else 0 }

/-- A thread that stands at a header begins its clause (R104, R105). -/
def Thread.begins (th : Thread) : Thread :=
  { th with pc := th.pc + 1, clo := if 1 < clauseSpan th.hdr then 1 else 0, released := false, tested := false }

/-- The bundle with the threads of its path one unit further. -/
def Bundle.advance (b : Bundle) (n : Nat) : Bundle := b.mapThreads b.active (fun th => th.advance n)

/-- The words of the unit an instruction came from (R85). -/
def unitLen (x : Enc) : Nat :=
  match x.form with
  | .base => 1
  | .prefixed => 2
  | .extended => 3
  | .literal => 5

/-- The unit has passed: the bundle stands at the next one and its lane is free. -/
def State.retire (s : State) (bk : Nat) (b : Bundle) (x : Enc) : State :=
  { s.setBundle bk (b.advance (unitLen x)) with issuing := none }

/-- The hand-off stalls (R15): the bundle stands where it stood, and its lane is free for others. -/
def State.stall (s : State) : State :=
  match s.issuing with
  | none => s
  | some bk => { s.setBundle bk { s.bundle bk with stalled := true } with issuing := none }

/-- A meaning of a bundle's instruction: it acts for the bundle that its lane has started. -/
def State.onBundle (s : State) (f : Nat → Bundle → State) : Host.Outcome State Fault Refusal :=
  match s.issuing with
  | none => .fault .noBundle
  | some bk => .next (f bk (s.bundle bk))

/-! ### Flags and long-latency operations -/

/-- The flag that a unit's F bit selects in its clause: none for 15 (R104, R107). -/
def setFlagOf (hdr : Word) (f : Bool) : Option Nat :=
  let n := if f then hdr.toNat / 2 ^ 6 % 16 else hdr.toNat / 2 ^ 10 % 16
  if n ≤ 11 then some n else none

/-- The flag of a unit at the path's PC. -/
def Bundle.flagFor (b : Bundle) (x : Enc) : Option Nat := setFlagOf (b.thread b.lead).hdr x.f

/-- Whether the selected flag is full, so that the hand-off stalls (R107). -/
def Bundle.flagFull (b : Bundle) (fl : Option Nat) : Bool :=
  match fl with
  | none => false
  | some k => 63 ≤ b.flag k

/-- The flag counts one operation more (R107). -/
def Bundle.countUp (b : Bundle) (fl : Option Nat) : Bundle :=
  match fl with
  | none => b
  | some k => b.setFlag k (b.flag k + 1)

/-- Whether every flag of a wait mask is zero (R108). -/
def Bundle.flagsZero (b : Bundle) (mask : Nat) : Bool :=
  (List.range 12).all (fun k => mask / 2 ^ k % 2 == 0 || b.flag k == 0)

/-- A thread that waited on flags goes on: one that waited at a header has passed the test (R108). -/
def Thread.wakeFlags (th : Thread) : Thread := { th with cond := .running, tested := th.released }

/-- Threads that wait on flags go on when their flags are zero (R108, R216). -/
def Bundle.wakeFlags (b : Bundle) : Bundle :=
  { b with thr := b.thr.map (fun (e : Nat × Thread) =>
      match e.2.cond with
      | .flags mask => if b.flagsZero mask then (e.1, e.2.wakeFlags) else e
      | _ => e) }.rechoose

/-- A report reaches its bundle (R220, R222): one whose threads are all dead is discarded, one of a pending code
keeps the first record, adds to its count, and adds its threads to the affected ones (log 22). -/
def Bundle.receive (b : Bundle) (r : Report) : Bundle :=
  let live := r.threads &&& b.live
  if live = 0 then b
  else if b.pend.any (fun p => p.code == r.code) then
    { b with pend := b.pend.map (fun p =>
        if p.code == r.code then { p with cnt := min 255 (p.cnt + 1), threads := p.threads ||| r.threads } else p) }
  else { b with pend := b.pend ++ [{ code := r.code, cnt := 1, eng := r.eng, upc := r.upc, threads := r.threads,
                                     detail := r.detail }] }

/-- Transfer errors that the transfer engine holds for a bundle are posted to it, one record for each code (R335): paths
parked in `ctr.wait` are made running at it. -/
def State.postErrors (s : State) (bk ser : Nat) (sel : Report → Bool) : State :=
  let codes := (s.xerrs.filter (fun r => r.ser == ser && sel r)).map (fun r => r.code)
  let mine := s.xerrs.filter (fun r => r.ser == ser && codes.contains r.code)
  let b := s.bundle bk
  if mine.isEmpty || b.ser != ser then s
  else
    let c := mine.foldl Bundle.receive b
    let wake (th : Thread) : Thread := match th.cond with
      | .counter .. => { th with cond := .running }
      | _ => th
    let c := if mine.all (fun r => r.threads &&& b.live == 0) then c
      else { c with thr := c.thr.map (fun (e : Nat × Thread) => (e.1, wake e.2)) }.rechoose
    { s.setBundle bk c with xerrs := s.xerrs.filter (fun r => !(r.ser == ser && codes.contains r.code)) }

/-- Whether a held error's operation counted on a flag of a mask. -/
def Report.onFlags (r : Report) (mask : Nat) : Bool :=
  match r.flag with
  | none => false
  | some k => mask / 2 ^ k % 2 == 1

/-- The flags tested by the threads of a bundle whose wait is over. -/
def Bundle.wakingMask (b : Bundle) : Nat :=
  b.thr.foldl (fun m e => match e.2.cond with
    | .flags mask => if b.flagsZero mask then m ||| mask else m
    | _ => m) 0

/-- A flag falls by one (R107), if the bundle that counted is still the one resident. -/
def State.flagFall (s : State) (bk ser : Nat) (fl : Option Nat) : State :=
  let b := s.bundle bk
  if b.ser = ser then
    match fl with
    | none => s
    | some k =>
      let c := b.setFlag k (b.flag k - 1)
      ((s.setBundle bk c.wakeFlags).postErrors bk ser (fun r => r.onFlags c.wakingMask)).endIfDone bk
  else s

/-- Whether an operation is an acquire. -/
def Op.acquires (o : Op) : Bool := o.ord == 1 || o.ord == 3 || o.ord == 4

/-- Whether an operation is a release. -/
def Op.releases (o : Op) : Bool := o.ord == 2 || o.ord == 3 || o.ord == 4

/-- Whether a strong write that follows an operation in program order synchronises: it is a release or a fence (R45,
case 1). -/
def Op.publishes (o : Op) : Bool := o.releases || (o.cls == 8 && o.opn == 8)

/-- The bundle has issued an operation: the threads of a release or fence are noted (R45, case 1). -/
def Bundle.notes (b : Bundle) (o : Op) : Bundle := { b with rel := if o.publishes then b.rel ||| o.ex else b.rel }

/-- Hand an operation off (R14, step 4): it is listed, and its flag counts it. The bundle is not yet past the
unit. -/
def State.handOff (s : State) (bk : Nat) (b : Bundle) (x : Enc) (op : Op) : State :=
  let fl := b.flagFor x
  let s := { s with nextId := s.nextId + 1
                    ops := s.ops ++ [{ op with id := s.nextId, bk := bk, ser := b.ser, launch := b.launch, flag := fl,
                                               upc := b.pc, rel := b.rel }] }
  s.retire bk ((b.countUp fl).notes op) x

/-- List an operation that no flag counts; the bundle is not yet past the unit. -/
def State.list (s : State) (bk : Nat) (b : Bundle) (op : Op) : State :=
  { s with nextId := s.nextId + 1
           ops := s.ops ++ [{ op with id := s.nextId, bk := bk, ser := b.ser, launch := b.launch, upc := b.pc, rel := b.rel }] }

/-- Write one register of a result. -/
def Bundle.writeReg (b : Bundle) (t : Nat) (w : RegW) : Bundle :=
  match w with
  | .v n x => b.setVreg t n x
  | .s n x => b.setSreg n x
  | .m k v => b.setMreg k (putBit (b.mreg k) t v)
  | .sticky bits => { b with status := b.status ||| bits }

/-- Whether a write of a result is of a thread's register or mask bit, and not of the bundle's sticky bits. -/
def RegW.ofThread (w : RegW) : Bool :=
  match w with
  | .sticky _ => false
  | _ => true

/-- Land a result: results for registers of dead threads are discarded (R78), their sticky bits are not (R179); index 64
stands for the bundle. -/
def Bundle.land (b : Bundle) (wb : WB) : Bundle :=
  let dead := decide (wb.t < 64 ∧ (b.thread wb.t).cond = .dead)
  (wb.ws.filter (fun w => !(dead && w.ofThread))).foldl (fun b w => b.writeReg wb.t w) b

/-- The operation with a number. -/
def State.op? (s : State) (id : Nat) : Option Op := s.ops.find? (fun o => o.id == id)

/-- The state with an operation replaced. -/
def State.putOp (s : State) (o : Op) : State := { s with ops := s.ops.map (fun p => if p.id == o.id then o else p) }

/-- Change the tags of the lines of a core from lo to hi, given whether V, whether C, and the value. -/
def Core.setTags (c : Core) (lo hi : Nat) (v k val : Bool) : Core :=
  (List.range (hi + 1 - lo)).foldl (fun c i =>
    { c with
      tagV := if v then FMap.write c.tagV true (lo + i) val else c.tagV
      tagC := if k then FMap.write c.tagC true (lo + i) val else c.tagC }) c

/-- The lines from one scratchpad byte on that n bytes touch. -/
def linesOf (x n : Nat) : List Nat := if n = 0 then [] else List.range' (x / 256) ((x + n - 1) / 256 + 1 - x / 256)

/-- Whether a request is a scratchpad read that is held on an absent line (R239). -/
def Req.parks (r : Req) : Bool :=
  r.stage == .held && (match r.act with
    | .tag .. => false
    | _ => true)

/-- Held requests whose lines are all present enter their bank queues, in the order in which they were held (R239). -/
def State.releaseHeld (s : State) (ck : Nat) : State :=
  let c := s.core ck
  let goes (o : Op) (r : Req) : Bool :=
    coreOfBundle o.bk == ck && o.cls == 5 && r.parks && (linesOf r.addr r.n).all (FMap.look c.tagV true)
  let seqs := s.ops.flatMap (fun o => (o.reqs.filter (goes o)).map (fun r => r.seq))
  { s with
    nextId := s.nextId + seqs.length
    ops := s.ops.map (fun o => { o with reqs := o.reqs.map (fun r =>
      if goes o r then { r with stage := .queued, seq := s.nextId + (seqs.filter (fun n => decide (n < r.seq))).length }
      else r) }) }

/-- The lines that an operation in progress makes present when it ends. -/
def Op.covers (o : Op) (ck line : Nat) : Bool :=
  match o.fin with
  | .setV k lo hi => k == ck && decide (lo ≤ line) && decide (line ≤ hi)
  | _ => false

/-- What follows a completed operation. -/
def State.finish (s : State) (f : Fin) : State :=
  match f with
  | .none => s
  | .arrive k p => s.engineArrival k p
  | .setV ck lo hi =>
    let lines := (List.range' lo (hi + 1 - lo)).filter (fun n => !s.ops.any (fun o => o.covers ck n))
    (s.setCore ck (lines.foldl (fun c n => c.setTags n n true false true) (s.core ck))).releaseHeld ck

/-- Whether an operation ends by setting tags. -/
def Fin.tags (f : Fin) : Bool :=
  match f with
  | .setV .. => true
  | _ => false

/-- The tile port is free once the registers of its `mx.read` or `mx.stat` have landed (R268), and so is the signature engine after a
`sig.read` or `sig.stat` (R296). -/
def State.freePort (s : State) (o : Op) : State :=
  if o.cls = 9 ∨ o.cls = 10 then
    let c := s.core (coreOfBundle o.bk)
    s.setCore (coreOfBundle o.bk) { c with port := c.port.filter (fun e => e.opId != o.id), sgo := c.sgo.filter (fun e => e.opId != o.id) }
  else s

/-- An operation with nothing left to do completes: its flag falls, and what it signals follows (R28, R107). A copy
that met an error delivers it with its tags (R335). -/
def State.completeOp (s : State) (id : Nat) : State :=
  match s.op? id with
  | none => s
  | some o =>
    if o.reqs.isEmpty && o.ws.isEmpty then
      let s := State.freePort { s with ops := s.ops.filter (fun p => p.id != id) } o
      let s := (s.flagFall o.bk o.ser o.flag).finish o.fin
      let s := if (o.acquires || (o.cls == 8 && o.opn == 8)) && (s.bundle o.bk).ser == o.ser then s.sees o.bk none else s
      if o.failed && o.fin.tags then s.postErrors o.bk o.ser (fun e => e.opId == o.id) else s
    else s

/-- Whether every flit of a packet is held in a retry buffer (R327, R333); every endpoint consumes virtual channel 6 at once,
so an acknowledgement or notice is held by nothing (R329). -/
def State.onLink (s : State) (p : Packet) : Bool :=
  p.op == 5 || p.op == 6 || !(s.pkg p.leaves).outbox.any (fun f => f.pkt == p.id)

/-- Whether a packet is a request, which its path numbers (R322). -/
def Packet.asks (p : Packet) : Bool := p.op == 0 || p.op == 1 || p.op == 3

/-- The flag of a copy or push falls at its local completion: nothing of it is left unsent at its source (R333, R355). -/
def State.earlyFall (s : State) (id : Nat) : State :=
  match s.op? id with
  | none => s
  | some o =>
    if o.early && o.flag.isSome && o.reqs.all (fun r => r.stage == .fabric) &&
        s.pkts.all (fun p => p.opId != id || !p.asks || s.onLink p) then
      (s.putOp { o with flag := none, counted := o.flag }).flagFall o.bk o.ser o.flag
    else s

/-- Whether each thread's access of an operation is two requests of 8 bytes: the block forms of 16 bytes (R245,
R250). -/
def Op.pairs (o : Op) : Bool := (o.cls == 5 || o.cls == 6) && (o.opn == 2 || o.opn == 3)

/-- Whether a result of a scratchpad load lands behind one of its port that its bank served before (R234). -/
def State.landsBehind (s : State) (o : Op) (wb : WB) : Bool :=
  o.cls == 5 && wb.seq != 0 && s.ops.any (fun p => p.cls == 5 && coreOfBundle p.bk == coreOfBundle o.bk &&
    laneOfBundle p.bk / 8 == laneOfBundle o.bk / 8 && p.ws.any (fun w => w.seq != 0 && decide (w.seq < wb.seq) &&
      !(p.pairs && p.reqs.any (fun r => r.t == w.t))))

/-- One thread's result of an operation lands (R109, R234); one of 16 bytes not before all of it has been read, and those
of scratchpad loads in the order of their service. -/
def State.landWB (s : State) (id k : Nat) : State :=
  match s.op? id with
  | none => s
  | some o =>
    match o.ws[k]? with
    | none => s
    | some wb =>
      if wb.t = 65 || (o.pairs && o.reqs.any (fun r => r.t == wb.t)) || s.landsBehind o wb then s else
      let b := s.bundle o.bk
      let s := if b.ser = o.ser then s.setBundle o.bk (b.land wb) else s
      (s.putOp { o with ws := o.ws.eraseIdx k }).completeOp id

/-- A fault of an operation is reported for some threads: the report travels to the bundle, and the flag falls
when the report is sent (R220); what the operation still owes those threads is dropped. -/
def State.report (s : State) (o : Op) (code eng : Nat) (threads detail : DWord) : State :=
  { s with nextId := s.nextId + 1
           reports := s.reports ++ [{ id := s.nextId, bk := o.bk, ser := o.ser, code := code, eng := eng,
                                      upc := o.upc, threads := threads, detail := detail }] }

/-- The pending record of the lowest code (R222). -/
def lowestRec (l : List TrapRec) : Option TrapRec :=
  match l with
  | [] => none
  | r :: t => match lowestRec t with
    | none => some r
    | some q => if q.code < r.code then some q else some r

/-- The free byte numbered by the step counter and a place. -/
def State.freeByteAt (s : State) (k : Nat) : Byte := Config.freeByte (s.tick * 2 ^ 32 + k)

end Sys2Proof.Machine
end

