-- ==== Sys2Proof/Machine/Flags.lean ====
section
/-! DEFINITION. sr.status: its writable bits, the rounding mode it and a unit select, and the sticky bits (R97,
R179, R226, R227). -/

namespace Sys2Proof.Machine

/-- The writable bits of sr.status but for RND (R227). -/
def stWritable : DWord := 0x9FC0

/-- The rounding field of sr.status (R227). -/
def Bundle.rnd (b : Bundle) : Nat := b.status.toNat % 8

/-- The mode that a unit without a tensor identifier rounds in (R97). -/
def Bundle.modeFor (b : Bundle) (x : Enc) : Nat := if x.rnd = 0 then b.rnd else x.rnd.toNat

/-- The mode of a unit that names a tensor identifier whose RND is given (R97, R143). -/
def Bundle.modeForTid (b : Bundle) (rnd tidRnd : Nat) : Nat :=
  if rnd ≠ 0 then rnd else if tidRnd ≠ 0 then tidRnd else b.rnd

/-- sr.status after an `mts` of a value: reserved bits ignore the write, RND 0 or 7 leaves 1 (R227, R229). -/
def statusWrite (x : DWord) : DWord :=
  let r := x.toNat % 8
  (x &&& stWritable) ||| (if r = 0 ∨ r = 7 then 1 else BitVec.ofNat 64 r)

/-- Sticky bits are set, never cleared (R139, R179). -/
def Bundle.stick (b : Bundle) (bits : DWord) : Bundle := { b with status := b.status ||| bits }

end Sys2Proof.Machine
end

