-- ==== Sys2Proof/Machine/Operands.lean ====
section
/-! DEFINITION. Operand forms: register numbers of every form with their bounds (R60, R90, R93, R94, R98, R100),
immediates and literals (R92, R95), register blocks (R98), masks and zeroing (R96), the address operand (R101),
and the frames in which a bundle's unit passes. -/

namespace Sys2Proof.Machine

/-! ### Register numbers -/

/-- The number an operand field names for a thread; `which` is 1 for a, 2 for b, 3 for d (R100). -/
def Bundle.num (b : Bundle) (x : Enc) (which : Nat) (field : BitVec 8) (t : Nat) : Nat :=
  if x.isel.toNat = which then (b.ireg t (field.toNat % 4)).toNat + field.toNat / 4 else field.toNat

/-- Whether a unit is a register block. -/
def isBlock (x : Enc) : Bool := x.bh != 0 || x.bw != 0

/-- The positions of a block as register offsets, in row-major order (R98). -/
def positions (x : Enc) (step : Nat) : List Nat :=
  (List.range (x.bh.toNat + 1)).flatMap (fun i => (List.range (x.bw.toNat + 1)).map (fun j => 16 * i + step * j))

/-- The fault of one vector operand: what s63 shows (R98, R100, R219). `o` is its number, `span` the registers it
names, `odd` whether an odd number is a fault. -/
def boundsFault (allot : Nat) (x : Enc) (step o span : Nat) (odd : Bool) : Option Nat :=
  if isBlock x then
    let w := step * (x.bw.toNat + 1)
    let last := o + 16 * x.bh.toNat + w - 1
    if odd && o % 2 == 1 then some o
    else if 16 < o % 16 + w then some o
    else if allot ≤ last then
      ((List.range (x.bh.toNat + 1)).flatMap (fun i => (List.range w).map (fun j => o + 16 * i + j))).find?
        (fun n => allot ≤ n)
    else none
  else if allot ≤ o then some o
  else if odd && o % 2 == 1 then some o
  else if allot < o + span then some allot
  else none

/-- The step of a unit's blocks: 2 for 64-bit types and for `lea` (R98, R168). -/
def blockStep (r : Row) (x : Enc) : Nat := if r.wide x || (r.cls == 1 && r.op == 0x1F) then 2 else 1

/-- The lesser of two details, where both stand. -/
def lesser (a b : Option Nat) : Option Nat :=
  match a, b with
  | some m, some n => some (min m n)
  | some m, none => some m
  | none, o => o

/-- The operand fields of a unit that name vector registers: which one, field, registers named, evenness. -/
def vectorFields (r : Row) (x : Enc) : List (Nat × BitVec 8 × Nat × Bool) :=
  ([(3, x.d, r.d.span r x, r.d.evenPair r x), (1, x.a, r.a.span r x, r.a.evenPair r x)] ++
    (if x.i || x.form == Form.literal then [] else [(2, x.b, r.b.span r x, r.b.evenPair r x)]) ++
    [(0, x.c, r.c.span r x, r.c.evenPair r x)]).filter (fun f => 0 < f.2.2.1)

/-- The fault of the numbers that the encoding gives directly (R112, step 9). -/
def directFault (r : Row) (x : Enc) (allot : Nat) : Option Nat :=
  (vectorFields r x).foldl (fun acc f =>
    if x.isel.toNat = f.1 ∧ f.1 ≠ 0 then acc
    else lesser acc (boundsFault allot x (blockStep r x) f.2.1.toNat f.2.2.1 false)) none

/-- The fault of an indirect number for a thread (R100). -/
def Bundle.indirectFaultOf (b : Bundle) (r : Row) (x : Enc) (t : Nat) : Option Nat :=
  (vectorFields r x).foldl (fun acc f =>
    if x.isel.toNat = f.1 ∧ f.1 ≠ 0 then
      lesser acc (boundsFault b.allot x (blockStep r x) (b.num x f.1 f.2.1 t) f.2.2.1 f.2.2.2)
    else acc) none

/-- The fault of the lowest-indexed executing thread with one (R100, R219). -/
def Bundle.indirectFault (b : Bundle) (r : Row) (x : Enc) : Option Nat :=
  if x.isel = 0 then none else (bitsOf (b.executing x)).findSome? (b.indirectFaultOf r x)

/-- The register bounds fault of a unit (trap 0x02), if it has one. -/
def Bundle.regFault (b : Bundle) (r : Row) (x : Enc) : Option Nat :=
  match directFault r x b.allot with
  | some n => some n
  | none => b.indirectFault r x

/-- The row of an encoded instruction. -/
def rowOf (i : Instr) : Row := match i.parts with
  | some (r, _) => r
  | none => { cls := 0, op := 0 }

/-! ### Frames of a meaning -/

/-- A unit passes for the bundle that its lane has started: a register number out of bounds traps 0x02 before
anything else (R60). -/
def State.onUnit (s : State) (i : Instr) (x : Enc) (f : Nat → Bundle → State) : Host.Outcome State Fault Refusal :=
  s.onBundle (fun bk b => match b.regFault (rowOf i) x with
    | some n => s.trapSync bk 0x02 n
    | none => f bk b)

/-- The hand-offs that an operation in progress holds back: a fence those of classes 5 to 7 and 9 to 11 and of class-12
ops 06 to 0F (R214), an `acq.remote` those of memory, class 7 and the transfer engine (R218). -/
def Op.holdsBack (o : Op) (cls op : Nat) : Bool :=
  o.cls == 8 && (5 ≤ cls && cls ≤ 7 || cls == 11 ||
    (o.opn == 8 && (cls == 9 || cls == 10 || (cls == 12 && 6 ≤ op && op ≤ 15)))) && (o.opn == 8 || o.opn == 0x0B)

/-- A fence or an `acq.remote` still holds a hand-off of the bundle. -/
def State.fenced (s : State) (b : Bundle) (cls op : Nat) : Bool :=
  s.ops.any (fun o => o.ser == b.ser && o.holdsBack cls op)

/-- A long-latency unit: it stalls while its flag is full (R107), and, for the classes a fence holds, while one
does (R15, R214). -/
def State.onLong (s : State) (i : Instr) (x : Enc) (f : Nat → Bundle → State) : Host.Outcome State Fault Refusal :=
  s.onUnit i x (fun bk b =>
    if b.flagFull (b.flagFor x) || s.fenced b (rowOf i).cls (rowOf i).op then s.stall else f bk b)

/-! ### Immediates and literals -/

/-- The signed immediate of a unit extended to 64 bits (R95). -/
def immOf (x : Enc) : DWord := BitVec.ofInt 64 x.imm

/-- imm24 (R91). -/
def imm24 (x : Enc) : BitVec 24 := BitVec.ofNat 24 (x.w2.toNat / 2 ^ 8)

/-- imm24 as a signed number of 64 bits. -/
def simm24 (x : Enc) : DWord := (imm24 x).signExtend 64

/-! ### Integer operands (class 1) -/

/-- A vector operand of one register or a pair. -/
def Bundle.vget (b : Bundle) (wide : Bool) (t n : Nat) : DWord :=
  if wide then b.vpair t n else (b.vreg t n).zeroExtend 64

/-- Write a vector result of one register or a pair. -/
def Bundle.vput (b : Bundle) (wide : Bool) (t n : Nat) (x : DWord) : Bundle :=
  if wide then b.setVpair t n x else b.setVreg t n (x.truncate 32)

/-- A result written to a uniform register: a 32-bit one is extended by its signedness (R94). -/
def extendResult (wide signed : Bool) (x : DWord) : DWord :=
  if wide then x else if signed then ((x.truncate 32 : Word)).signExtend 64 else ((x.truncate 32 : Word)).zeroExtend 64

/-- Operand b where it is no register: the literal or the immediate (R92, R95). -/
def constB (x : Enc) : Option DWord :=
  if x.form == .literal then some x.lit else if x.i then some (immOf x) else none

/-- Operand a of a thread at a position, or of the bundle in the U form. -/
def Bundle.srcA (b : Bundle) (x : Enc) (wide : Bool) (t k : Nat) : DWord :=
  if x.u then b.sreg x.a.toNat else b.vget wide t (b.num x 1 x.a t + k)

/-- Operand b. -/
def Bundle.srcB (b : Bundle) (x : Enc) (wide : Bool) (t k : Nat) : DWord :=
  match constB x with
  | some v => v
  | none => if x.u then b.sreg x.b.toNat else b.vget wide t (b.num x 2 x.b t + k)

/-- Operand c. -/
def Bundle.srcC (b : Bundle) (x : Enc) (wide : Bool) (t k : Nat) : DWord :=
  if x.u then b.sreg x.c.toNat else b.vget wide t (x.c.toNat + k)

/-- The active threads that the mask leaves out and that zeroing writes (R96): none where no thread executes (R65). -/
def Bundle.zeroed (b : Bundle) (x : Enc) : DWord :=
  if x.z && b.executing x != 0 then b.active &&& ~~~b.executing x else 0

/-- A vector form writes a result per executing thread and position, each position after the ones before it; under
zeroing the masked threads' destinations become 0 (R96, R98). The result carries sticky bits. DESIGN CHOICE (log 17):
a masked thread whose destination number is not below the allotment is passed over without a trap. -/
def Bundle.vectorPass (b : Bundle) (x : Enc) (wide : Bool) (step : Nat)
    (g : Bundle → Nat → Nat → DWord × DWord) : Bundle :=
  let c := (bitsOf (b.executing x)).foldl (fun c t =>
    (positions x step).foldl (fun c k =>
      let r := g c t k
      (c.vput wide t (c.num x 3 x.d t + k) r.1).stick r.2) c) b
  (bitsOf (b.zeroed x)).foldl (fun c t =>
    (positions x step).foldl (fun c k =>
      let n := c.num x 3 x.d t + k
      if n < c.allot then c.vput wide t n 0 else c) c) c

/-- The type of a class-1 unit is signed (R158). -/
def signedTy (x : Enc) : Bool := x.ty.toNat % 2 == 0

/-- A class-1 unit whose result comes from a value for each thread and position (R158 to R162). -/
def State.intPass (s : State) (i : Instr) (x : Enc) (g : Bundle → Nat → Nat → DWord) :
    Host.Outcome State Fault Refusal :=
  s.onUnit i x (fun bk b =>
    let wide := (rowOf i).wide x
    if x.u then s.retire bk (b.setSreg x.d.toNat (extendResult wide (signedTy x) (g b 0 0))) x
    else s.retire bk (b.vectorPass x wide (blockStep (rowOf i) x) (fun c t k => (g c t k, 0))) x)

/-- An operation at the width of the type: 32 bits or 64. -/
def atWidth (wide : Bool) (f : (n : Nat) → BitVec n → BitVec n → BitVec n → BitVec n) (a b c : DWord) : DWord :=
  if wide then f 64 a b c else (f 32 (a.truncate 32) (b.truncate 32) (c.truncate 32)).zeroExtend 64

/-- A class-1 unit that computes d from a, b and c at the width of its type; `bWide` says whether b is a pair for
the 64-bit types. -/
def State.intOp (s : State) (i : Instr) (x : Enc) (bWide : Bool)
    (f : (n : Nat) → BitVec n → BitVec n → BitVec n → BitVec n) : Host.Outcome State Fault Refusal :=
  let wide := (rowOf i).wide x
  s.intPass i x (fun b t k =>
    atWidth wide f (b.srcA x wide t k) (b.srcB x (wide && bWide) t k) (b.srcC x wide t k))

/-- A compare or other predicate writes the executing threads' bits of a mask; a masked thread's bit is kept, or
cleared under zeroing (R96, R166). -/
def Bundle.maskPass (b : Bundle) (x : Enc) (k : Nat) (p : Nat → Bool) : Bundle :=
  let ex := b.executing x
  let new := (bitsOf ex).foldl (fun m t => putBit m t (p t)) (b.mreg k)
  b.setMreg k (new &&& ~~~b.zeroed x)

/-! ### Floating operands (class 2) -/

/-- The immediate as a code of a format. -/
def fimm (f : WFmt) (x : Enc) : Nat := (f.round 1 (intVal x.imm)).1

/-- A pair of elements as one register. -/
def pairWord (e0 e1 : Nat) : Word := BitVec.ofNat 32 (e0 % 2 ^ 16 + 2 ^ 16 * (e1 % 2 ^ 16))

/-- Operand b of class 2: a literal, an immediate converted exactly, or a register (R92, R95, R176). -/
def Bundle.fsrcB (b : Bundle) (x : Enc) (t k : Nat) : Word :=
  if x.form == .literal then x.lit.truncate 32
  else if x.i then
    let c := fimm (wfmtOf x.ty.toNat) x
    if x.ty = 0 then BitVec.ofNat 32 c else pairWord c c
  else (b.srcB x false t k).truncate 32

/-- Apply an operation to the elements of a register format: one f32, or the two of a pair separately (R176). -/
def onElements (ty : Nat) (f : WFmt → Nat → Nat → Nat → Nat × DWord) (a b c : Word) : Word × DWord :=
  let w := wfmtOf ty
  if ty = 0 then
    let r := f w a.toNat b.toNat c.toNat
    (BitVec.ofNat 32 r.1, r.2)
  else
    let r0 := f w (a.toNat % 2 ^ 16) (b.toNat % 2 ^ 16) (c.toNat % 2 ^ 16)
    let r1 := f w (a.toNat / 2 ^ 16) (b.toNat / 2 ^ 16) (c.toNat / 2 ^ 16)
    (pairWord r0.1 r1.1, r0.2 ||| r1.2)

/-- A class-2 unit that computes a register from a, b and c (R176 to R180). -/
def State.fpWord (s : State) (i : Instr) (x : Enc) (g : Nat → Word → Word → Word → Word × DWord) :
    Host.Outcome State Fault Refusal :=
  s.onUnit i x (fun bk b =>
    let mode := b.modeFor x
    let r (c : Bundle) (t k : Nat) : Word × DWord :=
      g mode ((c.srcA x false t k).truncate 32) (c.fsrcB x t k) ((c.srcC x false t k).truncate 32)
    if x.u then
      let v := r b 0 0
      s.retire bk ((b.setSreg x.d.toNat (v.1.zeroExtend 64)).stick v.2) x
    else s.retire bk (b.vectorPass x false 1 (fun c t k => let v := r c t k; (v.1.zeroExtend 64, v.2))) x)

/-- A class-2 unit that works element by element. -/
def State.fpOp (s : State) (i : Instr) (x : Enc) (f : Nat → WFmt → Nat → Nat → Nat → Nat × DWord) :
    Host.Outcome State Fault Refusal :=
  s.fpWord i x (fun mode a b c => onElements x.ty.toNat (f mode) a b c)

/-! ### Results that land later -/

/-- The result of a thread for a destination of one register or a pair. -/
def regWrites (wide : Bool) (n : Nat) (v : DWord) : List RegW :=
  if wide then [.v n (v.truncate 32), .v (n + 1) ((v >>> 32).truncate 32)] else [.v n (v.truncate 32)]

/-- The results of a vector form as they land: per executing thread its registers and sticky bits, per zeroed
thread zeros (R96, R169). -/
def Bundle.laterWrites (b : Bundle) (x : Enc) (wide : Bool) (step : Nat) (g : Bundle → Nat → Nat → DWord × DWord) :
    List WB :=
  (bitsOf (b.executing x)).map (fun t =>
    let r := (positions x step).foldl (fun (acc : Bundle × List RegW) k =>
      let v := g acc.1 t k
      let n := b.num x 3 x.d t + k
      (acc.1.vput wide t n v.1, acc.2 ++ regWrites wide n v.1 ++ (if v.2 = 0 then [] else [.sticky v.2]))) (b, [])
    { t := t, ws := r.2 }) ++
  (bitsOf (b.zeroed x)).map (fun t =>
    { t := t, ws := (positions x step).flatMap (fun k =>
        let n := b.num x 3 x.d t + k
        if n < b.allot then regWrites wide n 0 else []) })

/-- The bits of a destination mask as they land (R171). -/
def Bundle.laterMask (b : Bundle) (x : Enc) (k : Nat) (p : Nat → Bool) : List WB :=
  (bitsOf (b.executing x)).map (fun t => { t := t, ws := [.m k (p t)] }) ++
  (bitsOf (b.zeroed x)).map (fun t => { t := t, ws := [.m k false] })

/-- Hand off an operation whose results are known and only have to land. -/
def State.handResults (s : State) (bk : Nat) (b : Bundle) (x : Enc) (cls : Nat) (ws : List WB) : State :=
  let id := s.nextId
  (s.handOff bk b x { id := 0, bk := bk, ser := 0, cls := cls, flag := none, upc := 0, ex := b.executing x,
                      ws := ws }).completeOp id

/-! ### Address operands (R101) -/

/-- The address of a thread, or of the bundle in the U form. -/
def Bundle.address (b : Bundle) (x : Enc) (t : Nat) : DWord :=
  let off := if x.i then immOf x else if x.u then b.sreg x.b.toNat else (b.vreg t x.b.toNat).zeroExtend 64
  b.sreg x.a.toNat + off + simm24 x

/-- The parties of an access with their addresses: each executing thread, or the bundle (64) in the U form. -/
def Bundle.parties (b : Bundle) (x : Enc) : List (Nat × Nat) :=
  if x.u then [(64, (b.address x 0).toNat)]
  else (bitsOf (b.executing x)).map (fun t => (t, (b.address x t).toNat))

/-! ### Control operands (R193, R194) -/

/-- The signed word offset of a class-4 unit (R91). -/
def ctlOffset (x : Enc) : Word :=
  if x.form == .extended then (imm24 x).signExtend 32
  else (BitVec.ofNat 10 (x.a.toNat % 32 * 32 + x.b.toNat % 32)).signExtend 32

/-- The code or count of a class-4 unit (R91). -/
def ctlCode (x : Enc) : Nat :=
  if x.form == .extended then x.w2.toNat % 256 else (x.a.toNat % 32 * 32 + x.b.toNat % 32) % 256

/-- The handle, core or flag mask field of a class-8 unit: from S[B][a], or from word 2 (R91, R201). -/
def Bundle.syncField (b : Bundle) (x : Enc) : Nat :=
  if x.form == .extended then x.w2.toNat / 2 ^ 16 else (b.sreg x.a.toNat).toNat % 2 ^ 16

end Sys2Proof.Machine
end

