-- ==== Sys2Proof/Machine/Ialu.lean ====
section
/-! DEFINITION. Class 1 within each thread (R158 to R168): arithmetic and logic, shifts and bit counts, bit
fields, selection, compares into masks, moves and addresses. -/

namespace Sys2Proof.Machine

/-- The reading of a bit vector as an integer, signed or not (R158). -/
def readInt {n : Nat} (signed : Bool) (a : BitVec n) : Int := if signed then a.toInt else (a.toNat : Int)

/-- The high half of the exact product (R162). -/
def mulHigh {n : Nat} (signed : Bool) (a b : BitVec n) : BitVec n :=
  BitVec.ofInt n (readInt signed a * readInt signed b / (2 ^ n : Int))

/-- The shift amount: the low 8 bits of b (R163). -/
def shiftAmount {n : Nat} (b : BitVec n) : Nat := b.toNat % 256

/-- Leading zero bits, n for 0 (R163). -/
def leadingZeros {n : Nat} (a : BitVec n) : Nat := if a = 0 then n else n - 1 - Nat.log2 a.toNat

/-- One bits (R163). -/
def oneBits {n : Nat} (a : BitVec n) : Nat := ((List.range n).filter (fun i => a.getLsbD i)).length

/-- Bit-field extraction by a control word (R164). -/
def fieldExtract {n : Nat} (signed : Bool) (a ctl : BitVec n) : BitVec n :=
  let p := min (ctl.toNat % 256) n
  let len := min (ctl.toNat / 256 % 256) (n - p)
  let f := a.toNat / 2 ^ p % 2 ^ len
  if len = 0 then 0
  else if signed ∧ 2 ^ (len - 1) ≤ f then BitVec.ofInt n ((f : Int) - (2 ^ len : Int)) else BitVec.ofNat n f

/-- Bit-field insertion by a control word (R164). -/
def fieldInsert {n : Nat} (a ctl c : BitVec n) : BitVec n :=
  let p := min (ctl.toNat % 256) n
  let len := min (ctl.toNat / 256 % 256) (n - p)
  let m := BitVec.ofNat n ((2 ^ len - 1) * 2 ^ p)
  (a &&& ~~~m) ||| (BitVec.ofNat n (c.toNat % 2 ^ len * 2 ^ p))

/-- `add` (R162). -/
def execAdd (x : Enc) (s : State) : Host.Outcome State Fault Refusal := s.intOp (.add x) x true (fun _ a b _ => a + b)

/-- `sub` (R162). -/
def execSub (x : Enc) (s : State) : Host.Outcome State Fault Refusal := s.intOp (.sub x) x true (fun _ a b _ => a - b)

/-- `mul` (R162). -/
def execMul (x : Enc) (s : State) : Host.Outcome State Fault Refusal := s.intOp (.mul x) x true (fun _ a b _ => a * b)

/-- `mulhi` (R162). -/
def execMulhi (x : Enc) (s : State) : Host.Outcome State Fault Refusal :=
  s.intOp (.mulhi x) x true (fun _ a b _ => mulHigh (signedTy x) a b)

/-- `mad` (R162). -/
def execMad (x : Enc) (s : State) : Host.Outcome State Fault Refusal :=
  s.intOp (.mad x) x true (fun _ a b c => a * b + c)

/-- `min` (R162). -/
def execMin (x : Enc) (s : State) : Host.Outcome State Fault Refusal :=
  s.intOp (.min x) x true (fun _ a b _ => if readInt (signedTy x) b < readInt (signedTy x) a then b else a)

/-- `max` (R162). -/
def execMax (x : Enc) (s : State) : Host.Outcome State Fault Refusal :=
  s.intOp (.max x) x true (fun _ a b _ => if readInt (signedTy x) a < readInt (signedTy x) b then b else a)

/-- `abs` (R162). -/
def execAbs (x : Enc) (s : State) : Host.Outcome State Fault Refusal :=
  s.intOp (.abs x) x true (fun _ a _ _ => if signedTy x && a.msb then -a else a)

/-- `neg` (R162). -/
def execNeg (x : Enc) (s : State) : Host.Outcome State Fault Refusal := s.intOp (.neg x) x true (fun _ a _ _ => -a)

/-- `and` (R162). -/
def execAnd (x : Enc) (s : State) : Host.Outcome State Fault Refusal :=
  s.intOp (.and x) x true (fun _ a b _ => a &&& b)

/-- `or` (R162). -/
def execOr (x : Enc) (s : State) : Host.Outcome State Fault Refusal :=
  s.intOp (.or x) x true (fun _ a b _ => a ||| b)

/-- `xor` (R162). -/
def execXor (x : Enc) (s : State) : Host.Outcome State Fault Refusal :=
  s.intOp (.xor x) x true (fun _ a b _ => a ^^^ b)

/-- `andn` (R162). -/
def execAndn (x : Enc) (s : State) : Host.Outcome State Fault Refusal :=
  s.intOp (.andn x) x true (fun _ a b _ => a &&& ~~~b)

/-- `not` (R162). -/
def execNot (x : Enc) (s : State) : Host.Outcome State Fault Refusal := s.intOp (.not x) x true (fun _ a _ _ => ~~~a)

/-- `shl`: an amount of the width or more gives 0 (R163). -/
def execShl (x : Enc) (s : State) : Host.Outcome State Fault Refusal :=
  s.intOp (.shl x) x false (fun n a b _ => if shiftAmount b < n then a <<< shiftAmount b else 0)

/-- `shr`: an amount of the width or more gives 0 (R163). -/
def execShr (x : Enc) (s : State) : Host.Outcome State Fault Refusal :=
  s.intOp (.shr x) x false (fun n a b _ => if shiftAmount b < n then a >>> shiftAmount b else 0)

/-- `sar`: the amount stops at the width less one (R163). -/
def execSar (x : Enc) (s : State) : Host.Outcome State Fault Refusal :=
  s.intOp (.sar x) x false (fun n a b _ => a.sshiftRight (min (shiftAmount b) (n - 1)))

/-- `rot`: left by the amount modulo the width; an immediate -1 is 255, one less than a multiple of it (R163). -/
def execRot (x : Enc) (s : State) : Host.Outcome State Fault Refusal :=
  s.intOp (.rot x) x false (fun n a b _ => a.rotateLeft (shiftAmount b % n))

/-- `clz` (R163). -/
def execClz (x : Enc) (s : State) : Host.Outcome State Fault Refusal :=
  s.intOp (.clz x) x true (fun n a _ _ => BitVec.ofNat n (leadingZeros a))

/-- `popc` (R163). -/
def execPopc (x : Enc) (s : State) : Host.Outcome State Fault Refusal :=
  s.intOp (.popc x) x true (fun n a _ _ => BitVec.ofNat n (oneBits a))

/-- The control word of `bfe` and `bfi`: a register, the literal, or imm24 when I = 1 (R164). -/
def controlWord (x : Enc) (b : Bundle) (t k : Nat) : DWord :=
  if x.i then (imm24 x).zeroExtend 64 else b.srcB x false t k

/-- `bfe` (R164). -/
def execBfe (x : Enc) (s : State) : Host.Outcome State Fault Refusal :=
  let wide := (rowOf (.bfe x)).wide x
  s.intPass (.bfe x) x (fun b t k =>
    atWidth wide (fun _ a ctl _ => fieldExtract (signedTy x) a ctl) (b.srcA x wide t k) (controlWord x b t k) 0)

/-- `bfi` (R164). -/
def execBfi (x : Enc) (s : State) : Host.Outcome State Fault Refusal :=
  let wide := (rowOf (.bfi x)).wide x
  s.intPass (.bfi x) x (fun b t k =>
    atWidth wide (fun _ a ctl c => fieldInsert a ctl c) (b.srcA x wide t k) (controlWord x b t k) (b.srcC x wide t k))

/-- `sel`: by the thread's bit of m(c), or by S[c] in the U form (R165). -/
def execSel (x : Enc) (s : State) : Host.Outcome State Fault Refusal :=
  let wide := (rowOf (.sel x)).wide x
  s.intPass (.sel x) x (fun b t k =>
    let first := if x.u then b.sreg x.c.toNat != 0 else hasBit (b.mreg x.c.toNat) t
    if first then b.srcA x wide t k else b.srcB x wide t k)

/-- A compare of a and b into the threads' bits of m(d) (R166). -/
def State.intCompare (s : State) (i : Instr) (x : Enc) (p : Int → Int → Bool) : Host.Outcome State Fault Refusal :=
  s.onUnit i x (fun bk b =>
    let wide := (rowOf i).wide x
    let rd (v : DWord) : Int :=
      if wide then readInt (signedTy x) v else readInt (signedTy x) (v.truncate 32 : Word)
    s.retire bk (b.maskPass x x.d.toNat (fun t => p (rd (b.srcA x wide t 0)) (rd (b.srcB x wide t 0)))) x)

/-- `cmp.eq` (R166). -/
def execCmpEq (x : Enc) (s : State) : Host.Outcome State Fault Refusal :=
  s.intCompare (.cmpEq x) x (fun a b => decide (a = b))

/-- `cmp.ne` (R166). -/
def execCmpNe (x : Enc) (s : State) : Host.Outcome State Fault Refusal :=
  s.intCompare (.cmpNe x) x (fun a b => decide (a ≠ b))

/-- `cmp.lt` (R166). -/
def execCmpLt (x : Enc) (s : State) : Host.Outcome State Fault Refusal :=
  s.intCompare (.cmpLt x) x (fun a b => decide (a < b))

/-- `cmp.le` (R166). -/
def execCmpLe (x : Enc) (s : State) : Host.Outcome State Fault Refusal :=
  s.intCompare (.cmpLe x) x (fun a b => decide (a ≤ b))

/-- `cmp.gt` (R166). -/
def execCmpGt (x : Enc) (s : State) : Host.Outcome State Fault Refusal :=
  s.intCompare (.cmpGt x) x (fun a b => decide (b < a))

/-- `cmp.ge` (R166). -/
def execCmpGe (x : Enc) (s : State) : Host.Outcome State Fault Refusal :=
  s.intCompare (.cmpGe x) x (fun a b => decide (b ≤ a))

/-- `mov` (R167). -/
def execMov (x : Enc) (s : State) : Host.Outcome State Fault Refusal := s.intOp (.mov x) x true (fun _ a _ _ => a)

/-- The constant of `movi`: the literal, the immediate, or imm24 extended by the signedness of the type (R167). -/
def moviConst (x : Enc) : DWord :=
  match constB x with
  | some v => v
  | none => if signedTy x then simm24 x else (imm24 x).zeroExtend 64

/-- `movi` (R167). -/
def execMovi (x : Enc) (s : State) : Host.Outcome State Fault Refusal := s.intPass (.movi x) x (fun _ _ _ => moviConst x)

/-- The address that `lea` forms: base, index extended by the type and shifted, displacement (R168). -/
def leaAddr (x : Enc) (base index : DWord) : DWord :=
  let ext : DWord := match x.ty.toNat with
    | 0 => (index.truncate 32 : Word).signExtend 64
    | 1 => (index.truncate 32 : Word).zeroExtend 64
    | _ => index
  base + (ext <<< ((imm24 x).toNat / 2 ^ 21)) + ((imm24 x).truncate 21 : BitVec 21).signExtend 64

/-- `lea` (R168): d is a pair in the vector form whatever the type. -/
def execLea (x : Enc) (s : State) : Host.Outcome State Fault Refusal :=
  s.onUnit (.lea x) x (fun bk b =>
    let wide := (rowOf (.lea x)).wide x
    let v (c : Bundle) (t k : Nat) : DWord := leaAddr x (c.sreg x.a.toNat) (c.srcB x wide t k)
    if x.u then s.retire bk (b.setSreg x.d.toNat (v b 0 0)) x
    else s.retire bk (b.vectorPass x true 2 (fun c t k => (v c t k, 0))) x)

/-- The register number of `movr` and `movw`: the index register plus the offset, exact (R174). -/
def indexNumber (x : Enc) (b : Bundle) (t k : Nat) : Int :=
  ((b.ireg t k).toNat : Int) + (if x.i then x.imm else 0)

/-- The bounds fault of `movr` and `movw` for the lowest-indexed thread with one (R174): what s63 shows is the
number, modulo 2^64. -/
def indexFault (x : Enc) (b : Bundle) (k : Nat) : Option Nat :=
  ((bitsOf (b.executing x)).find? (fun t => indexNumber x b t k < 0 || (b.allot : Int) ≤ indexNumber x b t k)).map
    (fun t => (BitVec.ofInt 64 (indexNumber x b t k)).toNat)

/-- `movr` (R174). -/
def execMovr (x : Enc) (s : State) : Host.Outcome State Fault Refusal :=
  s.onUnit (.movr x) x (fun bk b =>
    match indexFault x b (x.a.toNat % 4) with
    | some n => s.trapSync bk 0x02 n
    | none => s.retire bk (b.vectorPass x false 1
        (fun c t _ => ((c.vreg t (indexNumber x c t (x.a.toNat % 4)).toNat).zeroExtend 64, 0))) x)

/-- `movw` (R174); under zeroing a masked thread's addressed register becomes 0 where it exists (log 17). -/
def execMovw (x : Enc) (s : State) : Host.Outcome State Fault Refusal :=
  s.onUnit (.movw x) x (fun bk b =>
    let k := x.d.toNat % 4
    match indexFault x b k with
    | some n => s.trapSync bk 0x02 n
    | none =>
      let c := (bitsOf (b.executing x)).foldl (fun c t =>
        c.setVreg t (indexNumber x c t k).toNat (c.vreg t x.a.toNat)) b
      let c := (bitsOf (b.zeroed x)).foldl (fun c t =>
        if 0 ≤ indexNumber x c t k ∧ indexNumber x c t k < (c.allot : Int) then
          c.setVreg t (indexNumber x c t k).toNat 0 else c) c
      s.retire bk c x)

/-- `ixset` (R174). -/
def execIxset (x : Enc) (s : State) : Host.Outcome State Fault Refusal :=
  s.onUnit (.ixset x) x (fun bk b =>
    s.retire bk ((bitsOf (b.executing x)).foldl (fun c t =>
      c.setIreg t (x.d.toNat % 4) ((c.srcB x false t 0).truncate 8)) b) x)

/-- A launch coordinate (R175): the block's and the grid's dimensions stand in the launch record (R394). -/
def State.coordinate (s : State) (b : Bundle) (t sel : Nat) : Nat :=
  let l := s.launch b.launch
  let g := (FMap.look l.lr 0 2).toNat
  let d := (FMap.look l.lr 0 3).toNat
  let gx := g % 2 ^ 32
  let gy := g / 2 ^ 32 % 2 ^ 16
  let gz := g / 2 ^ 48
  let bx := d % 2 ^ 16
  let by' := d / 2 ^ 16 % 2 ^ 16
  let bz := d / 2 ^ 32 % 2 ^ 16
  let n := b.bno * b.width + t
  match sel with
  | 0 => n % bx
  | 1 => n / bx % by'
  | 2 => n / (bx * by')
  | 3 => bx
  | 4 => by'
  | 5 => bz
  | 6 => b.blk % gx
  | 7 => b.blk / gx % gy
  | 8 => b.blk / (gx * gy)
  | 9 => gx
  | 10 => gy
  | 11 => gz
  | 12 => n
  | 13 => b.width
  | 14 => b.allot
  | _ => b.dmax

/-- `tidx` (R175): the type is .i32, so the U form sign-extends (R94, R158). -/
def execTidx (x : Enc) (s : State) : Host.Outcome State Fault Refusal :=
  s.onUnit (.tidx x) x (fun bk b =>
    let v (t : Nat) : DWord := BitVec.ofNat 64 (s.coordinate b t x.imm.toNat % 2 ^ 32)
    if x.u then s.retire bk (b.setSreg x.d.toNat (extendResult false true (v b.lead))) x
    else s.retire bk (b.vectorPass x false 1 (fun _ t _ => (v t, 0))) x)

end Sys2Proof.Machine
end

