-- ==== Sys2Proof/Machine/CrossLane.lean ====
section
/-! DEFINITION. The cross-lane instructions of class 1 (R169 to R173): every source is read before any
destination is written; the results land later, thread by thread, and the flag falls with the last (R107, R109). -/

namespace Sys2Proof.Machine

/-- A cross-lane unit that writes each executing thread's register from a value computed on the sources as they
stand at the passage (R66, R169). -/
def State.crossPass (s : State) (i : Instr) (x : Enc) (wideDst : Bool) (g : Bundle → Nat → DWord) :
    Host.Outcome State Fault Refusal :=
  s.onLong i x (fun bk b =>
    s.handResults bk b x 1 (b.laterWrites x wideDst 1 (fun _ t _ => (g b t, 0))))

/-- A cross-lane unit that writes the executing threads' bits of m(d) (R171). -/
def State.crossMask (s : State) (i : Instr) (x : Enc) (p : Bundle → Nat → Bool) : Host.Outcome State Fault Refusal :=
  s.onLong i x (fun bk b => s.handResults bk b x 1 (b.laterMask x x.d.toNat (p b)))

/-- The value a shuffle delivers to thread t whose source index is j (R170). -/
def shuffled (b : Bundle) (x : Enc) (wide : Bool) (t : Nat) (j : Int) : DWord :=
  if 0 ≤ j ∧ j < (b.width : Int) ∧ hasBit (b.executing x) j.toNat = true then b.srcA x wide j.toNat 0
  else b.srcA x wide t 0

/-- The amount q of a shuffle: the low 8 bits of b (R170). -/
def shuffleAmount (b : Bundle) (x : Enc) (t : Nat) : Nat := (b.srcB x false t 0).toNat % 256

/-- `shfl` (R170). -/
def execShfl (x : Enc) (s : State) : Host.Outcome State Fault Refusal :=
  let wide := (rowOf (.shfl x)).wide x
  s.crossPass (.shfl x) x wide (fun b t => shuffled b x wide t ((shuffleAmount b x t % 64 : Nat) : Int))

/-- `shfl.up` (R170). -/
def execShflUp (x : Enc) (s : State) : Host.Outcome State Fault Refusal :=
  let wide := (rowOf (.shflUp x)).wide x
  s.crossPass (.shflUp x) x wide (fun b t => shuffled b x wide t ((t : Int) - (shuffleAmount b x t : Int)))

/-- `shfl.dn` (R170). -/
def execShflDn (x : Enc) (s : State) : Host.Outcome State Fault Refusal :=
  let wide := (rowOf (.shflDn x)).wide x
  s.crossPass (.shflDn x) x wide (fun b t => shuffled b x wide t ((t : Int) + (shuffleAmount b x t : Int)))

/-- `shfl.x` (R170). -/
def execShflX (x : Enc) (s : State) : Host.Outcome State Fault Refusal :=
  let wide := (rowOf (.shflX x)).wide x
  s.crossPass (.shflX x) x wide (fun b t => shuffled b x wide t ((t ^^^ shuffleAmount b x t : Nat) : Int))

/-- The predicate of the votes: a of t is not zero, as 32 bits (R171). -/
def votes (b : Bundle) (x : Enc) (t : Nat) : Bool := (b.srcA x false t 0).truncate 32 != (0 : Word)

/-- `vote.any` (R171). -/
def execVoteAny (x : Enc) (s : State) : Host.Outcome State Fault Refusal :=
  s.crossMask (.voteAny x) x (fun b _ => (bitsOf (b.executing x)).any (votes b x))

/-- `vote.all` (R171). -/
def execVoteAll (x : Enc) (s : State) : Host.Outcome State Fault Refusal :=
  s.crossMask (.voteAll x) x (fun b _ => (bitsOf (b.executing x)).all (votes b x))

/-- `ballot` (R171). -/
def execBallot (x : Enc) (s : State) : Host.Outcome State Fault Refusal :=
  s.crossPass (.ballot x) x true (fun b _ => maskOf ((bitsOf (b.executing x)).filter (votes b x)))

/-- A value at the width of the type. -/
def narrowTo (wide : Bool) (v : DWord) : DWord := if wide then v else (v.truncate 32 : Word).zeroExtend 64

/-- `match` (R171). -/
def execMatchOp (x : Enc) (s : State) : Host.Outcome State Fault Refusal :=
  let wide := (rowOf (.matchOp x)).wide x
  s.crossPass (.matchOp x) x true (fun b t =>
    maskOf ((bitsOf (b.executing x)).filter (fun u =>
      narrowTo wide (b.srcA x wide u 0) == narrowTo wide (b.srcA x wide t 0))))

/-- `elect` (R171). -/
def execElect (x : Enc) (s : State) : Host.Outcome State Fault Refusal :=
  s.crossMask (.elect x) x (fun b t => (bitsOf (b.executing x)).head? == some t)

/-- Combine the sources of a list of threads in ascending order (R172). -/
def combine (b : Bundle) (x : Enc) (wide : Bool) (f : DWord → DWord → DWord) (l : List Nat) : Option DWord :=
  l.foldl (fun acc t =>
    let v := narrowTo wide (b.srcA x wide t 0)
    match acc with
    | none => some v
    | some a => some (narrowTo wide (f a v))) none

/-- A reduction: every executing thread receives the combination of all (R172). -/
def State.redux (s : State) (i : Instr) (x : Enc) (f : DWord → DWord → DWord) : Host.Outcome State Fault Refusal :=
  let wide := (rowOf i).wide x
  s.crossPass i x wide (fun b _ => (combine b x wide f (bitsOf (b.executing x))).getD 0)

/-- The lesser or the greater by the signedness and width of the type (R172). -/
def pickBy (x : Enc) (wide greater : Bool) (a b : DWord) : DWord :=
  let rd (v : DWord) : Int :=
    if wide then readInt (signedTy x) v else readInt (signedTy x) (v.truncate 32 : Word)
  if greater then (if rd a < rd b then b else a) else (if rd b < rd a then b else a)

/-- `redux.add` (R172). -/
def execReduxAdd (x : Enc) (s : State) : Host.Outcome State Fault Refusal := s.redux (.reduxAdd x) x (fun a b => a + b)

/-- `redux.min` (R172). -/
def execReduxMin (x : Enc) (s : State) : Host.Outcome State Fault Refusal :=
  s.redux (.reduxMin x) x (pickBy x ((rowOf (.reduxMin x)).wide x) false)

/-- `redux.max` (R172). -/
def execReduxMax (x : Enc) (s : State) : Host.Outcome State Fault Refusal :=
  s.redux (.reduxMax x) x (pickBy x ((rowOf (.reduxMax x)).wide x) true)

/-- `redux.and` (R172). -/
def execReduxAnd (x : Enc) (s : State) : Host.Outcome State Fault Refusal :=
  s.redux (.reduxAnd x) x (fun a b => a &&& b)

/-- `redux.or` (R172). -/
def execReduxOr (x : Enc) (s : State) : Host.Outcome State Fault Refusal := s.redux (.reduxOr x) x (fun a b => a ||| b)

/-- `scan.add`: the sum over the executing threads up to and including each (R172). -/
def execScanAdd (x : Enc) (s : State) : Host.Outcome State Fault Refusal :=
  let wide := (rowOf (.scanAdd x)).wide x
  s.crossPass (.scanAdd x) x wide (fun b t =>
    (combine b x wide (fun a b => a + b) ((bitsOf (b.executing x)).filter (fun u => u ≤ t))).getD 0)

/-- `scan.xadd`: the sum over the executing threads before each (R172). -/
def execScanXadd (x : Enc) (s : State) : Host.Outcome State Fault Refusal :=
  let wide := (rowOf (.scanXadd x)).wide x
  s.crossPass (.scanXadd x) x wide (fun b t =>
    (combine b x wide (fun a b => a + b) ((bitsOf (b.executing x)).filter (fun u => u < t))).getD 0)

/-- A vector source read by a U-form unit, extended for a uniform register (R94, R173). -/
def laneValue (b : Bundle) (x : Enc) (wide : Bool) (t : Nat) : DWord :=
  extendResult wide (signedTy x) (b.vget wide t x.a.toNat)

/-- `bcast`: register a of the lowest-indexed active thread (R173). -/
def execBcast (x : Enc) (s : State) : Host.Outcome State Fault Refusal :=
  let wide := (rowOf (.bcast x)).wide x
  s.onLong (.bcast x) x (fun bk b =>
    s.handResults bk b x 1 [{ t := 64, ws := [.s x.d.toNat (laneValue b x wide b.lead)] }])

/-- The bundle index of `pick`: S[B][b] or the immediate as 64 bits, or a literal, of which a 32-bit type reads the
low half (R92, R173). -/
def pickIndex (b : Bundle) (x : Enc) (wide : Bool) : Nat :=
  if x.form == .literal && !wide then x.lit.toNat % 2 ^ 32 else (b.srcB x true 0 0).toNat

/-- `pick`: register a of thread k, live on any path, else 0 (R173). -/
def execPick (x : Enc) (s : State) : Host.Outcome State Fault Refusal :=
  let wide := (rowOf (.pick x)).wide x
  s.onLong (.pick x) x (fun bk b =>
    let k := pickIndex b x wide
    let v := if k < b.width ∧ hasBit b.live k = true then laneValue b x wide k else 0
    s.handResults bk b x 1 [{ t := 64, ws := [.s x.d.toNat v] }])

end Sys2Proof.Machine
end

