-- ==== Sys2Proof/Machine/Falu.lean ====
section
/-! DEFINITION. Class 2 (R176 to R186): floating-point arithmetic within each thread, compares into masks, and
the reductions and scans in ascending bundle index. -/

namespace Sys2Proof.Machine

/-- Round an exact value with the flags of its operation. -/
def finishVal (f : WFmt) (mode : Nat) (v : FVal × DWord) : Nat × DWord :=
  let r := f.round mode v.1
  (r.1, v.2 ||| r.2)

/-- `fadd` (R180). -/
def execFadd (x : Enc) (s : State) : Host.Outcome State Fault Refusal :=
  s.fpOp (.fadd x) x (fun mode f a b _ => f.addCode mode a b)

/-- `fsub` (R180). -/
def execFsub (x : Enc) (s : State) : Host.Outcome State Fault Refusal :=
  s.fpOp (.fsub x) x (fun mode f a b _ => finishVal f mode (addVal mode (f.decode a) (f.decode b).neg))

/-- `fmul` (R180). -/
def execFmul (x : Enc) (s : State) : Host.Outcome State Fault Refusal :=
  s.fpOp (.fmul x) x (fun mode f a b _ => finishVal f mode (mulVal (f.decode a) (f.decode b)))

/-- `fma` (R180). -/
def execFma (x : Enc) (s : State) : Host.Outcome State Fault Refusal :=
  s.fpOp (.fma x) x (fun mode f a b c => finishVal f mode (fmaVal mode (f.decode a) (f.decode b) (f.decode c)))

/-- `fmin` (R180). -/
def execFmin (x : Enc) (s : State) : Host.Outcome State Fault Refusal :=
  s.fpOp (.fmin x) x (fun _ f a b _ => (f.minCode a b, 0))

/-- `fmax` (R180). -/
def execFmax (x : Enc) (s : State) : Host.Outcome State Fault Refusal :=
  s.fpOp (.fmax x) x (fun _ f a b _ => (f.maxCode a b, 0))

/-- `fabs`: the sign bit cleared (R180). -/
def execFabs (x : Enc) (s : State) : Host.Outcome State Fault Refusal :=
  s.fpOp (.fabs x) x (fun _ f a _ _ => (a % f.signBit, 0))

/-- `fneg`: the sign bit inverted (R180). -/
def execFneg (x : Enc) (s : State) : Host.Outcome State Fault Refusal :=
  s.fpOp (.fneg x) x (fun _ f a _ _ => (if a < f.signBit then a + f.signBit else a - f.signBit, 0))

/-- `fcopysign` (R180). -/
def execFcopysign (x : Enc) (s : State) : Host.Outcome State Fault Refusal :=
  s.fpOp (.fcopysign x) x (fun _ f a b _ => (f.signed (decide (f.signBit ≤ b)) (a % f.signBit), 0))

/-- `fclass` (R184). -/
def execFclass (x : Enc) (s : State) : Host.Outcome State Fault Refusal :=
  s.fpOp (.fclass x) x (fun _ f a _ _ => (f.classCode a, 0))

/-- `fscale` (R182). -/
def execFscale (x : Enc) (s : State) : Host.Outcome State Fault Refusal :=
  s.fpOp (.fscale x) x (fun mode f a b _ => f.scaleCode mode a b)

/-- `frnd` (R183). -/
def execFrnd (x : Enc) (s : State) : Host.Outcome State Fault Refusal :=
  s.fpOp (.frnd x) x (fun mode f a _ _ => (f.integralCode mode a, 0))

/-- The two elements of a register in a pair format. -/
def pairVals (f : WFmt) (w : Word) : FVal × FVal := (f.decode (w.toNat % 2 ^ 16), f.decode (w.toNat / 2 ^ 16))

/-- `fdot2` (R181): pairs a and b, f32 c and d, one rounding. -/
def execFdot2 (x : Enc) (s : State) : Host.Outcome State Fault Refusal :=
  s.fpWord (.fdot2 x) x (fun mode a b c =>
    let f := wfmtOf x.ty.toNat
    let p := pairVals f a
    let q := pairVals f b
    let r := finishVal fmtF32 mode (dot2Val mode p.1 q.1 p.2 q.2 (fmtF32.decode c.toNat))
    (BitVec.ofNat 32 r.1, r.2))

/-- A floating compare into m(d), and for a pair type element 1 into m(d + 1) (R185). -/
def State.fpCompare (s : State) (i : Instr) (x : Enc) (p : FVal → FVal → Bool) : Host.Outcome State Fault Refusal :=
  s.onUnit i x (fun bk b =>
    let f := wfmtOf x.ty.toNat
    let a (t : Nat) : Word := (b.srcA x false t 0).truncate 32
    let c (t : Nat) : Word := b.fsrcB x t 0
    if x.ty = 0 then
      s.retire bk (b.maskPass x x.d.toNat (fun t => p (f.decode (a t).toNat) (f.decode (c t).toNat))) x
    else
      let b1 := b.maskPass x x.d.toNat (fun t => p (pairVals f (a t)).1 (pairVals f (c t)).1)
      let new := b.maskPass x (x.d.toNat + 1) (fun t => p (pairVals f (a t)).2 (pairVals f (c t)).2)
      s.retire bk (b1.setMreg (x.d.toNat + 1) (new.mreg (x.d.toNat + 1))) x)

/-- `fcmp.eq` (R185). -/
def execFcmpEq (x : Enc) (s : State) : Host.Outcome State Fault Refusal := s.fpCompare (.fcmpEq x) x eqVal

/-- `fcmp.ne` (R185). -/
def execFcmpNe (x : Enc) (s : State) : Host.Outcome State Fault Refusal :=
  s.fpCompare (.fcmpNe x) x (fun a b => !eqVal a b)

/-- `fcmp.lt` (R185). -/
def execFcmpLt (x : Enc) (s : State) : Host.Outcome State Fault Refusal := s.fpCompare (.fcmpLt x) x ltVal

/-- `fcmp.le` (R185). -/
def execFcmpLe (x : Enc) (s : State) : Host.Outcome State Fault Refusal :=
  s.fpCompare (.fcmpLe x) x (fun a b => ltVal a b || eqVal a b)

/-- `fcmp.un` (R185). -/
def execFcmpUn (x : Enc) (s : State) : Host.Outcome State Fault Refusal :=
  s.fpCompare (.fcmpUn x) x (fun a b => a == .nan || b == .nan)

/-- Combine registers of a list of threads in order, with the flags of every step (R186). -/
def fcombine (b : Bundle) (x : Enc) (g : Word → Word → Word × DWord) (l : List Nat) : Option (Word × DWord) :=
  l.foldl (fun acc t =>
    let v : Word := (b.srcA x false t 0).truncate 32
    match acc with
    | none => some (v, 0)
    | some a => let r := g a.1 v; some (r.1, a.2 ||| r.2)) none

/-- A floating reduction or scan: `upto` gives the threads that thread t's result combines (R186). -/
def State.fredux (s : State) (i : Instr) (x : Enc) (g : Bundle → Word → Word → Word × DWord)
    (upto : List Nat → Nat → List Nat) : Host.Outcome State Fault Refusal :=
  s.onLong i x (fun bk b =>
    let ex := bitsOf (b.executing x)
    let all := ((fcombine b x (g b) ex).getD (0, 0)).2
    s.handResults bk b x 2 (b.laterWrites x false 1 (fun _ t _ =>
      let r := (fcombine b x (g b) (upto ex t)).getD (0, 0)
      (r.1.zeroExtend 64, all))))

/-- `fredux.add` (R186). -/
def execFreduxAdd (x : Enc) (s : State) : Host.Outcome State Fault Refusal :=
  s.fredux (.freduxAdd x) x
    (fun b a v => onElements x.ty.toNat (fun f p q _ => f.addCode (b.modeFor x) p q) a v 0) (fun ex _ => ex)

/-- `fredux.max` (R186). -/
def execFreduxMax (x : Enc) (s : State) : Host.Outcome State Fault Refusal :=
  s.fredux (.freduxMax x) x (fun _ a v => onElements x.ty.toNat (fun f p q _ => (f.maxCode p q, 0)) a v 0)
    (fun ex _ => ex)

/-- `fscan.add` (R186). -/
def execFscanAdd (x : Enc) (s : State) : Host.Outcome State Fault Refusal :=
  s.fredux (.fscanAdd x) x
    (fun b a v => onElements x.ty.toNat (fun f p q _ => f.addCode (b.modeFor x) p q) a v 0)
    (fun ex t => ex.filter (fun u => u ≤ t))

end Sys2Proof.Machine
end

