-- ==== Sys2Proof/Machine/Formats.lean ====
section
/-! DEFINITION. Narrow formats, scales and tensor identifier entries (R134 to R153), and writing a value into or
reading a code out of any format that an entry names (R137, R139, R140, R190). -/

namespace Sys2Proof.Machine

/-- Bits [lo+n-1 : lo] of a number. -/
def bitField (w lo n : Nat) : Nat := w / 2 ^ lo % 2 ^ n

/-- A number of n bits read as two's complement. -/
def toSigned (n w : Nat) : Int := if 2 * (w % 2 ^ n) < 2 ^ n then ((w % 2 ^ n : Nat) : Int) else ((w % 2 ^ n : Nat) : Int) - (2 ^ n : Int)

/-- A format word's fields (R134). -/
structure Fmt where
  kind : Nat
  rnd : Nat
  mode : Nat
  bias : Int
  m : Nat
  e : Nat
  s : Nat
  deriving DecidableEq, Repr

/-- The fields of a format word (R134). -/
def fmtOfWord (w : Nat) : Fmt :=
  { kind := bitField w 21 3, rnd := bitField w 18 3, mode := bitField w 16 2, bias := toSigned 8 (bitField w 8 8),
    m := bitField w 4 4, e := bitField w 1 3, s := bitField w 0 1 }

/-- The width of a narrow code (R136). -/
def Fmt.w (f : Fmt) : Nat := f.s + f.e + f.m

/-- Whether a format word is valid (R135). -/
def fmtValid (w : Nat) : Bool :=
  let f := fmtOfWord w
  decide (f.rnd ≤ 6) &&
  (if f.kind = 0 then
    decide (1 ≤ f.w) && decide (f.w ≤ 8) && f.mode != 3 && (f.mode != 1 || (1 ≤ f.e && 1 ≤ f.m)) &&
      (f.mode != 2 || (f.s == 1 && 1 ≤ f.e)) && (f.e != 0 || f.mode == 0)
  else decide (f.kind ≤ 4) && w % 2 ^ 18 == 0)

/-- The value of a narrow code (R137). -/
def Fmt.decodeNarrow (f : Fmt) (c : Nat) : FVal :=
  if f.e = 0 then
    let n := if f.s = 1 then toSigned f.w c else ((c % 2 ^ f.w : Nat) : Int)
    .fin (decide (n < 0)) n.natAbs (-f.bias)
  else
    let sg := f.s == 1 && bitField c (f.e + f.m) 1 == 1
    let ef := bitField c f.m f.e
    let mf := bitField c 0 f.m
    if f.mode = 1 ∧ ef = 2 ^ f.e - 1 ∧ mf ≠ 0 then .nan
    else if f.mode = 2 ∧ sg = true ∧ ef = 0 ∧ mf = 0 then .nan
    else
      let cap := f.mode == 1 && ef == 2 ^ f.e - 1
      let ef := if cap then 2 ^ f.e - 2 else ef
      let mf := if cap then 2 ^ f.m - 1 else mf
      if ef = 0 then .fin sg mf (1 - f.bias - (f.m : Int))
      else .fin sg (2 ^ f.m + mf) ((ef : Int) - f.bias - (f.m : Int))

/-- The number of the largest finite magnitude, counted in codes from zero (R138). -/
def Fmt.topIndex (f : Fmt) : Nat := if f.mode = 1 then (2 ^ f.e - 1) * 2 ^ f.m - 1 else 2 ^ (f.e + f.m) - 1

/-- The largest magnitude of an integer format of a sign (R138). -/
def Fmt.intTop (f : Fmt) (neg : Bool) : Nat :=
  if f.s = 1 then (if neg then 2 ^ (f.w - 1) else 2 ^ (f.w - 1) - 1) else (if neg then 0 else 2 ^ f.w - 1)

/-- The code of a magnitude and a sign in a narrow format; a zero is the all-zero code but for a negative value
of a signed floating format whose mode is not 2 (R139). -/
def Fmt.place (f : Fmt) (neg : Bool) (k : Nat) : Nat :=
  if f.e = 0 then (if neg then (2 ^ f.w - k) % 2 ^ f.w else k)
  else if k = 0 then (if neg && f.s == 1 && f.mode != 2 then 2 ^ (f.e + f.m) else 0)
  else if neg then 2 ^ (f.e + f.m) + k else k

/-- The canonical code of NaN with its sticky bit (R139). -/
def Fmt.nanNarrow (f : Fmt) : Nat × DWord :=
  if f.mode = 1 then ((2 ^ f.e - 1) * 2 ^ f.m + 2 ^ (f.m - 1), 0)
  else if f.mode = 2 then (2 ^ (f.e + f.m), 0)
  else (0, stNNAN)

/-- The largest or least value, as a saturation writes it. -/
def Fmt.saturate (f : Fmt) (neg : Bool) : Nat × DWord :=
  if f.e = 0 then (f.place neg (f.intTop neg), stNSAT)
  else if neg && f.s == 0 then (0, stNSAT)
  else (f.place neg f.topIndex, stNSAT)

/-- Write (-1)^neg * num/den * 2^e into a narrow format (R139, R143). -/
def Fmt.encodeNarrow (f : Fmt) (mode : Nat) (neg : Bool) (num den : Nat) (e : Int) : Nat × DWord :=
  if num = 0 then (0, 0)
  else if f.e = 0 then
    let fr := scaleFrac num den (e + f.bias)
    let n := roundNat mode neg fr.1 fr.2
    if f.intTop neg < n then f.saturate neg else (f.place neg n, 0)
  else
    let emin : Int := 1 - f.bias
    let q := max (log2Frac num den + e) emin - (f.m : Int)
    let fr := scaleFrac num den (e - q)
    let k := (q + (f.m : Int) - emin).toNat * 2 ^ f.m + roundNat mode neg fr.1 fr.2
    if neg && f.s == 0 then (0, if k = 0 then 0 else stNSAT)
    else if f.topIndex < k then f.saturate neg
    else (f.place neg k, 0)

/-- The wide format of a kind (R134). -/
def Fmt.wide (f : Fmt) : WFmt := if f.kind = 1 then fmtF32 else if f.kind = 2 then fmtBf16 else fmtF16

/-- Round to a 32-bit integer: saturation sets NSAT (R190). -/
def encodeI32 (mode : Nat) (neg : Bool) (num den : Nat) (e : Int) : Nat × DWord :=
  let fr := scaleFrac num den e
  let n := roundNat mode neg fr.1 fr.2
  if neg then (if 2 ^ 31 < n then (2 ^ 31, stNSAT) else ((2 ^ 32 - n) % 2 ^ 32, 0))
  else (if 2 ^ 31 ≤ n then (2 ^ 31 - 1, stNSAT) else (n, 0))

/-- Write a value divided by den into a format, with its sticky bits (R190). -/
def Fmt.write (f : Fmt) (mode : Nat) (v : FVal) (den : Nat) : Nat × DWord :=
  match v with
  | .nan => if f.kind = 0 then f.nanNarrow else if f.kind = 4 then (0, stNNAN) else (f.wide.nanCode, 0)
  | .inf neg =>
    if f.kind = 0 then f.saturate neg
    else if f.kind = 4 then (if neg then 2 ^ 31 else 2 ^ 31 - 1, stNSAT)
    else (f.wide.signed neg f.wide.infCode, 0)
  | .fin neg m e =>
    if f.kind = 0 then f.encodeNarrow mode neg m den e
    else if f.kind = 4 then encodeI32 mode neg m den e
    else if m = 0 then (f.wide.signed neg 0, 0)
    else f.wide.roundFrac mode neg m den e

/-- The value of a code (R137, R142). -/
def Fmt.read (f : Fmt) (c : Nat) : FVal :=
  if f.kind = 0 then f.decodeNarrow c
  else if f.kind = 4 then intVal (toSigned 32 c)
  else f.wide.decode c

/-- The width of a code: w, or that of the wide format. -/
def Fmt.codeBits (f : Fmt) : Nat := if f.kind = 0 then f.w else if f.kind = 1 ∨ f.kind = 4 then 32 else 16

/-- The container width k (R151). -/
def Fmt.container (f : Fmt) : Nat :=
  if f.kind = 0 then (if f.w ≤ 2 then 2 else if f.w ≤ 4 then 4 else 8)
  else if f.kind = 1 ∨ f.kind = 4 then 32 else 16

/-- The largest finite value (R138, R142). -/
def Fmt.largest (f : Fmt) : FVal :=
  if f.kind = 4 then .fin false (2 ^ 31 - 1) 0
  else if f.kind ≠ 0 then f.wide.decode (f.wide.infCode - 1)
  else if f.e = 0 then .fin false (f.intTop false) (-f.bias)
  else f.decodeNarrow f.topIndex

/-- A tensor identifier entry's fields (R150). -/
structure Tid where
  fmt : Nat
  rows : Nat
  cols : Nat
  stride : Nat
  lay : Nat
  sbk : Nat
  sbm : Nat
  sfmt : Nat
  sbase : Nat
  rsv : Nat
  deriving DecidableEq, Repr

/-- The fields of an entry (R150). -/
def tidOf (t : BitVec 128) : Tid :=
  let w := t.toNat
  { fmt := bitField w 0 24, rows := bitField w 42 16, cols := bitField w 58 16, stride := bitField w 74 22,
    lay := bitField w 96 1, sbk := bitField w 99 2, sbm := bitField w 101 3, sfmt := bitField w 104 2,
    sbase := bitField w 106 22, rsv := bitField w 24 18 + bitField w 97 2 }

/-- The format of an entry. -/
def Tid.f (t : Tid) : Fmt := fmtOfWord t.fmt

/-- The 32-bit words of one chunk of 32 columns in planes layout (R152). -/
def Fmt.planes (f : Fmt) : Nat := if f.e = 0 then 1 + f.w else 1 + f.s + f.e + (f.m + 1)

/-- The bytes of one row (R151, R152). -/
def Tid.rowBytes (t : Tid) : Nat :=
  if t.lay = 1 then (t.cols + 31) / 32 * t.f.planes * 4 else (t.cols * t.f.container + 31) / 32 * 4

/-- The bytes from a tile's base to its last one (R247). -/
def Tid.extent (t : Tid) : Nat := (t.rows - 1) * t.stride + t.rowBytes

/-- Whether an entry is valid (R153). -/
def Tid.valid (t : Tid) : Bool :=
  fmtValid t.fmt && t.rows != 0 && t.cols != 0 && t.stride % 4 == 0 && decide (t.rowBytes ≤ t.stride) &&
    (t.lay == 0 || t.f.kind == 0) && decide (t.sfmt ≤ 2) &&
    (t.sfmt != 0 || (t.sbase == 0 && t.sbm == 0 && t.sbk == 0)) && (t.sfmt != 1 || t.sbase % 2 == 0) &&
    decide (t.sbm ≤ 6) && t.rsv == 0

/-- Block rows of the scale array (R145). -/
def Tid.bm (t : Tid) : Nat := 2 ^ t.sbm

/-- Block columns of the scale array (R145). -/
def Tid.bk (t : Tid) : Nat := 2 ^ (t.sbk + 5)

/-- Scale entries per array row (R145). -/
def Tid.scaleCols (t : Tid) : Nat := (t.cols + t.bk - 1) / t.bk

/-- The bytes of the scale array (R145). -/
def Tid.scaleBytes (t : Tid) : Nat :=
  if t.sfmt = 0 then 0
  else (t.rows + t.bm - 1) / t.bm * t.scaleCols * (if t.sfmt = 1 then 2 else 1)

/-- The offset of the scale of element (i, j) (R145). -/
def Tid.scaleAt (t : Tid) (i j : Nat) : Nat :=
  t.sbase + (i / t.bm * t.scaleCols + j / t.bk) * (if t.sfmt = 1 then 2 else 1)

/-- The value of a scale word: (16 + F)/16 * 2^(E - 127), E 0xFF read as 0xFE (R144). -/
def scaleVal (word : Nat) : FVal :=
  .fin false (16 + bitField word 4 4) ((min (bitField word 8 8) 0xFE : Nat) - 127 - 4 : Int)

/-- The scale word of an entry's scale array as a 16-bit word (R144). -/
def scaleWordOf (sfmt raw : Nat) : Nat := if sfmt = 2 then raw % 256 * 256 else raw % 65536

/-- A value times a scale, exactly. -/
def timesScale (v σ : FVal) : FVal := (mulVal v σ).1

/-- Whether amax / σ is at most a bound: amax ≤ bound * σ. -/
def scaleFits (amax bound σ : FVal) : Bool := !ltVal (mulVal bound σ).1 amax

/-- The scale word that `qnt` chooses for a greatest magnitude (R191). -/
def chooseScale (f : Fmt) (sfmt : Nat) (amax : FVal) : Nat :=
  let fs := if sfmt = 2 then [0] else List.range 16
  match amax with
  | .fin _ 0 _ => 127 * 256
  | .fin _ m e =>
    let top := if sfmt = 2 then 254 * 256 else 254 * 256 + 15 * 16
    match f.largest with
    | .fin _ gm ge =>
      if gm = 0 then top
      else
        let e0 := (log2Frac m gm + (e - ge) + 127 - 1).toNat
        ((List.range' e0 4).flatMap (fun ee => fs.map (fun ff => ee * 256 + ff * 16))).find?
          (fun w => w < 255 * 256 && scaleFits amax f.largest (scaleVal w)) |>.getD top
    | _ => top
  | _ => 127 * 256

end Sys2Proof.Machine
end

