-- ==== Sys2Proof/Machine/Special.lean ====
section
/-! DEFINITION. The nine special functions, correctly rounded (R187). The rational ones and the roots are exact;
the others are enclosed in an interval of fixed-point numbers and rounded at both ends. Where the ends round
alike, that is the correct rounding; where they do not, the result is Config.sfuUndecided (log 12). -/

namespace Sys2Proof.Machine

/-- Fraction bits of the fixed-point numbers. -/
def fpBits : Nat := 1200

/-- Half the width of the interval around an approximation, in units of the last place: far above the summed
truncations of the series (at most a few thousand units, scaled by at most 2^190). -/
def fpSlack : Nat := 2 ^ 220

/-- One in fixed point. -/
def fpOne : Int := (2 ^ fpBits : Nat)

/-- A product in fixed point. -/
def fpMul (a b : Int) : Int := a * b / fpOne

/-- Sum of a series: `term` is the current term, `next k t` the term after it. -/
def fpSeries (next : Nat → Int → Int) (n k : Nat) (term acc : Int) : Int :=
  match n with
  | 0 => acc + term
  | n + 1 => if term = 0 then acc else fpSeries next n (k + 1) (next k term) (acc + term)

/-- exp(r) for a small r. -/
def fpExp (r : Int) : Int := fpSeries (fun k t => fpMul t r / ((k + 1 : Nat) : Int)) 600 0 fpOne 0

/-- exp(r) - 1. -/
def fpExpm1 (r : Int) : Int := fpSeries (fun k t => fpMul t r / ((k + 2 : Nat) : Int)) 600 0 r 0

/-- 2 * artanh(z), the terms 2 z^(2k+1) / (2k+1). -/
def fpArtanh2 (num den : Int) : Int :=
  let z := num * fpOne / den
  let z2 := fpMul z z
  let go := List.range 600
  (go.foldl (fun (acc : Int × Int) k => (acc.1 + 2 * acc.2 / ((2 * k + 1 : Nat) : Int), fpMul acc.2 z2)) (0, z)).1

/-- ln 2. -/
def fpLn2 : Int := fpArtanh2 1 3

/-- arctan(1/n) with extra bits: the terms (-1)^k / ((2k+1) n^(2k+1)). -/
def fpArctanInv (bits n : Nat) : Int :=
  (((List.range 800).foldl (fun (acc : Int × Int) k =>
    (acc.1 + (if k % 2 = 0 then 1 else -1) * (acc.2 / ((2 * k + 1 : Nat) : Int)), acc.2 / ((n * n : Nat) : Int)))
    (0, ((2 ^ bits : Nat) : Int) / ((n : Nat) : Int))) : Int × Int).1

/-- pi with `bits` fraction bits (Machin's formula). -/
def fpPi (bits : Nat) : Int := 4 * (4 * fpArctanInv bits 5 - fpArctanInv bits 239)

/-- sin(r) for a reduced r. -/
def fpSin (r : Int) : Int :=
  let r2 := fpMul r r
  fpSeries (fun k t => -(fpMul t r2) / (((2 * k + 2) * (2 * k + 3) : Nat) : Int)) 400 0 r 0

/-- cos(r) for a reduced r. -/
def fpCos (r : Int) : Int :=
  let r2 := fpMul r r
  fpSeries (fun k t => -(fpMul t r2) / (((2 * k + 1) * (2 * k + 2) : Nat) : Int)) 400 0 fpOne 0

/-- The integer square root of n, by bits from 2^k down. -/
def isqrtFrom (k n r : Nat) : Nat :=
  match k with
  | 0 => if (r + 1) * (r + 1) ≤ n then r + 1 else r
  | k + 1 => isqrtFrom k n (if (r + 2 ^ (k + 1)) * (r + 2 ^ (k + 1)) ≤ n then r + 2 ^ (k + 1) else r)

/-- The integer square root. -/
def isqrt (n : Nat) : Nat := isqrtFrom (Nat.log2 n / 2 + 1) n 0

/-- Round the fixed-point interval around y, scaled by 2^sh, as f32: the code and flags of both ends where they
agree. `op` and `a` name the free value otherwise. -/
def roundInterval (op mode : Nat) (a : DWord) (neg : Bool) (y : Int) (sh : Int) : Nat × DWord :=
  let lo := (y - (fpSlack : Int)).toNat
  let hi := (y + (fpSlack : Int)).toNat
  let e : Int := sh - (fpBits : Int)
  if lo = 0 then ((Config.sfuUndecided op a).toNat % 2 ^ 32, stFINX)
  else
    let r := fmtF32.roundFrac mode neg lo 1 e
    let q := fmtF32.roundFrac mode neg hi 1 e
    if r = q then (r.1, r.2 ||| stFINX) else ((Config.sfuUndecided op a).toNat % 2 ^ 32, stFINX)

/-- A value a little below 1, for results that differ from 1 by less than 2^-90. -/
def roundBelowOne (mode : Nat) (neg : Bool) : Nat × DWord := fmtF32.roundFrac mode neg (2 ^ 100 - 1) 1 (-100)

/-- The canonical NaN with flags. -/
def f32Nan (fl : DWord) : Nat × DWord := (fmtF32.nanCode, fl)

/-- A zero or an infinity of a sign. -/
def f32Zero (neg : Bool) : Nat := fmtF32.signed neg 0
/-- An infinity of a sign. -/
def f32Inf (neg : Bool) : Nat := fmtF32.signed neg fmtF32.infCode

/-- 1.0. -/
def f32One : Nat := 0x3F800000

/-- m * 2^e in fixed point, truncated. -/
def toFixed (m : Nat) (e : Int) : Int :=
  let fr := scaleFrac m 1 (e + (fpBits : Int))
  ((fr.1 / fr.2 : Nat) : Int)

/-- `rcp` (R187). -/
def sfuRcp (mode : Nat) (v : FVal) : Nat × DWord :=
  match v with
  | .nan => f32Nan 0
  | .inf n => (f32Zero n, 0)
  | .fin n m e => if m = 0 then (f32Inf n, stFDZ) else fmtF32.roundFrac mode n 1 m (-e)

/-- The root of m * 2^e with many bits: significand, exponent, and whether it is exact. -/
def rootOf (num den : Nat) : Nat × Bool :=
  let big := num * 2 ^ 400 / den
  let r := isqrt big
  (r, r * r * den == num * 2 ^ 400)

/-- `sqrt` (R187). -/
def sfuSqrt (mode : Nat) (v : FVal) : Nat × DWord :=
  match v with
  | .nan => f32Nan 0
  | .inf n => if n then f32Nan stFINV else (f32Inf false, 0)
  | .fin n m e =>
    if m = 0 then (f32Zero n, 0)
    else if n then f32Nan stFINV
    else
      let odd := e % 2 != 0
      let r := rootOf (if odd then 2 * m else m) 1
      let h : Int := (if odd then e - 1 else e) / 2 - 200
      if r.2 then fmtF32.roundFrac mode false r.1 1 h else fmtF32.roundFrac mode false (2 * r.1 + 1) 1 (h - 1)

/-- `rsq` (R187). -/
def sfuRsq (mode : Nat) (v : FVal) : Nat × DWord :=
  match v with
  | .nan => f32Nan 0
  | .inf n => if n then f32Nan stFINV else (f32Zero false, 0)
  | .fin n m e =>
    if m = 0 then (f32Inf n, stFDZ)
    else if n then f32Nan stFINV
    else
      let odd := e % 2 != 0
      let r := rootOf 1 (if odd then 2 * m else m)
      let h : Int := -((if odd then e - 1 else e) / 2) - 200
      if r.2 then fmtF32.roundFrac mode false r.1 1 h else fmtF32.roundFrac mode false (2 * r.1 + 1) 1 (h - 1)

/-- The integer part, floored, of m * 2^e with a sign, and the fraction in fixed point. -/
def splitFixed (n : Bool) (m : Nat) (e : Int) : Int × Int :=
  let fr := scaleFrac m 1 (e + (fpBits : Int))
  let x : Int := ((fr.1 / fr.2 : Nat) : Int)
  let x := if n then -x else x
  (x / fpOne, x % fpOne)

/-- `exp2` (R187): results beyond the range round as an overflow or an underflow of the mode. -/
def sfuExp2 (mode : Nat) (code : DWord) (v : FVal) : Nat × DWord :=
  match v with
  | .nan => f32Nan 0
  | .inf n => if n then (f32Zero false, 0) else (f32Inf false, 0)
  | .fin n m e =>
    if m = 0 then (f32One, 0)
    else if 8 ≤ (Nat.log2 m : Int) + e then
      (if n then fmtF32.roundFrac mode false 3 1 (-300) else fmtF32.roundFrac mode false 1 1 300)
    else
      let p := splitFixed n m e
      if p.2 = 0 ∧ 0 ≤ e + (fpBits : Int) then fmtF32.roundFrac mode false 1 1 p.1
      else roundInterval 3 mode code false (fpExp (fpMul p.2 fpLn2)) p.1

/-- `log2` (R187). -/
def sfuLog2 (mode : Nat) (code : DWord) (v : FVal) : Nat × DWord :=
  match v with
  | .nan => f32Nan 0
  | .inf n => if n then f32Nan stFINV else (f32Inf false, 0)
  | .fin n m e =>
    if m = 0 then (f32Inf true, stFDZ)
    else if n then f32Nan stFINV
    else
      let k := Nat.log2 m
      if m = 2 ^ k then
        let t : Int := (k : Int) + e
        (if t = 0 then (f32Zero false, 0) else fmtF32.roundFrac mode (decide (t < 0)) t.natAbs 1 0)
      else
        let up := 3 * 2 ^ k < 2 * m
        let k1 := if up then k + 1 else k
        let ln := fpArtanh2 ((m : Int) - (2 ^ k1 : Nat)) ((m : Int) + (2 ^ k1 : Nat))
        let y := ((k1 : Int) + e) * fpOne + ln * fpOne / fpLn2
        roundInterval 4 mode code (decide (y < 0)) (y.natAbs : Int) 0

/-- The quadrant and the reduced argument in fixed point of a finite argument: no reduction error matters, since
pi is taken with 200 bits more (R187). -/
def reduceArg (m : Nat) (e : Int) : Nat × Int :=
  let bits := fpBits + 200
  let halfPi := fpPi bits / 2
  let fr := scaleFrac m 1 (e + (bits : Int))
  let x : Int := ((fr.1 / fr.2 : Nat) : Int)
  let k := (2 * x + halfPi) / (2 * halfPi)
  ((k % 4).toNat, (x - k * halfPi) / (2 ^ 200 : Nat))

/-- `sin` (R187). -/
def sfuSin (mode : Nat) (code : DWord) (v : FVal) : Nat × DWord :=
  match v with
  | .nan => f32Nan 0
  | .inf _ => f32Nan stFINV
  | .fin n m e =>
    if m = 0 then (f32Zero n, 0)
    else
      let q := reduceArg m e
      let y : Int := match q.1 with
        | 0 => fpSin q.2
        | 1 => fpCos q.2
        | 2 => -(fpSin q.2)
        | _ => -(fpCos q.2)
      roundInterval 5 mode code (n != decide (y < 0)) (y.natAbs : Int) 0

/-- `cos` (R187). -/
def sfuCos (mode : Nat) (code : DWord) (v : FVal) : Nat × DWord :=
  match v with
  | .nan => f32Nan 0
  | .inf _ => f32Nan stFINV
  | .fin _ m e =>
    if m = 0 then (f32One, 0)
    else
      let q := reduceArg m e
      let y : Int := match q.1 with
        | 0 => fpCos q.2
        | 1 => -(fpSin q.2)
        | 2 => -(fpCos q.2)
        | _ => fpSin q.2
      roundInterval 6 mode code (decide (y < 0)) (y.natAbs : Int) 0

/-- `tanh` (R187). -/
def sfuTanh (mode : Nat) (code : DWord) (v : FVal) : Nat × DWord :=
  match v with
  | .nan => f32Nan 0
  | .inf n => (fmtF32.signed n f32One, 0)
  | .fin n m e =>
    if m = 0 then (f32Zero n, 0)
    else if 5 ≤ (Nat.log2 m : Int) + e then roundBelowOne mode n
    else
      let t := toFixed m (e + 1)
      let k := t / fpLn2
      let ex := (2 ^ k.toNat : Nat) * fpExp (t - k * fpLn2)
      let num := if k = 0 then fpExpm1 t else ex - fpOne
      let den := if k = 0 then num + 2 * fpOne else ex + fpOne
      roundInterval 7 mode code n (num * fpOne / den) 0

/-- `erf` (R187): the series 2/sqrt(pi) * sum of (-1)^k x^(2k+1) / (k! (2k+1)); from 8 on it is within 2^-90
of 1. -/
def sfuErf (mode : Nat) (code : DWord) (v : FVal) : Nat × DWord :=
  match v with
  | .nan => f32Nan 0
  | .inf n => (fmtF32.signed n f32One, 0)
  | .fin n m e =>
    if m = 0 then (f32Zero n, 0)
    else if 3 ≤ (Nat.log2 m : Int) + e then roundBelowOne mode n
    else
      let x := toFixed m e
      let x2 := fpMul x x
      let sum := ((List.range 700).foldl (fun (acc : Int × Int) k =>
        (acc.1 + acc.2 / ((2 * k + 1 : Nat) : Int), -(fpMul acc.2 x2) / ((k + 1 : Nat) : Int))) (0, x)).1
      let rootPi := ((isqrt ((fpPi fpBits).toNat * 2 ^ fpBits) : Nat) : Int)
      roundInterval 8 mode code n (2 * sum * fpOne / rootPi) 0

/-- The special function of an op on an f32 code (R187). -/
def sfu (op mode : Nat) (code : Word) : Nat × DWord :=
  let v := fmtF32.decode code.toNat
  let a : DWord := code.zeroExtend 64
  match op with
  | 0 => sfuRcp mode v
  | 1 => sfuRsq mode v
  | 2 => sfuSqrt mode v
  | 3 => sfuExp2 mode a v
  | 4 => sfuLog2 mode a v
  | 5 => sfuSin mode a v
  | 6 => sfuCos mode a v
  | 7 => sfuTanh mode a v
  | _ => sfuErf mode a v

end Sys2Proof.Machine
end

