-- ==== Sys2Proof/Machine/Convert.lean ====
section
/-! DEFINITION. Class 3: the special functions (R187) and the conversions between register formats and the formats
that tensor identifiers name (R188 to R191). -/

namespace Sys2Proof.Machine

/-- A special function of a unit: written when it completes (R187). -/
def State.sfuPass (s : State) (i : Instr) (x : Enc) (op : Nat) : Host.Outcome State Fault Refusal :=
  s.onLong i x (fun bk b =>
    let f (w : DWord) : DWord × DWord :=
      let r := sfu op (b.modeFor x) (w.truncate 32)
      (BitVec.ofNat 64 r.1, r.2)
    if x.u then
      let r := f (b.sreg x.a.toNat)
      s.handResults bk b x 3 [{ t := 64, ws := [.s x.d.toNat r.1, .sticky r.2] }]
    else s.handResults bk b x 3 (b.laterWrites x false 1 (fun c t k => f (c.srcA x false t k))))

/-- `rcp` (R187). -/
def execRcp (x : Enc) (s : State) : Host.Outcome State Fault Refusal := s.sfuPass (.rcp x) x 0

/-- `rsq` (R187). -/
def execRsq (x : Enc) (s : State) : Host.Outcome State Fault Refusal := s.sfuPass (.rsq x) x 1

/-- `sqrt` (R187). -/
def execSqrt (x : Enc) (s : State) : Host.Outcome State Fault Refusal := s.sfuPass (.sqrt x) x 2

/-- `exp2` (R187). -/
def execExp2 (x : Enc) (s : State) : Host.Outcome State Fault Refusal := s.sfuPass (.exp2 x) x 3

/-- `log2` (R187). -/
def execLog2 (x : Enc) (s : State) : Host.Outcome State Fault Refusal := s.sfuPass (.log2 x) x 4

/-- `sin` (R187). -/
def execSin (x : Enc) (s : State) : Host.Outcome State Fault Refusal := s.sfuPass (.sin x) x 5

/-- `cos` (R187). -/
def execCos (x : Enc) (s : State) : Host.Outcome State Fault Refusal := s.sfuPass (.cos x) x 6

/-- `tanh` (R187). -/
def execTanh (x : Enc) (s : State) : Host.Outcome State Fault Refusal := s.sfuPass (.tanh x) x 7

/-- `erf` (R187). -/
def execErf (x : Enc) (s : State) : Host.Outcome State Fault Refusal := s.sfuPass (.erf x) x 8

/-! ### Conversions -/

/-- The entry a conversion names: word 2 bits [7:0] (R188). -/
def State.tidAt (s : State) (bk k : Nat) : Tid := tidOf (FMap.look (s.core (coreOfBundle bk)).tid 0 (k % 256))

/-- The number of the identifier a conversion names (R188). -/
def cvtTid (x : Enc) : Nat := x.w2.toNat % 256

/-- The elements of a register position: 1, or 2 for a pair format (R188). -/
def elements (x : Enc) : Nat := if x.ty = 1 ∨ x.ty = 2 then 2 else 1

/-- The format of the register side (R176, R188). -/
def regFmt (x : Enc) : Fmt :=
  { kind := if x.ty = 0 then 1 else if x.ty = 1 then 2 else if x.ty = 2 then 3 else 4, rnd := 0, mode := 0,
    bias := 0, m := 0, e := 0, s := 0 }

/-- The width of a register element. -/
def elemBits (x : Enc) : Nat := if elements x = 2 then 16 else 32

/-- The values of a register's elements, element 0 first. -/
def regValues (x : Enc) (w : DWord) : List FVal :=
  (List.range (elements x)).map (fun e => (regFmt x).read (bitField w.toNat (e * elemBits x) (elemBits x)))

/-- Codes packed into consecutive fields, with the sticky bits of all. -/
def packCodes (width : Nat) (l : List (Nat × DWord)) : Nat × DWord :=
  l.zipIdx.foldl (fun acc p => (acc.1 + p.1.1 % 2 ^ width * 2 ^ (p.2 * width), acc.2 ||| p.1.2)) (0, 0)

/-- Whether a conversion's codes occupy two registers (R188). -/
def twoRegs (x : Enc) (f : Fmt) : Bool := elements x * f.container == 64

/-- The value of a conversion operand: a register, or two where the codes occupy two. -/
def Bundle.cvtRead (b : Bundle) (x : Enc) (two : Bool) (t : Nat) (n : BitVec 8) : DWord :=
  if x.u then
    (if two then ((b.sreg (n.toNat + 1)).truncate 32 : Word).zeroExtend 64 <<< 32 |||
        ((b.sreg n.toNat).truncate 32 : Word).zeroExtend 64
      else ((b.sreg n.toNat).truncate 32 : Word).zeroExtend 64)
  else b.vget two t n.toNat

/-- The writes of a conversion result. -/
def cvtWrites (x : Enc) (two : Bool) (n : BitVec 8) (v : DWord) : List RegW :=
  if x.u then
    (if two then [.s n.toNat ((v.truncate 32 : Word).zeroExtend 64), .s (n.toNat + 1) (v >>> 32)]
      else [.s n.toNat ((v.truncate 32 : Word).zeroExtend 64)])
  else regWrites two n.toNat v

/-- The parties of a conversion: the executing threads, or the bundle. -/
def Bundle.cvtParties (b : Bundle) (x : Enc) : List Nat := if x.u then [64] else bitsOf (b.executing x)

/-- The checks of R188 and the hand-off of a conversion. `dst` says that the two-register operand is d, else a;
`n` is its field. -/
def State.cvtPass (s : State) (i : Instr) (x : Enc) (field : BitVec 8) (bad : Bundle → Tid → Bool)
    (ws : Bundle → Tid → List WB) : Host.Outcome State Fault Refusal :=
  s.onLong i x (fun bk b =>
    let k := cvtTid x
    let t := s.tidAt bk k
    if !t.valid then s.trapSync bk 0x09 k
    else if twoRegs x t.f && field.toNat % 2 == 1 then s.trapSync bk 0x09 k
    else if twoRegs x t.f && !x.u && decide (b.allot ≤ field.toNat + 1) then s.trapSync bk 0x02 (field.toNat + 1)
    else if bad b t then s.trapSync bk 0x09 k
    else s.handResults bk b x 3 (ws b t))

/-- The results of a conversion, per party, and zeros for zeroed threads in the registers `zs` (R96). -/
def Bundle.cvtResults (b : Bundle) (x : Enc) (g : Nat → List RegW) (zs : List RegW) : List WB :=
  (b.cvtParties x).map (fun t => { t := t, ws := g t }) ++
  (bitsOf (b.zeroed x)).map (fun t => { t := t, ws := zs })

/-- The mode of a conversion (R143). -/
def Bundle.cvtMode (b : Bundle) (x : Enc) (t : Tid) : Nat := b.modeForTid x.rnd.toNat t.f.rnd

/-- `cvt` (R189). -/
def execCvt (x : Enc) (s : State) : Host.Outcome State Fault Refusal :=
  s.cvtPass (.cvt x) x x.d (fun _ _ => false) (fun b t =>
    let two := twoRegs x t.f
    b.cvtResults x (fun p =>
      let r := packCodes t.f.container
        ((regValues x (b.cvtRead x false p x.a)).map (fun v => t.f.write (b.cvtMode x t) v 1))
      cvtWrites x two x.d (BitVec.ofNat 64 r.1) ++ [.sticky r.2]) (cvtWrites x two x.d 0))

/-- The greatest magnitude of the finite values of a list (R191). -/
def maxMagnitude (l : List FVal) : FVal :=
  l.foldl (fun acc v => match v with
    | .fin _ m e => if ltVal acc (.fin false m e) then .fin false m e else acc
    | _ => acc) (.fin false 0 0)

/-- Write a value divided by a scale (R190, R191): exact before the one rounding. -/
def writeScaled (f : Fmt) (mode : Nat) (v σ : FVal) : Nat × DWord :=
  match v, σ with
  | .fin neg m e, .fin _ sm se => f.write mode (.fin neg m (e - se)) sm
  | v, _ => f.write mode v 1

/-- `qnt` (R189, R191): one scale for every element of every executing thread. DESIGN CHOICE (log 100): where c names a
register of d, the scale word stands there, being written last. -/
def execQnt (x : Enc) (s : State) : Host.Outcome State Fault Refusal :=
  s.cvtPass (.qnt x) x x.d (fun _ _ => false) (fun b t =>
    let two := twoRegs x t.f
    let all := (b.cvtParties x).flatMap (fun p => regValues x (b.cvtRead x false p x.a))
    let word := chooseScale t.f t.sfmt (maxMagnitude all)
    let σ := if t.sfmt = 0 then FVal.fin false 1 0 else scaleVal word
    let c := if t.sfmt = 0 then [] else cvtWrites x false x.c (BitVec.ofNat 64 word)
    b.cvtResults x (fun p =>
      let r := packCodes t.f.container
        ((regValues x (b.cvtRead x false p x.a)).map (fun v => writeScaled t.f (b.cvtMode x t) v σ))
      cvtWrites x two x.d (BitVec.ofNat 64 r.1) ++ c ++ [.sticky r.2])
      (cvtWrites x two x.d 0 ++ (if t.sfmt = 0 then [] else cvtWrites x false x.c 0)))

/-- Codes of a format in containers from number `from0` on, decoded. -/
def readCodes (x : Enc) (f : Fmt) (w : DWord) (from0 : Nat) : List FVal :=
  (List.range (elements x)).map (fun e =>
    f.read (bitField w.toNat ((from0 + e) * f.container) f.container % 2 ^ f.codeBits))

/-- `dqnt` (R189, R191). -/
def execDqnt (x : Enc) (s : State) : Host.Outcome State Fault Refusal :=
  s.cvtPass (.dqnt x) x x.a (fun _ _ => false) (fun b t =>
    let two := twoRegs x t.f
    b.cvtResults x (fun p =>
      let raw := (b.cvtRead x false p x.c).toNat % 65536
      let σ := if t.sfmt = 0 then FVal.fin false 1 0
        else scaleVal (if t.sfmt = 2 then raw / 256 * 256 else raw)
      let r := packCodes (elemBits x) ((readCodes x t.f (b.cvtRead x two p x.a) 0).map (fun v =>
        (regFmt x).write (b.cvtMode x t) (timesScale v σ) 1))
      cvtWrites x false x.d (BitVec.ofNat 64 r.1) ++ [.sticky r.2]) (cvtWrites x false x.d 0))

/-- p of `pack` and `unpack`: bits [7:0] of b (R189). -/
def packIndex (b : Bundle) (x : Enc) (t : Nat) : Nat :=
  (if x.i then immOf x else b.cvtRead x false t x.b).toNat % 256

/-- Whether the containers that `pack` and `unpack` name pass 32 bits for some party (R189). DESIGN CHOICE (log 80):
where no thread executes, no party names containers, so an immediate p or codes of 64 bits raise no trap either. -/
def packBad (x : Enc) (b : Bundle) (t : Tid) : Bool :=
  (b.cvtParties x).any (fun p => 32 < (packIndex b x p + 1) * elements x * t.f.container)

/-- `pack` (R189): the other bits of d keep their values. -/
def execPack (x : Enc) (s : State) : Host.Outcome State Fault Refusal :=
  s.cvtPass (.pack x) x x.d (packBad x) (fun b t =>
    b.cvtResults x (fun p =>
      let r := packCodes t.f.container
        ((regValues x (b.cvtRead x false p x.a)).map (fun v => t.f.write (b.cvtMode x t) v 1))
      let width := elements x * t.f.container
      let lo := packIndex b x p * width
      let m : DWord := BitVec.ofNat 64 ((2 ^ width - 1) * 2 ^ lo)
      let v := (b.cvtRead x false p x.d &&& ~~~m) ||| (BitVec.ofNat 64 (r.1 * 2 ^ lo) &&& m)
      cvtWrites x false x.d v ++ [.sticky r.2]) (cvtWrites x false x.d 0))

/-- `unpack` (R189). -/
def execUnpack (x : Enc) (s : State) : Host.Outcome State Fault Refusal :=
  s.cvtPass (.unpack x) x x.a (packBad x) (fun b t =>
    b.cvtResults x (fun p =>
      let r := packCodes (elemBits x)
        ((readCodes x t.f (b.cvtRead x false p x.a) (packIndex b x p * elements x)).map (fun v =>
          (regFmt x).write (b.cvtMode x t) v 1))
      cvtWrites x false x.d (BitVec.ofNat 64 r.1) ++ [.sticky r.2]) (cvtWrites x false x.d 0))

end Sys2Proof.Machine
end

