-- ==== Sys2Proof/Machine/Memory.lean ====
section
/-! DEFINITION. Bytes of memory and of the pool, and the memory map of a package (R2, R21 to R23, R70, R383, R402,
R430, R452). Byte order is decided here once: little-endian. -/

namespace Sys2Proof.Machine

/-- A little-endian number from bytes. -/
def natOfBytes (l : List Byte) : Nat := l.foldr (fun b n => b.toNat + 256 * n) 0

/-- The n low bytes of a number, least significant first. -/
def bytesOfNat (n v : Nat) : List Byte :=
  match n with
  | 0 => []
  | n + 1 => BitVec.ofNat 8 v :: bytesOfNat n (v / 256)

/-- Read n bytes of memory at a pod-global physical address. -/
def State.memRead (s : State) (pa n : Nat) : List Byte := FMap.lookFrom s.mem Memory.unlisted pa n

/-- The 8-byte words that a write of n bytes from x on replaces whole. -/
def coveredWords (x n : Nat) : List Nat :=
  (List.range (n / 8 + 1)).filterMap (fun i =>
    let w := x / 8 + i
    if x ≤ 8 * w ∧ 8 * w + 8 ≤ x + n then some w else none)

/-- The correctable errors that a write of n bytes from x on leaves, in the pool (0) or in memory (1). -/
def keptErrors (l : List Nat) (space x n : Nat) : List Nat :=
  if l.isEmpty then [] else l.filter (fun p => !(p % 2 == space && (coveredWords x n).contains (p / 2)))

/-- The bytes that a write of n bytes from x on leaves in uncorrectable error (R232). -/
def keptBytes (l : List Nat) (space x n : Nat) : List Nat :=
  l.filter (fun p => !(p % 2 == space && decide (x ≤ p / 2 ∧ p / 2 < x + n)))

/-- The word of the first byte in uncorrectable error that a read of n bytes from x on meets (R232). -/
def badWord (l : List Nat) (space x n : Nat) : Option Nat :=
  (l.filter (fun p => p % 2 == space && decide (x ≤ p / 2 ∧ p / 2 < x + n))).foldl (fun m p =>
    match m with
    | none => some (p / 2 / 8 * 8)
    | some w => some (min w (p / 2 / 8 * 8))) none

/-- The error marks that a read of n bytes from x on meets. -/
def metErrors (l : List Nat) (space x n : Nat) : List Nat :=
  l.filter (fun p => p % 2 == space && decide (x / 8 ≤ p / 2 ∧ 8 * (p / 2) < x + n))

/-- Write bytes of memory; they are in error no more (R232). -/
def State.memWrite (s : State) (pa : Nat) (l : List Byte) : State :=
  { s with mem := FMap.writeFrom s.mem Memory.unlisted pa l
           poison := keptBytes s.poison 1 pa l.length
           soft := keptErrors s.soft 1 pa l.length }

/-- Whether a read of n bytes of memory meets an uncorrectable error: the address of the word (R232). -/
def State.memBad (s : State) (pa n : Nat) : Option Nat :=
  badWord s.poison 1 pa n

/-! ### The pool of a core (R20 to R23) -/

/-- The key of a frame byte of a core. -/
def frameKey (ck x : Nat) : Nat := ck * 2 ^ 22 + x

/-- Read frame bytes. -/
def State.frameRead (s : State) (ck x n : Nat) : List Byte := FMap.lookFrom s.pool 0 (frameKey ck x) n

/-- Write frame bytes. -/
def State.frameWrite (s : State) (ck x : Nat) (l : List Byte) : State :=
  { s with pool := FMap.writeFrom s.pool 0 (frameKey ck x) l
           poison := keptBytes s.poison 0 (frameKey ck x) l.length
           soft := keptErrors s.soft 0 (frameKey ck x) l.length }

/-- Write many frame bytes in one pass. -/
def State.frameFill (s : State) (ck x : Nat) (l : List Byte) : State :=
  { s with pool := FMap.fill s.pool 0 (frameKey ck x) l
           poison := keptBytes s.poison 0 (frameKey ck x) l.length
           soft := keptErrors s.soft 0 (frameKey ck x) l.length }

/-- Whether a read of frame bytes meets an uncorrectable error: the frame offset of the word (R232). -/
def State.frameBad (s : State) (ck x n : Nat) : Option Nat :=
  (badWord s.poison 0 (frameKey ck x) n).map (fun p => p % 2 ^ 22)

/-- Granules of the register file (R21). -/
def Core.rfg (c : Core) : Nat := c.part.toNat % 128

/-- Granules of the scratchpad (R21). -/
def Core.spg (c : Core) : Nat := c.part.toNat / 2 ^ 8 % 128

/-- Granules of the accumulator region (R21). -/
def Core.acg (c : Core) : Nat := c.part.toNat / 2 ^ 16 % 128

/-- Bytes of the scratchpad. -/
def Core.spBytes (c : Core) : Nat := c.spg * 65536

/-- Tiles of the accumulator region (R21, R264). -/
def Core.tiles (c : Core) : Nat := c.acg / 3 * 4

/-- The frame offset of a scratchpad byte (R23). -/
def Core.spBase (c : Core) : Nat := c.rfg * 65536

/-- The frame offset of a tile (R23). -/
def Core.tileBase (c : Core) (n : Nat) : Nat := (c.rfg + c.spg) * 65536 + n * 0xC000

/-- Read scratchpad bytes. -/
def State.spRead (s : State) (ck x n : Nat) : List Byte := s.frameRead ck ((s.core ck).spBase + x) n

/-- Write scratchpad bytes. -/
def State.spWrite (s : State) (ck x : Nat) (l : List Byte) : State := s.frameWrite ck ((s.core ck).spBase + x) l

/-- A word of a context's descriptor (R411). -/
def State.cdWord (s : State) (c w : Nat) : Nat := natOfBytes (s.memRead ((s.ctx c).desc + 8 * w) 8)

/-- TROOT: the local physical address of the root table (R411). -/
def State.troot (s : State) (c : Nat) : Nat := s.cdWord c 0 / 2 ^ 13 % 2 ^ 39 * 2 ^ 13

/-- SAVE: the local physical base of the device save area (R411). -/
def State.saveArea (s : State) (c : Nat) : Nat := s.cdWord c 1 / 2 ^ 12 % 2 ^ 40 * 2 ^ 12

/-- Whether n bytes from x on lie in the scratchpad of a core (R231). DESIGN CHOICE (log 89): SPG is that of the
partition word placed last on this core of this context, and before any placement the scratchpad is empty. -/
def State.inSp (s : State) (ck x n : Nat) : Bool := decide (x + n ≤ (s.core ck).spBytes) && decide (x < (s.core ck).spBytes)

/-- Firmware core SRAM (R427): the byte at x of the core with a firmware bundle key. -/
def sramKey (bk x : Nat) : Nat := (bk - fwBase) * 2 ^ 19 + x

/-- Read SRAM bytes. -/
def State.sramRead (s : State) (bk x n : Nat) : List Byte := FMap.lookFrom s.sram 0 (sramKey bk x) n

/-- The bytes of a firmware core's SRAM that hold the boot ROM, which is immutable: core 0's from address 0 on (R439). -/
def romBytes (bk : Nat) : Nat := if (bk - fwBase) % 16 = 0 then Config.romImage.length else 0

/-- Write SRAM bytes. -/
def State.sramWrite (s : State) (bk x : Nat) (l : List Byte) : State :=
  { s with sram := FMap.writeFrom s.sram 0 (sramKey bk x) l }

/-- A firmware core's store to its SRAM: the bytes of the boot ROM stay as they are (R439). -/
def State.sramStore (s : State) (bk x : Nat) (l : List Byte) : State :=
  s.sramWrite bk (max x (romBytes bk)) (l.drop (romBytes bk - x))

/-! ### The memory map (R452) -/

/-- What a package-local address reaches. -/
inductive Place where
  /-- HBM of a stack -/
  | hbm (stack : Nat)
  /-- the pool window: dense core and scratchpad byte (R70) -/
  | pool (c x : Nat)
  /-- the Shawm window: first die layer, and offset within the partition's window (R383) -/
  | shawm (p off : Nat)
  /-- the remap tables (R402) -/
  | remap (p off : Nat)
  /-- the management block (R430) -/
  | mgmt (off : Nat)
  /-- no memory and no register -/
  | nowhere
  deriving DecidableEq, Repr

/-- The package of a pod-global physical address (R452). -/
def pkgOfPa (pa : Nat) : Nat := pa / 2 ^ 46 % 64

/-- The package-local part of a pod-global physical address. -/
def localOfPa (pa : Nat) : Nat := pa % 2 ^ 46

/-- The pod-global address of a local one. -/
def globalPa (pkg x : Nat) : Nat := pkg * 2 ^ 46 + x

/-- The map of a package by address alone (R70, R383, R402, R430, R452). DESIGN CHOICE (log 89): the pool window, of
which R70 gives the base only, ends after 1024 cores. -/
def placeOf (x : Nat) : Place :=
  if x < 2 ^ 40 then (if x % 2 ^ 36 < 0xC00000000 then .hbm (x / 2 ^ 36) else .nowhere)
  else if 0x3C0000000000 ≤ x ∧ x < 0x3C0000000000 + 1024 * 2 ^ 22 then
    .pool ((x - 0x3C0000000000) / 2 ^ 22) ((x - 0x3C0000000000) % 2 ^ 22)
  else if 0x3E0000000000 ≤ x ∧ x < 0x3E0000000000 + 16 * 2 ^ 16 then
    .shawm ((x - 0x3E0000000000) / 2 ^ 16) ((x - 0x3E0000000000) % 2 ^ 16)
  else if 0x3E1000000000 ≤ x ∧ x < 0x3E1000000000 + 16 * 2 ^ 12 then
    .remap ((x - 0x3E1000000000) / 2 ^ 12) ((x - 0x3E1000000000) % 2 ^ 12)
  else if 0x3F0000000000 ≤ x ∧ x < 0x3F0000010000 then .mgmt (x - 0x3F0000000000)
  else .nowhere

/-- Whether a stack of a package is in service (R448, R449). -/
def State.stackServes (s : State) (pkg st : Nat) : Bool := (FMap.look (s.pkg pkg).hbm {} st).inService

/-- What a physical address reaches, a stack out of service reaching nothing (R451, R452). -/
def State.place (s : State) (pa : Nat) : Place :=
  match placeOf (localOfPa pa) with
  | .hbm st => if s.stackServes (pkgOfPa pa) st then .hbm st else .nowhere
  | p => p

/-- The chiplet whose home agent owns an HBM address: 8 * package + chiplet (R7, R452). -/
def homeChiplet (pa : Nat) : Nat := pkgOfPa pa * 8 + localOfPa pa / 2 ^ 36 / 2

/-- A read of memory corrects the soft errors that it meets and counts them in the stack's counter (R221, R232). -/
def State.correctMem (s : State) (pa n : Nat) : State :=
  let k := (metErrors s.soft 1 pa n).length
  if k = 0 then s
  else
    let p := s.pkg (pkgOfPa pa)
    let st := localOfPa pa / 2 ^ 36
    let x := FMap.look p.hbm {} st
    { s.setPkg (pkgOfPa pa) { p with hbm := FMap.put p.hbm st { x with corrected := x.corrected + k } } with
      soft := s.soft.filter (fun e => !(metErrors s.soft 1 pa n).contains e) }

/-- A read of a frame corrects the soft errors that it meets and counts them in the core's pool error counter
(R232). -/
def State.correctFrame (s : State) (ck x n : Nat) : State :=
  let l := metErrors s.soft 0 (frameKey ck x) n
  if l.isEmpty then s
  else { s.setCore ck { s.core ck with errors := (s.core ck).errors + l.length } with
         soft := s.soft.filter (fun e => !l.contains e) }

/-- A read of ranges of a core's scratchpad corrects the soft errors that it meets (R232). -/
def State.correctSp (s : State) (ck : Nat) (l : List (Nat × Nat)) : State :=
  l.foldl (fun s (r : Nat × Nat) => s.correctFrame ck ((s.core ck).spBase + r.1) r.2) s

/-! ### Charges (R403) -/

/-- Charge a budget of a function: 0 matrix-busy, 1 HBM, 2 fabric, 3 command. -/
def State.charge (s : State) (c k n : Nat) : State :=
  let f := s.fn c
  if FMap.look f.bud 0xFFFFFFFF k = 0xFFFFFFFF then s
  else s.setFn c { f with bal := FMap.write f.bal 0 k (FMap.look f.bal 0 k - (n : Int)) }

/-- Whether a charge is admitted. -/
def State.admits (s : State) (c k : Nat) : Bool :=
  FMap.look (s.fn c).bud 0xFFFFFFFF k == 0xFFFFFFFF || decide (0 < FMap.look (s.fn c).bal 0 k)

/-! ### Internal budgets (R405) -/

/-- Numbers of the internal activities. -/
def useScrub : Nat := 1
def useRecal : Nat := 2
def useReadout : Nat := 3
def usePolling : Nat := 5

/-- The reset budget per period of an activity: refresh commands of a stack, scrub in bytes of a stack, link recalibration in links, snapshot readout in
bytes, telemetry in flits, firmware polling in register reads of a core. -/
def resetBudget (k : Nat) : Nat :=
  match k with
  | 0 => Config.refreshCommands
  | 1 => 65536
  | 2 => 1
  | 3 => 16384
  | 4 => 32
  | 5 => 64
  | _ => 0

/-- The lowest budget that the monitor may set. -/
def lowestBudget (k : Nat) : Nat := if k = 0 then Config.refreshCommands else if k = usePolling then 8 else 0

/-- The budget of an activity of a package. -/
def Pkg.budget (p : Pkg) (k : Nat) : Nat := FMap.look p.budgets (resetBudget k) k

/-- The flits of a packet (R326). -/
def flitsOf (payload : Nat) : Nat := if payload ≤ 80 then 1 else (payload - 80 + 111) / 112 + 1

end Sys2Proof.Machine
end

