-- ==== Sys2Proof/Machine/Links.lean ====
section
/-! DEFINITION. Packets as they leave (R322, R326) and the link layer that carries those of another package (R324, R325,
R327, R328). -/

namespace Sys2Proof.Machine

/-! ### The link layer -/

/-- The header of a flit (R325). -/
def flitHeader (kind vc fseq ack rvc rcnt rsnd : Nat) : Nat :=
  kind * 2 ^ 60 + vc * 2 ^ 57 + fseq * 2 ^ 47 + ack * 2 ^ 37 + rvc * 2 ^ 34 + rcnt * 2 ^ 18 + rsnd * 2 ^ 17

/-- Whether an ACK covers a sequence number: at most 512 are outstanding (R327). -/
def ackCovers (ack fseq : Nat) : Bool := decide ((ack + 1024 - fseq % 1024) % 1024 < 512)

/-- What an accepted flit's returns do for the sender (R327, R328): flits that ACK covers leave the retry buffer, and at a
resend request the rest of it is sent again. -/
def Link.returns (x : Link) (ack rvc rcnt : Nat) (rsnd : Bool) : Link :=
  let left := x.retry.filter (fun e => !ackCovers ack e.1)
  { x with
    retry := left
    credit := FMap.put x.credit rvc (rcnt % 2 ^ 16)
    resendFrom := if rsnd then some ((ack + 1) % 1024) else x.resendFrom
    wire := if rsnd then x.wire ++ left.map (fun e => e.2) else x.wire }

/-- A flit in order with a good CRC is accepted; its buffer slot is freed as it is consumed (R327, R328). -/
def Link.accept (x : Link) (kind vc fseq body : Nat) : Link :=
  { x with
    seqWant := (fseq + 1) % 1024
    lastGood := fseq
    rsnd := false
    accepted := if kind = 0 then x.accepted else x.accepted ++ [body]
    freed := if kind = 0 then x.freed else FMap.put x.freed vc ((FMap.look x.freed 0 vc + 1) % 2 ^ 16) }

/-- A receiver takes a flit (R325, R327): a bad CRC, a reserved KIND or a gap makes it discard the flit and ask for a
resend; one that it has accepted before is discarded. -/
def Link.receive (x : Link) (kind vc fseq ack rvc rcnt rsnd : Nat) (good : Bool) (body : Nat) : Link :=
  if !good || decide (5 ≤ kind) then { x with rsnd := true }
  else if fseq % 1024 = x.seqWant then
    (x.accept kind (vc % 8) (fseq % 1024) body).returns (ack % 1024) (rvc % 8) rcnt (rsnd != 0)
  else if ackCovers ((x.seqWant + 1023) % 1024) fseq then x
  else { x with rsnd := true }

/-- The next flit that a link sends: its header over its payload, and the next channel's count in it (R325, R328). -/
def Link.flit (x : Link) (kind vc body : Nat) : Nat :=
  flitHeader kind vc x.seqNext x.lastGood x.nextVc (FMap.look x.freed 0 x.nextVc) (if x.rsnd then 1 else 0) * 2 ^ 896 + body

/-- The sender sends a flit, which stays in the retry buffer until it is acknowledged (R327, R328). -/
def Link.send (x : Link) (kind vc body : Nat) : Link :=
  let f := x.flit kind vc body
  { x with
    retry := x.retry ++ [(x.seqNext, f)]
    wire := x.wire ++ [f]
    seqNext := (x.seqNext + 1) % 1024
    sent := if kind = 0 then x.sent else FMap.put x.sent vc ((FMap.look x.sent 0 vc + 1) % 2 ^ 16)
    nextVc := (x.nextVc + 1) % 8 }

/-- Whether the retry buffer has a free slot (R327). -/
def Link.hasSlot (x : Link) : Bool := decide (x.retry.length < 512)

/-- The sender's credit for a channel (R328). -/
def Link.creditOf (x : Link) (vc : Nat) : Nat := (FMap.look x.credit 0 vc + 2 ^ 16 - FMap.look x.sent 0 vc) % 2 ^ 16

/-- An idle link sends an idle flit, which carries returns only, into a free retry slot (R327, R328). -/
def Link.sendIdle (x : Link) : Link := if x.hasSlot then x.send 0 0 0 else x

/-- Whether a link takes a flit of a channel now: it is in service, it does not recalibrate (R450), and it has a slot and a
credit, which channel 6 needs none of, since it is consumed at once (R329). -/
def Link.takes (x : Link) (vc : Nat) : Bool :=
  x.inService && !x.recal && x.hasSlot && (vc == 6 || x.creditOf vc != 0)

/-! ### Packets that leave their package -/

/-- The link that a path takes among the links of a package that are in service (log 84). -/
def Pkg.linkFor (p : Pkg) (path : Nat) : Option Nat :=
  let l := (p.links.filter (fun e => e.2.inService)).map (fun e => e.1)
  l[Config.pathHash path % l.length]?

/-- One waiting flit is sent if its link takes it and none of its path or channel waits before it; channel 6 waits behind no
other. `now` is the cycle, from which the link counts its idle time (R328). -/
def Pkg.feedOne (now : Nat) (p : Pkg) (f : OutFlit) : Pkg :=
  let waits : Pkg := { p with outbox := p.outbox ++ [f] }
  match p.linkFor f.path with
  | none => waits
  | some l =>
    let x := FMap.look p.links {} l
    if x.takes f.vc && !p.outbox.any (fun g => (g.path == f.path && f.vc != 6) || (g.vc == f.vc && p.linkFor g.path == some l)) then
      { p with links := FMap.put p.links l { x.send f.kind f.vc f.body with last := now } }
    else waits

/-- Every waiting flit that may be sent is sent, in order (R327, R328). -/
def Pkg.feed (now : Nat) (p : Pkg) : Pkg := p.outbox.foldl (Pkg.feedOne now) { p with outbox := [] }

/-- The links of a package send what they may; copies and pushes of which nothing is left unsent end locally (R333). -/
def State.feedLinks (s : State) (pkg : Nat) : State :=
  let s := s.setPkg pkg ((s.pkg pkg).feed s.cycle)
  (s.ops.filter (fun o => o.early)).foldl (fun s o => s.earlyFall o.id) s

/-- The virtual channel of a packet (R325, R329; which of 0 to 5 a path takes is free, log 84). -/
def Packet.vc (p : Packet) : Nat :=
  if p.op = 5 ∨ p.op = 6 then 6 else if p.escape then 7 else Config.pathHash p.path % 6

/-- The header of a packet (R326). -/
def Packet.header (p : Packet) : Nat :=
  p.op * 2 ^ 252 + p.scope % 8 * 2 ^ 249 + (if p.orig.isSome then 1 else 0) * 2 ^ 248 + (max 16 p.len / 16 - 1) % 256 * 2 ^ 240 +
    p.size * 2 ^ 237 + p.aop * 2 ^ 232 + p.dst % 2 ^ 52 * 2 ^ 172 + p.ctr.getD (2 ^ 52 - 1) % 2 ^ 52 * 2 ^ 120 +
    p.srcEp % 2 ^ 10 * 2 ^ 110 + p.tag % 2 ^ 14 * 2 ^ 96 + p.pseq % 2 ^ 16 * 2 ^ 80 + p.path % 2 ^ 8 * 2 ^ 72 +
    (p.orig.map (fun c => c % 256)).getD 0 * 2 ^ 64 + p.opnd.toNat

/-- A number in payloads of 112 bytes; `n` is their count. -/
def payloads (n v : Nat) : List Nat :=
  match n with
  | 0 => []
  | n + 1 => v % 2 ^ 896 :: payloads n (v / 2 ^ 896)

/-- KIND of flit i of n (R325). -/
def flitKind (i n : Nat) : Nat := if n = 1 then 4 else if i = 0 then 1 else if i + 1 = n then 3 else 2

/-- The flits of a packet (R326): its header stands in the first 32 bytes of the first payload. -/
def Packet.flits (p : Packet) : List OutFlit :=
  let n := flitsOf (max 16 p.data.length)
  ((payloads n (p.header + natOfBytes p.data * 2 ^ 256)).mapIdx (fun i b =>
    { pkt := p.id, path := p.path, vc := p.vc, kind := flitKind i n, body := b }))

/-- Put a packet on the fabric: a request takes its number on its path (R322), one of a reserved OP becomes a drop notice
at the first switch (R326), and one that leaves the package is given to its links, its flits charged (R403). -/
def State.launchPacket (s : State) (p : Packet) : State :=
  let p := { p with id := s.nextId, since := s.cycle, op := if 7 ≤ p.op then 6 else p.op
                    pseq := if p.asks then FMap.look s.paths 0 p.path else p.pseq }
  let s := { s with nextId := s.nextId + 1, pkts := s.pkts ++ [p] }
  let s := if p.asks then { s with paths := FMap.put s.paths p.path ((p.pseq + 1) % 2 ^ 16) } else s
  if p.leaves = p.goes ∨ (FMap.find s.pkgs p.leaves).isNone = true then s
  else
    let s := match p.orig with
      | some c => if pkgOfCtx c = p.leaves then s.charge c 2 p.flits.length else s
      | none => s
    s.setPkg p.leaves (Pkg.feed s.cycle { s.pkg p.leaves with outbox := (s.pkg p.leaves).outbox ++ p.flits })

/-- A packet that is dropped leaves nothing behind on the links of its package. -/
def State.recall (s : State) (p : Packet) : State :=
  if s.onLink p then s
  else s.setPkg p.leaves { s.pkg p.leaves with outbox := (s.pkg p.leaves).outbox.filter (fun f => f.pkt != p.id) }

end Sys2Proof.Machine
end

