-- ==== Sys2Proof/Machine/Translate.lean ====
section
/-! DEFINITION. Translation (R361 to R364): the four-level walk as a function of memory, the cached translations,
the rights of an access, and the group entries of shard pages (R366, R367). -/

namespace Sys2Proof.Machine

/-- A kind of access for the rights of a leaf (R362). -/
inductive Right where
  | read
  | write
  | fetch
  deriving DecidableEq, Repr

/-- A leaf: its level, its word, and the physical address of the entry that holds it. -/
structure Leaf where
  level : Nat
  word : DWord
  at_ : Nat
  deriving DecidableEq, Repr

/-- KIND (R361). -/
def leafKind (w : DWord) : Nat := w.toNat / 2 ^ 5 % 8
/-- SST (R361). -/
def leafSst (w : DWord) : Nat := w.toNat / 2 ^ 53 % 8
/-- GROUP (R361). -/
def leafGroup (w : DWord) : Nat := w.toNat / 2 ^ 56 % 64
/-- RFMT (R361). -/
def leafRfmt (w : DWord) : Nat := w.toNat / 2 ^ 52 % 2
/-- PFN as an address (R361). -/
def leafFrame (w : DWord) : Nat := w.toNat / 2 ^ 13 % 2 ^ 39 * 2 ^ 13

/-- The offset bits of a page of a level: 8 KiB, 8 MiB, 8 GiB. -/
def pageBits (level : Nat) : Nat := 13 + 10 * (level - 1)

/-- Whether a virtual address is canonical: bits [63:53] equal bit 52 (R361). -/
def canonical (va : Nat) : Bool :=
  let hi := va / 2 ^ 53 % 2 ^ 11
  if va / 2 ^ 52 % 2 = 1 then hi == 2 ^ 11 - 1 else hi == 0

/-- The index of an address at a level (R361). -/
def walkIndex (level va : Nat) : Nat := va / 2 ^ pageBits level % 1024

/-- A group entry's header word (R366). -/
def Ctx.groupHeader (c : Ctx) (g : Nat) : Nat := (FMap.look c.group 0 (65 * g)).toNat

/-- The member word of a rank (R366). -/
def Ctx.member (c : Ctx) (g r : Nat) : Nat := (FMap.look c.group 0 (65 * g + 1 + r)).toNat

/-- The members of a group entry (R366). -/
def Ctx.groupN (c : Ctx) (g : Nat) : Nat := c.groupHeader g % 128

/-- The context that a member word names (R366). -/
def memberCtx (w : Nat) : Nat := w % 64 * 256 + w / 2 ^ 10 % 16 * 16 + w / 2 ^ 6 % 16

/-- The rank of a context in a group entry, if it is listed (R366). -/
def State.rankIn (s : State) (c g : Nat) : Option Nat :=
  (List.range ((s.ctx c).groupN g)).find? (fun r => memberCtx ((s.ctx c).member g r) == c)

/-- Whether a valid entry may stand as a leaf at a level for a context; false is trap 0x04 (R362). -/
def State.leafOk (s : State) (c level : Nat) (w : DWord) : Bool :=
  let n := w.toNat
  let pkg := pkgOfPa (leafFrame w)
  n / 2 ^ 62 == 0 && n / 2 ^ 9 % 16 == 0 && n / 2 ^ 4 % 2 == 0 && leafKind w ≤ 3 &&
  n / 2 ^ 13 % 2 ^ (10 * (level - 1)) == 0 &&
  (match leafKind w with
    | 1 => pkg != pkgOfCtx c
    | 3 => pkg == pkgOfCtx c && level == 1 && leafSst w ≤ 5 && (s.rankIn c (leafGroup w)).isSome
    | _ => pkg == pkgOfCtx c)

/-- Whether a valid entry may stand as a table entry at a level (R362): every field but VD and PFN is zero, and
the table lies in the own package. -/
def tableOk (c : Nat) (w : DWord) : Bool :=
  w.toNat / 2 ^ 52 == 0 && w.toNat / 2 % 2 ^ 12 == 0 && pkgOfPa (leafFrame w) == pkgOfCtx c

/-- The walk from a table on (R362): none is trap 0x04. -/
def State.walkFrom (s : State) (c va level table : Nat) : Option Leaf :=
  match level with
  | 0 => none
  | l + 1 =>
    let a := table + 8 * walkIndex (l + 1) va
    let w : DWord := BitVec.ofNat 64 (natOfBytes (s.memRead a 8))
    if !w.getLsbD 0 then none
    else if l = 0 then (if !w.getLsbD 8 && s.leafOk c 1 w then some { level := 1, word := w, at_ := a } else none)
    else if w.getLsbD 8 then
      (if l + 1 ≤ 3 && s.leafOk c (l + 1) (w &&& ~~~0x100) then
        some { level := l + 1, word := w &&& ~~~0x100, at_ := a } else none)
    else if tableOk c w then State.walkFrom s c va l (leafFrame w) else none

/-- The walk of a context's address (R361, R362). -/
def State.walk (s : State) (c va : Nat) : Option Leaf :=
  if canonical va then s.walkFrom c va 4 (globalPa (pkgOfCtx c) (s.troot c)) else none

/-- The addresses of the entries that a walk reads, in order. -/
def State.walkWords (s : State) (c va level table : Nat) : List Nat :=
  match level with
  | 0 => []
  | l + 1 =>
    let a := table + 8 * walkIndex (l + 1) va
    let w : DWord := BitVec.ofNat 64 (natOfBytes (s.memRead a 8))
    a :: (if l ≠ 0 && w.getLsbD 0 && !w.getLsbD 8 && tableOk c w then State.walkWords s c va l (leafFrame w) else [])

/-- The addresses of the entries that the walk of a context's address reads. -/
def State.walkOf (s : State) (c va : Nat) : List Nat :=
  if canonical va then s.walkWords c va 4 (globalPa (pkgOfCtx c) (s.troot c)) else []

/-- The micro-TLB of a bundle's core (R363). -/
def microOf (bk : Nat) : Nat := denseOfCore (coreOfBundle bk) + 1

/-- The cached translations of an address in one TLB of a chiplet: the shared one (core 0) or a core's (R363). -/
def State.cachedIn (s : State) (c chiplet core va : Nat) : List TlbEntry :=
  (s.ctx c).tlb.filter (fun e =>
    e.chiplet == chiplet && e.core == core && canonical va && e.page == va / 2 ^ pageBits e.level)

/-- The cached translations of an address for an access: those of its core's micro-TLB, or else of the shared TLB (R363);
core 0 has no micro-TLB. -/
def State.cached (s : State) (c chiplet core va : Nat) : List TlbEntry :=
  match s.cachedIn c chiplet core va with
  | [] => s.cachedIn c chiplet 0 va
  | l => l

/-- The entries of the TLB that an entry goes into, each with its context: one shared TLB for a chiplet, one micro-TLB for a
core of a partition (R363). -/
def State.tlbPeers (s : State) (c : Nat) (e : TlbEntry) : List (Nat × TlbEntry) :=
  s.ctxs.flatMap (fun x => if e.core = 0 ∨ partOfCtx x.1 = partOfCtx c then
    (x.2.tlb.filter (fun t => t.chiplet == e.chiplet && t.core == e.core)).map (fun t => (x.1, t)) else [])

/-- The capacity of the TLB that an entry goes into (R363). -/
def TlbEntry.room (e : TlbEntry) : Nat := if e.core = 0 then 16384 else 64

/-- A translation is cached; a full TLB gives up an entry for it, freely chosen (R363; log 9). -/
def State.cache (s : State) (c : Nat) (e : TlbEntry) : State :=
  if (s.ctx c).tlb.contains e then s
  else
    let peers := s.tlbPeers c e
    let s := if peers.length < e.room then s else match peers[Config.tlbVictim s.tick % peers.length]? with
      | none => s
      | some v => s.setCtx v.1 { s.ctx v.1 with tlb := (s.ctx v.1).tlb.filter (fun t => t != v.2) }
    s.setCtx c { s.ctx c with tlb := (s.ctx c).tlb ++ [e] }

/-- The state with a leaf in the shared TLB of a chiplet and in the micro-TLB of a core. -/
def State.cacheLeaf (s : State) (c chiplet core va : Nat) (l : Leaf) : State :=
  let e : TlbEntry := { chiplet := chiplet, level := l.level, page := va / 2 ^ pageBits l.level, leaf := l.word }
  let s := s.cache c e
  if core = 0 then s else s.cache c { e with core := core }

/-- The leaf that serves an access: a cached one, or a walk's; and the state with that leaf cached (R363, R364). -/
def State.findLeaf (s : State) (c chiplet core va : Nat) : Option (Leaf × State) :=
  let hits := s.cached c chiplet core va
  match hits[Config.tlbChoice s.tick % hits.length]? with
  | some e =>
    let l : Leaf := { level := e.level, word := e.leaf, at_ := 0 }
    some (l, if core = 0 ∨ e.core ≠ 0 then s else s.cache c { e with core := core })
  | none =>
    match s.walk c va with
    | none => none
    | some l => some (l, (((s.walkOf c va).foldl (fun s a => s.correctMem a 8) s).charge c 1 (Config.hbmUnits s.tick)).cacheLeaf c chiplet core va l)

/-- The address of an uncorrectable error that the walk of an access meets, if it walks (R232). -/
def State.walkBad (s : State) (c chiplet core va : Nat) : Option Nat :=
  if (s.cached c chiplet core va).isEmpty then (s.walkOf c va).findSome? (fun a => s.memBad a 8) else none

/-- The physical address under a leaf (R361). -/
def Leaf.phys (l : Leaf) (va : Nat) : Nat := leafFrame l.word + va % 2 ^ pageBits l.level

/-- Whether a leaf grants a right (R362). -/
def Leaf.grants (l : Leaf) (r : Right) : Bool :=
  match r with
  | .read => l.word.getLsbD 1
  | .write => l.word.getLsbD 2
  | .fetch => l.word.getLsbD 3

/-! ### Shard pages (R366 to R369) -/

/-- The first unit of a rank among n (R367). -/
def unitFrom (n r : Nat) : Nat := 32 * r / n

/-- Whether an access of n bytes at an address lies in a rank's own units (R367, R369). -/
def ownUnits (members r va n : Nat) : Bool :=
  let lo := va % 8192 / 256
  let hi := (va % 8192 + n - 1) / 256
  decide (unitFrom members r ≤ lo) && decide (hi < unitFrom members (r + 1))

/-- The chiplet whose slice and walkers serve a core of a context; a firmware core has none. -/
def State.sliceOf (s : State) (bk : Nat) : Nat := s.chipletOf (coreOfBundle bk)

/-- What a fetch of code finds (R194, R369): the physical address, or the trap, or a page to gather first. -/
inductive FetchResult where
  | ok (pa : Nat) (s : State)
  | trap (code : Nat)
  /-- an uncorrectable error of memory at an address -/
  | bad (pa : Nat)
  | wait (va : Nat)

/-- Translate a code address (R194, R362, R369, R451). -/
def State.fetchAt (s : State) (bk va : Nat) : FetchResult :=
  let c := ctxOfBundle bk
  if let some a := s.walkBad c (s.sliceOf bk) (microOf bk) va then .bad a
  else match s.findLeaf c (s.sliceOf bk) (microOf bk) va with
  | none => .trap 0x04
  | some (l, s') =>
    if !l.grants .fetch then .trap 0x05
    else if leafKind l.word = 2 then .trap 0x05
    else
      let pa := l.phys va
      let shardWait :=
        if leafKind l.word = 3 then
          match leafSst l.word with
          | 0 => match s.rankIn c (leafGroup l.word) with
            | some r => !ownUnits ((s.ctx c).groupN (leafGroup l.word)) r va 4
            | none => false
          | 1 => true
          | 4 => true
          | _ => false
        else false
      if leafKind l.word = 3 ∧ leafSst l.word = 5 then .trap 0x06
      else if shardWait then .wait va
      else match s.place pa with
        | .hbm _ => .ok pa s'
        | .pool _ _ => .trap 0x05
        | .nowhere => if leafKind l.word = 1 then .trap 0x0E else .trap 0x05
        | _ => .trap 0x05

end Sys2Proof.Machine
end

