-- ==== Sys2Proof/Machine/X96.lean ====
section
/-! DEFINITION. The x96 form (R146 to R149): the conversion of a contribution, the saturating addition, slots in
memory, and reading a value out. The home agent, the matrix engine, the signature engine and the shard unit all
use these. -/

namespace Sys2Proof.Machine

/-- A slot: n, L and the flags overflow, inexact, NaN seen (R146). -/
structure Slot where
  n : Int := 0
  l : Int := 0
  ovf : Bool := false
  inx : Bool := false
  nan : Bool := false
  deriving DecidableEq, Repr

/-- The greatest n (R146). -/
def x96Max : Int := (2 ^ 95 - 1 : Nat)

/-- The least n (R146). -/
def x96Min : Int := -((2 ^ 95 : Nat) : Int)

/-- Saturate a slot toward a sign, setting overflow, when it is not set already (R147, R148). -/
def Slot.saturate (s : Slot) (neg : Bool) : Slot :=
  if s.ovf then s else { s with n := if neg then x96Min else x96Max, ovf := true }

/-- Add an integer (R148). -/
def Slot.addInt (s : Slot) (c : Int) : Slot :=
  if s.ovf then s
  else if s.n + c < x96Min then s.saturate true
  else if x96Max < s.n + c then s.saturate false
  else { s with n := s.n + c }

/-- Add a contribution, converted at L by truncation toward zero (R147, R148). -/
def Slot.add (s : Slot) (v : FVal) : Slot :=
  match v with
  | .nan => { s with nan := true }
  | .inf neg => s.saturate neg
  | .fin neg m e =>
    let fr := scaleFrac m 1 (e - s.l)
    let c : Int := ((fr.1 / fr.2 : Nat) : Int)
    let s := s.addInt (if neg then -c else c)
    if fr.1 % fr.2 = 0 then s else { s with inx := true }

/-- The value of a slot (R146). -/
def Slot.value (s : Slot) : FVal := .fin (decide (s.n < 0)) s.n.natAbs s.l

/-- The flags byte. -/
def Slot.flags (s : Slot) : Nat := (if s.ovf then 1 else 0) + (if s.inx then 2 else 0) + (if s.nan then 4 else 0)

/-- The 16 bytes of a slot as an operation writes them (R146). -/
def Slot.bytes (s : Slot) : List Byte :=
  bytesLE 12 (s.n % (2 ^ 96 : Int)).toNat ++ bytesLE 2 (s.l % (2 ^ 16 : Int)).toNat ++ [BitVec.ofNat 8 s.flags, 0]
where
  /-- Little-endian bytes. -/
  bytesLE (n v : Nat) : List Byte := (List.range n).map (fun i => BitVec.ofNat 8 (v / 256 ^ i))

/-- The slot that 16 bytes hold; bits [7:3] of byte 14 and byte 15 take no part (R146). -/
def slotOf (bs : List Byte) : Slot :=
  let v := bs.foldr (fun b n => b.toNat + 256 * n) 0
  { n := toSigned 96 (bitField v 0 96), l := toSigned 16 (bitField v 96 16), ovf := bitField v 112 1 == 1,
    inx := bitField v 113 1 == 1, nan := bitField v 114 1 == 1 }

/-- Read a value into a format: one rounding (R149). -/
def Slot.readInto (s : Slot) (f : Fmt) (mode : Nat) : Nat × DWord := f.write mode s.value 1

end Sys2Proof.Machine
end

