-- ==== Sys2Proof/Machine/Slices.lean ====
section
/-! DEFINITION. What the shard unit's slices do with a shard page of one member (R366 to R376): its state in the
page table, its record and staging in memory, first touches, installs, evictions and reductions, and the effects
of a lapsed peer. The messages themselves are performed in Machine/Shard.lean. -/

namespace Sys2Proof.Machine

/-! ### Pages and groups -/

/-- The page number P of a virtual address (R367). -/
def pageOf (va : Nat) : Nat := va / 8192 % 2 ^ 40

/-- The canonical virtual address of page P (R361). -/
def vaOfPage (p : Nat) : Nat := if 2 ^ 39 ≤ p then p * 8192 + (2 ^ 64 - 2 ^ 53) else p * 8192

/-- LG of a group (R366). -/
def Ctx.groupLg (c : Ctx) (g : Nat) : Int := toSigned 16 (c.groupHeader g / 2 ^ 16 % 2 ^ 16)

/-- RCOUNT of a group (R366). -/
def Ctx.groupRecords (c : Ctx) (g : Nat) : Nat := 256 * 2 ^ (c.groupHeader g / 2 ^ 33 % 8)

/-- SCOUNT of a group (R366). -/
def Ctx.groupFrames (c : Ctx) (g : Nat) : Nat := c.groupHeader g / 2 ^ 8 % 256

/-- Whether DN of a rank is set (R366). -/
def Ctx.down (c : Ctx) (g r : Nat) : Bool := 1 ≤ c.member g r / 2 ^ 63

/-- The ranks of a group. -/
def Ctx.ranks (c : Ctx) (g : Nat) : List Nat := List.range (c.groupN g)

/-- The physical address of a member's record table (R368). -/
def State.recordBase (s : State) (c g : Nat) : Nat :=
  globalPa (pkgOfCtx c) ((s.ctx c).groupHeader g / 2 ^ 36 * 2 ^ 24)

/-- The physical address of the record of page P on a member (R368). -/
def State.recordAt (s : State) (c g p : Nat) : Nat :=
  s.recordBase c g + 64 * (p % (s.ctx c).groupRecords g)

/-- The physical address of a staging frame (R368). -/
def State.stagingAt (s : State) (c g f : Nat) : Nat :=
  s.recordBase c g + (64 * (s.ctx c).groupRecords g + 8191) / 8192 * 8192 + 8192 * f

/-- An 8-byte word of memory. -/
def State.word (s : State) (pa : Nat) : Nat := natOfBytes (s.memRead pa 8)

/-- Write an 8-byte word of memory. -/
def State.setWord (s : State) (pa v : Nat) : State := s.memWrite pa (bytesOfNat 8 v)

/-- Tag of a record that page P uses (R368). -/
def tagFor (p : Nat) : Nat := 2 ^ 63 + p

/-- Whether a record is free (R368): its cell UNARMED, ACK 0 and no staging open. -/
def State.recordFree (s : State) (a : Nat) : Bool :=
  s.word (a + 8) % 8 == 0 && s.word (a + 24) == 0 && s.word (a + 32) / 2 ^ 63 == 0

/-- Whether page P may use its record on a member: it does already, or the record is free (R368). -/
def State.recordOpen (s : State) (c g p : Nat) : Bool :=
  let a := s.recordAt c g p
  s.word (a + 16) == tagFor p || s.word (a + 16) / 2 ^ 63 == 0 || s.recordFree a

/-- The record's tag is cleared when the record is free (R368). -/
def State.releaseRecord (s : State) (a : Nat) : State := if s.recordFree a then s.setWord (a + 16) 0 else s

/-! ### The state of a page on a member -/

/-- The leaf of a page on a member. -/
def State.pageLeaf (s : State) (c p : Nat) : Option Leaf := s.walk c (vaOfPage p)

/-- SST of a page on a member; 8 where the page is no shard page. -/
def State.sst (s : State) (c p : Nat) : Nat :=
  match s.pageLeaf c p with
  | none => 8
  | some l => if leafKind l.word = 3 then leafSst l.word else 8

/-- The frame of a page on a member. -/
def State.frameOf (s : State) (c p : Nat) : Nat :=
  match s.pageLeaf c p with
  | none => 0
  | some l => leafFrame l.word

/-- Remove the cached translations of an address in some chiplets (R363, R372, R379). -/
def State.dropTlb (s : State) (c va : Nat) (inScope : Nat → Bool) : State :=
  s.setCtx c { s.ctx c with tlb := (s.ctx c).tlb.filter (fun e =>
    !(e.page == va / 2 ^ pageBits e.level && inScope e.chiplet)) }

/-- A page changes its state on a member; its cached translations go first (R372). -/
def State.setSst (s : State) (c p sst : Nat) : State :=
  match s.pageLeaf c p with
  | none => s
  | some l =>
    if leafKind l.word = 3 then
      let w := l.word.toNat - leafSst l.word * 2 ^ 53 + sst * 2 ^ 53
      let s := (s.setWord l.at_ w).dropTlb c (vaOfPage p) (fun _ => true)
      if sst = 0 then s else s.setCtx c { s.ctx c with decided := (s.ctx c).decided.filter (fun q => q != p) }
    else s

/-- Whether a message between slices is data, which travels as an ordinary write packet; the others are notices (R370). -/
def Msg.isData (m : Msg) : Bool := m.kind == 3 || m.kind == 6

/-- The packet that carries a message between packages (R326, R370): a 16-byte notice on virtual channel 6, or a write of data. A
SHARD is written into the receiver's frame; where the other areas lie, and what a notice's bytes are, is free (log 86). -/
def State.msgPacket (s : State) (m : Msg) (id : Nat) : Packet :=
  let at_ := if m.kind = 3 then s.frameOf m.dst m.page + 256 * unitFrom ((s.ctx m.dst).groupN m.group) m.rank
    else globalPa (pkgOfCtx m.dst) (Config.noticeArea m.kind % 2 ^ 46)
  { id := id, op := if m.isData then 0 else 6, dst := at_, len := max 16 m.data.length, srcEp := pkgOfCtx m.src
    data := if m.isData then m.data else (List.range 16).map s.freeByteAt
    path := (2 ^ 32 + pkgOfCtx m.src * 2 ^ 8 + pkgOfCtx m.dst) * 2 ^ 8, leaves := pkgOfCtx m.src, goes := pkgOfCtx m.dst }

/-- Put a message between slices on its way (R370). Its bytes are read from HBM for the sender's function, and its flits
leave the package for it (R403). -/
def State.post (s : State) (m : Msg) : State :=
  let s := if m.data.isEmpty then s else s.charge m.src 1 (m.data.length / 64)
  let id := s.nextId
  let p := s.msgPacket m id
  let s := { s with nextId := id + 1, msgs := s.msgs ++ [{ m with id := id, since := s.cycle }] }
  if p.leaves = p.goes ∨ (FMap.find s.pkgs p.leaves).isNone = true then s
  else
    let s := s.charge m.src 2 p.flits.length
    s.setPkg p.leaves (Pkg.feed s.cycle { s.pkg p.leaves with outbox := (s.pkg p.leaves).outbox ++ p.flits })

/-- Whether every flit of a message has left its package, or nothing holds it: notices are never held (R329). -/
def State.msgLeft (s : State) (m : Msg) : Bool :=
  !m.isData || !(s.pkg (pkgOfCtx m.src)).outbox.any (fun f => f.pkt == m.id)

/-- Send a message between slices (R370). -/
def State.send (s : State) (kind src dst group page rank : Nat) (won ackd : Bool) (data : List Byte) : State :=
  s.post { id := 0, kind := kind, src := src, dst := dst, group := group, page := page, rank := rank, won := won,
           ackd := ackd, data := data }

/-- The context that is the coordinator of a page (R367). -/
def State.coordinator (s : State) (c g p : Nat) : Nat := memberCtx ((s.ctx c).member g (p % (s.ctx c).groupN g))

/-- Whether the waiters of a SHARDED page wait without proposing (R371). -/
def Ctx.asked (x : Ctx) (p : Nat) : Bool := x.props.contains p || x.acked.contains p || x.decided.contains p

/-- A first touch on a member in SHARDED (R371, R375): it proposes unless a proposal is outstanding or the member
waits for FREE; where a member of the group is down the page is lost. -/
def State.firstTouch (s : State) (c g p : Nat) : State :=
  let x := s.ctx c
  if (x.ranks g).any (x.down g) then s.setSst c p 5
  else if x.asked p then s
  else
    let s := s.setCtx c { x with props := x.props ++ [p] }
    s.send 0 c (s.coordinator c g p) g p ((s.rankIn c g).getD 0) false false []

/-- The bytes of a rank's units in a member's frame (R367). -/
def State.unitBytes (s : State) (c g p r : Nat) : List Byte :=
  let n := (s.ctx c).groupN g
  s.memRead (s.frameOf c p + 256 * unitFrom n r) (256 * (unitFrom n (r + 1) - unitFrom n r))

/-- The read of a rank's units corrects the soft errors that it meets (R221). -/
def State.correctUnits (s : State) (c g p r : Nat) : State :=
  let n := (s.ctx c).groupN g
  s.correctMem (s.frameOf c p + 256 * unitFrom n r) (256 * (unitFrom n (r + 1) - unitFrom n r))

/-- Whether a member holds the units of every other member (R372). -/
def State.gathered (s : State) (c g p : Nat) : Bool :=
  let got := FMap.look (s.ctx c).got 0 p
  (((s.ctx c).ranks g).filter (fun r => some r != s.rankIn c g)).all (fun r => hasBit got r)

/-- The `sh.touch #0` operations that wait for a page's install complete by it (R378): each is marked, and ends at its next event. -/
def State.touched (s : State) (c p : Nat) : State :=
  let mark (r : Req) : Req := if r.act = .sys 8 0 1 0 ∧ pageOf r.addr = p then { r with act := .sys 8 0 2 0 } else r
  { s with ops := s.ops.map (fun o => if o.cls = 12 ∧ isFw o.bk = false ∧ ctxOfBundle o.bk = c then { o with reqs := o.reqs.map mark } else o) }

/-- The install (R372, R374): a running member's page becomes GATHERED; a descheduled member defers it. -/
def State.install (s : State) (c g p : Nat) : State :=
  if s.gathered c g p && decide (s.sst c p ≤ 1) then
    if (s.ctx c).running then
      let s := (s.setSst c p 2).touched c p
      s.setCtx c { s.ctx c with got := FMap.del (s.ctx c).got p
                                deferred := (s.ctx c).deferred.filter (fun q => q != p) }
    else s.setCtx c { s.ctx c with deferred := (s.ctx c).deferred.insert p }
  else s

/-- SHARDED becomes GATHERING on a member that runs (R370, R374). -/
def State.gathering (s : State) (c p : Nat) : State :=
  if (s.ctx c).running && s.sst c p == 0 then s.setSst c p 1 else s

/-- Units of other members in a frame are unspecified once the page is given up (R378). -/
def State.blurUnits (s : State) (c g p : Nat) : State :=
  let n := (s.ctx c).groupN g
  ((s.ctx c).ranks g).foldl (fun s r =>
    if some r = s.rankIn c g then s
    else s.memWrite (s.frameOf c p + 256 * unitFrom n r)
      ((List.range (256 * (unitFrom n (r + 1) - unitFrom n r))).map (fun i => s.freeByteAt (256 * unitFrom n r + i)))) s

/-- An eviction of a gathered or lost page: SHARDED again, its other units discarded, and EVACK to the coordinator
(R373, R378). -/
def State.giveUp (s : State) (c g p : Nat) : State :=
  let s := (s.setSst c p 0).blurUnits c g p
  s.send 4 c (s.coordinator c g p) g p ((s.rankIn c g).getD 0) false false []

/-! ### Reductions (R376) -/

/-- The reduction of a partial page begins: REDUCING, and a SLICE to every rank that is not down. -/
def State.startReduce (s : State) (c g p : Nat) : State :=
  let s := s.setSst c p 4
  let live := ((s.ctx c).ranks g).filter (fun r => !(s.ctx c).down g r)
  let me := (s.rankIn c g).getD 0
  let s := live.foldl (fun s r =>
    (s.correctUnits c g p r).send 6 c (memberCtx ((s.ctx c).member g r)) g p me false false (s.unitBytes c g p r)) s
  s.setCtx c { s.ctx c with sacks := FMap.put (s.ctx c).sacks p (maskOf live) }

/-- The staging frame of a page on a member (log 85: its record holds the low seven bits). -/
def State.frameNo (s : State) (c p : Nat) : Nat := FMap.look (s.ctx c).frames 0 p

/-- Whether a page of a member belongs to a group. -/
def State.inGroup (s : State) (c g p : Nat) : Bool :=
  match s.pageLeaf c p with
  | none => false
  | some l => leafKind l.word == 3 && leafGroup l.word == g

/-- The frames that open stagings of a group use on a member. -/
def State.framesUsed (s : State) (c g : Nat) : List Nat :=
  ((s.ctx c).frames.filter (fun e => s.inGroup c g e.1)).map (fun e => e.2)

/-- Whether the staging of a page is open on a member. -/
def State.stagingOpen (s : State) (c g p : Nat) : Bool :=
  s.word (s.recordAt c g p + 16) == tagFor p && s.word (s.recordAt c g p + 32) / 2 ^ 63 == 1

/-- Write slots from an address on. -/
def State.setSlots (s : State) (pa : Nat) (l : List Slot) : State := s.memWrite pa (l.flatMap Slot.bytes)

/-- The slots that bytes hold, 16 bytes each; `fuel` bounds their number. -/
def slotsOf (fuel : Nat) (l : List Byte) : List Slot :=
  match fuel with
  | 0 => []
  | n + 1 => if l.isEmpty then [] else slotOf (l.take 16) :: slotsOf n (l.drop 16)

/-- Add a slot into a staging slot: its value is converted at the staging's L and added, its flags are ORed in. -/
def Slot.join (acc x : Slot) : Slot :=
  let y := acc.add x.value
  { y with ovf := y.ovf || x.ovf, inx := y.inx || x.inx, nan := y.nan || x.nan }

/-- A staging frame opens for a page on an owner, if one is free. -/
def State.openStaging (s : State) (c g p : Nat) : Option State :=
  let a := s.recordAt c g p
  if s.stagingOpen c g p then some s
  else if !s.recordOpen c g p then none
  else
    let used := s.framesUsed c g
    match (List.range ((s.ctx c).groupFrames g)).find? (fun f => !used.contains f) with
    | none => none
    | some f =>
      let n := (s.ctx c).groupN g
      let r := (s.rankIn c g).getD 0
      let s := ((s.setWord (a + 16) (tagFor p)).setWord (a + 32) (2 ^ 63 + f % 128 * 2 ^ 8)).setWord (a + 40) 0
      let s := s.setCtx c { s.ctx c with frames := FMap.put (s.ctx c).frames p f }
      some (s.setSlots (s.stagingAt c g f + 256 * unitFrom n r)
        (List.replicate (16 * (unitFrom n (r + 1) - unitFrom n r)) { l := (s.ctx c).groupLg g }))

/-- A staging ends: its frame is free, and its record if nothing else uses it. -/
def State.endStaging (s : State) (c g p : Nat) : State :=
  let a := s.recordAt c g p
  let s := s.setCtx c { s.ctx c with frames := FMap.del (s.ctx c).frames p }
  ((s.setWord (a + 32) 0).setWord (a + 40) 0).releaseRecord a

/-- The bytes that an owner writes for a slot when the staging closes. -/
def closeSlot (rfmt : Nat) (x : Slot) : List Byte :=
  if rfmt = 0 then x.bytes
  else
    let code := if x.nan then 0x7FC00000 else (fmtF32.round 1 x.value).1
    bytesOfNat 4 code ++ List.replicate 8 0 ++ x.bytes.drop 12

/-- The staging closes when all slices have arrived and the owner's own page is neither PARTIAL nor REDUCING. -/
def State.closeStaging (s : State) (c g p : Nat) : State :=
  let a := s.recordAt c g p
  let n := (s.ctx c).groupN g
  if s.stagingOpen c g p && (List.range n).all (fun r => s.word (a + 40) / 2 ^ r % 2 == 1) && s.sst c p != 3 &&
      s.sst c p != 4 then
    let r := (s.rankIn c g).getD 0
    let f := s.frameNo c p
    let bytes := s.memRead (s.stagingAt c g f + 256 * unitFrom n r) (256 * (unitFrom n (r + 1) - unitFrom n r))
    let rfmt := match s.pageLeaf c p with
      | none => 0
      | some l => leafRfmt l.word
    let s := s.correctMem (s.stagingAt c g f + 256 * unitFrom n r) (256 * (unitFrom n (r + 1) - unitFrom n r))
    let s := s.memWrite (s.frameOf c p + 256 * unitFrom n r)
      ((slotsOf 512 bytes).flatMap (closeSlot rfmt))
    s.endStaging c g p
  else s

/-- A SLICE is added into the owner's staging (R376). -/
def State.addSlice (s : State) (c g p rank : Nat) (data : List Byte) : Option State :=
  match s.openStaging c g p with
  | none => none
  | some s =>
    let a := s.recordAt c g p
    let n := (s.ctx c).groupN g
    let r := (s.rankIn c g).getD 0
    let at_ := s.stagingAt c g (s.frameNo c p) + 256 * unitFrom n r
    let old := slotsOf 512 (s.memRead at_ data.length)
    let s := s.correctMem at_ data.length
    let s := s.setSlots at_ (List.zipWith Slot.join old (slotsOf 512 data))
    let s := (s.setWord (a + 32) (s.word (a + 32) + 1)).setWord (a + 40)
      ((BitVec.ofNat 64 (s.word (a + 40)) ||| bitMask rank).toNat)
    some (s.closeStaging c g p)

/-- An evicting member counts the acknowledgement of an owner; the last one ends the reduction. -/
def State.sackFrom (s : State) (c g p r : Nat) : State :=
  match FMap.find (s.ctx c).sacks p with
  | none => s
  | some m =>
    let m := m &&& ~~~bitMask r
    if m = 0 then
      let s := s.setCtx c { s.ctx c with sacks := FMap.del (s.ctx c).sacks p }
      if s.sst c p = 4 then (s.setSst c p 0).closeStaging c g p else s
    else s.setCtx c { s.ctx c with sacks := FMap.put (s.ctx c).sacks p m }

/-! ### Records of a coordinator -/

/-- The mask of the ranks of a group that are down. -/
def Ctx.downMask (x : Ctx) (g : Nat) : DWord := maskOf ((x.ranks g).filter (x.down g))

/-- When every ACK bit is set, the coordinator resets the cell, frees the record and sends FREE to every member (R370,
R375). -/
def State.freeIfAcked (s : State) (c g p : Nat) : State :=
  let a := s.recordAt c g p
  let x := s.ctx c
  if s.word (a + 16) == tagFor p && s.word (a + 8) % 8 != 0 &&
      (x.ranks g).all (fun r => s.word (a + 24) / 2 ^ r % 2 == 1) then
    let s := (((s.setWord a 0).setWord (a + 8) 0).setWord (a + 24) 0).releaseRecord a
    (x.ranks g).foldl (fun s r => s.send 5 c (memberCtx (x.member g r)) g p r false false []) s
  else s

/-- The pages whose records of a group are in use on a member. -/
def State.recordPages (s : State) (c g : Nat) : List Nat :=
  ((List.range ((s.ctx c).groupRecords g)).map (fun i => s.word (s.recordBase c g + 64 * i + 16))).filterMap
    (fun w => if w / 2 ^ 63 = 1 then some (w % 2 ^ 40) else none)

/-- A page becomes LOST on a member: what waited for its gather stops waiting (R375). -/
def State.lose (s : State) (c p : Nat) : State :=
  let s := s.setSst c p 5
  s.setCtx c { s.ctx c with props := (s.ctx c).props.filter (fun q => q != p)
                            got := FMap.del (s.ctx c).got p
                            deferred := (s.ctx c).deferred.filter (fun q => q != p) }

/-- The pages of a group that are gathering or proposed on a member. -/
def State.pendingPages (s : State) (c g : Nat) : List Nat :=
  (((s.ctx c).got.map (fun e => e.1)) ++ (s.ctx c).props).dedup.filter (s.inGroup c g)

/-- The ACK bits of ranks that are down are set in the record of a page whose cell is armed (R368, R375). -/
def State.ackDown (s : State) (c g p : Nat) : State :=
  let a := s.recordAt c g p
  if s.word (a + 8) % 8 = 0 ∨ s.word (a + 16) ≠ tagFor p then s
  else (s.setWord (a + 24) (BitVec.ofNat 64 (s.word (a + 24)) ||| (s.ctx c).downMask g).toNat).freeIfAcked c g p

/-- An owner whose staging of a page lacks the slice of a rank that is down discards it, and its own page is LOST, a
descheduled owner's when it runs again (R374, R375). -/
def State.stagingDown (s : State) (c g p : Nat) : State :=
  let have_ : DWord := BitVec.ofNat 64 (s.word (s.recordAt c g p + 40))
  if s.stagingOpen c g p && (s.ctx c).downMask g &&& ~~~have_ != 0 then
    (if (s.ctx c).running then s.lose c p else s.setCtx c { s.ctx c with lost := (s.ctx c).lost.insert p }).endStaging c g p
  else s

/-- A gather on a running member that lacks the units of a rank that is down ends LOST (R375). -/
def State.gatherDown (s : State) (c g p : Nat) : State :=
  if (s.ctx c).running && s.sst c p == 1 && (s.ctx c).downMask g &&& ~~~(FMap.look (s.ctx c).got 0 p) != 0 then s.lose c p
  else s

/-- What follows on a member once DN of rank q of a group is set (R375). A descheduled member's page table is
written when it runs again (R374). -/
def State.peerDown (s : State) (c g q : Nat) : State :=
  let s := if (s.ctx c).running then
      (s.pendingPages c g).foldl (fun s p =>
        if hasBit (FMap.look (s.ctx c).got 0 p) q then s else s.lose c p) s
    else s
  let s := (s.recordPages c g).foldl (fun s p => (s.ackDown c g p).stagingDown c g p) s
  if (s.ctx c).running then
    (((s.ctx c).sacks.map (fun e => e.1)).filter (s.inGroup c g)).foldl (fun s p => s.sackFrom c g p q) s
  else s

/-- The rows of a context's group table that list a package, with the rank (R366). -/
def Ctx.listing (x : Ctx) (pkg : Nat) : List (Nat × Nat) :=
  (List.range 64).flatMap (fun g => ((x.ranks g).filter (fun r => x.member g r % 64 == pkg)).map (fun r => (g, r)))

/-- Set DN of a rank. -/
def Ctx.setDown (x : Ctx) (g r : Nat) : Ctx :=
  { x with group := FMap.put x.group (65 * g + 1 + r) (FMap.look x.group 0 (65 * g + 1 + r) ||| bitMask 63) }

/-- A member sets DN for a package and takes the effects (R375). -/
def State.markDown (s : State) (c pkg : Nat) : State :=
  let rows := (s.ctx c).listing pkg
  let s := s.setCtx c (rows.foldl (fun x e => x.setDown e.1 e.2) (s.ctx c))
  rows.foldl (fun s e => s.peerDown c e.1 e.2) s

/-- A REPLY takes effect on the proposer (R371): a winner starts the gather; a loser that has evicted its copy waits for
FREE. -/
def State.takeReply (s : State) (m : Msg) : State :=
  let c := m.dst
  let x := s.ctx c
  let waits := s.sst c m.page == 0
  let lost := !m.won && m.ackd
  let t := s.setCtx c { x with
    props := x.props.filter (fun q => q != m.page)
    acked := if lost then x.acked.insert m.page else x.acked
    decided := if waits && !lost then x.decided.insert m.page else x.decided }
  if m.won then (x.ranks m.group).foldl (fun t r => t.send 2 c (memberCtx (x.member m.group r)) m.group m.page
    ((s.rankIn c m.group).getD 0) true false []) t
  else t

/-- FREE takes effect on a member: waiters propose again (R370, R371). -/
def State.takeFree (s : State) (m : Msg) : State :=
  let x := s.ctx m.dst
  s.setCtx m.dst { x with acked := x.acked.filter (fun q => q != m.page), decided := x.decided.filter (fun q => q != m.page) }

/-- A notice to a proposer or an evicting member takes effect. -/
def State.takeNotice (s : State) (m : Msg) : State :=
  match m.kind with
  | 1 => s.takeReply m
  | 5 => s.takeFree m
  | _ => s.sackFrom m.dst m.group m.page m.rank

/-- What a context that runs again catches up with before its first instruction (R374, R413): the notices kept for it, in
order, pages lost meanwhile, pages it began to gather, deferred installs, and peers that went down. -/
def State.catchUp (s : State) (c : Nat) : State :=
  let groupOf (s : State) (p : Nat) : Nat := match s.pageLeaf c p with
    | none => 0
    | some l => leafGroup l.word
  let kept := (s.ctx c).kept
  let lost := (s.ctx c).lost
  let s := kept.foldl State.takeNotice (s.setCtx c { s.ctx c with kept := [], lost := [] })
  let s := lost.foldl (fun s p => s.lose c p) s
  let s := ((s.ctx c).got.map (fun e => e.1)).foldl (fun s p => (s.gathering c p).install c (groupOf s p) p) s
  (List.range 64).foldl (fun s g =>
    ((s.ctx c).ranks g).foldl (fun s q => if (s.ctx c).down g q then s.peerDown c g q else s) s) s

/-! ### The fate of an access by its page (R251, R304, R362, R369, R451) -/

/-- What makes an access. -/
inductive Use where
  /-- a class-6 load, not `ld.r` -/
  | ld
  /-- a class-6 store, not `st.r` -/
  | st
  | ldr
  | str
  | prf
  /-- a class-7 operation by its op number -/
  | hop (op : Nat)
  /-- the global side of a bulk copy that reads, or that writes -/
  | src
  | dst
  deriving DecidableEq, Repr

/-- The right that an access needs (R362). -/
def Use.right (u : Use) : Right :=
  match u with
  | .ld => .read
  | .ldr => .read
  | .prf => .read
  | .src => .read
  | .hop op => if op = 0x0C ∨ op = 0x10 ∨ op = 0x12 then .read else .write
  | _ => .write

/-- Whether it is a cell operation (R309). -/
def Use.cell (u : Use) : Bool :=
  match u with
  | .hop op => decide (0x0E ≤ op)
  | _ => false

/-- Whether it is an operation on x96 slots. -/
def Use.x96 (u : Use) : Bool :=
  match u with
  | .hop op => decide (0x0B ≤ op) && decide (op ≤ 0x0D)
  | _ => false

/-- Whether it counts as a load on a shard page (R369). -/
def Use.loads (u : Use) : Bool :=
  match u with
  | .ld => true
  | .ldr => true
  | .src => true
  | .hop op => op == 0x0C
  | _ => false

/-- Whether it may reach a register block: `ld.r` and `st.r` only (R383, R402, R430). -/
def Use.registers (u : Use) : Bool := u == .ldr || u == .str

/-- Whether it may reach the pool window (R70). -/
def Use.window (u : Use) : Bool :=
  match u with
  | .ldr => true
  | .str => true
  | .src => true
  | .dst => true
  | .hop op => decide (op ≤ 0x0A)
  | _ => false

/-- The fate of an access. -/
inductive Fate where
  | go (pa : Nat)
  | trap (code : Nat)
  /-- an uncorrectable error at an address that the walk reads -/
  | bad (pa : Nat)
  /-- held until the page's state changes -/
  | wait
  /-- held, as a first touch -/
  | touch
  deriving DecidableEq, Repr

/-- The fate by the state of a shard page (R369). -/
def shardFate (u : Use) (sst : Nat) (own : Bool) (pa : Nat) : Fate :=
  if sst = 5 then .trap 0x06
  else if u == .prf then (if sst = 0 then .touch else .go pa)
  else if sst = 1 ∨ sst = 4 then .wait
  else if u.loads then (if sst = 0 then (if own then .go pa else .touch) else .go pa)
  else if sst = 0 then (if own then .go pa else .trap 0x05)
  else if sst = 3 ∧ u.x96 then .go pa
  else .trap 0x05

/-- Whether it is a class-7 operation. -/
def Use.home (u : Use) : Bool :=
  match u with
  | .hop _ => true
  | _ => false

/-- Whether it is an access of class 6. -/
def Use.plain (u : Use) : Bool :=
  match u with
  | .ld => true
  | .st => true
  | .ldr => true
  | .str => true
  | .prf => true
  | _ => false

/-- The fate at a register block that is open to an access or not (R304, R383, R402): of the Shawm window and the remap table,
`strict`, trap 0x05 for every access of classes 6 and 7 that it does not serve; else, on another package, an access of
another class than 7 is dropped there (R451). -/
def Use.atRegisters (u : Use) (opened own strict : Bool) (pa : Nat) : Fate :=
  if u.registers && opened then .go pa else if own || u.home || (strict && u.plain) then .trap 0x05 else .go pa

/-- The fate by the place that the frame reaches (R70, R304, R383, R402, R430, R451). A remote package drops what
it does not serve when the request reaches it. -/
def State.placeFate (s : State) (u : Use) (own : Bool) (pa : Nat) : Fate :=
  match s.place pa with
  | .hbm _ => if u.cell then .trap 0x07 else .go pa
  | .pool _ _ => if u.cell then .trap 0x07 else if u.window then .go pa else .trap 0x05
  | .shawm _ _ => u.atRegisters true own true pa
  | .remap _ _ => u.atRegisters true own true pa
  | .mgmt off => u.atRegisters (!(0x800 ≤ off && decide (off < 0x810))) own false pa
  | .nowhere => if u.cell then .trap 0x07 else if own then .trap 0x05 else .go pa

/-- Whether a place takes only `ld.r` and `st.r` of class 6 by name: the pool window, the Shawm window and the remap table
(R70, R383, R402). -/
def Place.strict (p : Place) : Bool :=
  match p with
  | .pool _ _ => true
  | .shawm _ _ => true
  | .remap _ _ => true
  | _ => false

/-- The fate of an access of n bytes at va under a leaf (R251, R304, R369). `ld.g` and `st.g` to a REMOTE page are
served as `ld.r` and `st.r`, but where the place takes only these by name (R70, R383, R402; DEDUCED, log 89). -/
def State.judge (s : State) (c : Nat) (plain : Bool) (u : Use) (va n : Nat) (l : Leaf) : Fate :=
  let pa := l.phys va
  let kind := leafKind l.word
  let u := if kind = 1 ∧ plain = true ∧ (placeOf (localOfPa pa)).strict = false then (match u with | .ld => .ldr | .st => .str | _ => u) else u
  if !l.grants u.right then .trap 0x05
  else if kind = 2 then
    (if u.cell then (match s.place pa with
        | .hbm _ => .go pa
        | .pool _ _ => .trap 0x07
        | _ => .trap 0x05)
      else if u.home then (match s.place pa with
        | .shawm _ _ => .trap 0x05
        | .remap _ _ => .trap 0x05
        | .mgmt _ => .trap 0x05
        | _ => .trap 0x07)
      else .trap 0x05)
  else if kind = 3 then
    (if u.cell then .trap 0x07
    else
      let g := leafGroup l.word
      let own := match s.rankIn c g with
        | none => false
        | some r => ownUnits ((s.ctx c).groupN g) r va n
      match shardFate u (leafSst l.word) own pa with
      | .go pa => s.placeFate u true pa
      | f => f)
  else s.placeFate u (kind == 0) pa

end Sys2Proof.Machine
end

