-- ==== Sys2Proof/Machine/Registers.lean ====
section
/-! DEFINITION. Registers that stand in the memory map: the Shawm window with its interrupt log (R383, R384, R386,
R406 to R409), the remap table (R402) and the management block with the events, snapshots, owner cell, power
domains and training it controls (R430, R437 to R450). A write carries a value and the mask of the bits written. -/

namespace Sys2Proof.Machine

/-! ### Who writes -/

/-- Agents that reach registers: firmware core n of the package is n, the endpoint ep of the fabric is 16 + ep,
and a context is this number. -/
def agentContext : Nat := 2 ^ 20

/-- Whether an agent is a firmware core of the package. -/
def isFwAgent (a : Nat) : Bool := decide (a < 16)

/-- The proposer id that the device gives a fabric master (R442). -/
def masterId (ep : Nat) : Nat := 2 ^ 31 + 2 * 2 ^ 23 + ep % 2 ^ 10 * 2 ^ 13

/-- Whether an agent is the owner: the endpoint whose proposal decided the owner cell (R442). -/
def Pkg.isOwner (p : Pkg) (a : Nat) : Bool :=
  decide (16 ≤ a) && decide (a < agentContext) && p.owner1.toNat % 8 == 3 && p.owner1.toNat / 2 ^ 32 == masterId (a - 16)

/-- Bits of a register replaced where the mask is 1. -/
def merge (old val mask : DWord) : DWord := (old &&& ~~~mask) ||| (val &&& mask)

/-- A field of a register after a write: its old value where the mask leaves it out. -/
def mergeField (old : Nat) (val mask : DWord) (lo n : Nat) : Nat :=
  (merge (BitVec.ofNat 64 (old % 2 ^ n * 2 ^ lo)) val mask).toNat / 2 ^ lo % 2 ^ n

/-! ### Accesses of the Shawm (R386, R396) -/

/-- What an access of the Shawm in a function's context finds. -/
inductive Reach where
  | ok (pa : Nat) (s : State)
  | held (s : State)
  | fault

/-- The chiplet whose slice serves a partition's Shawm. -/
def shawmChiplet (c : Nat) : Nat := pkgOfCtx c * 8 + partOfCtx c % 16 / 2

/-- The Shawm reaches a virtual address of a function's context; only memory answers it. -/
def State.shawmReach (s : State) (c va : Nat) (u : Use) (n : Nat) : Reach :=
  match s.findLeaf c (shawmChiplet c) 0 va with
  | none => .fault
  | some (l, s) =>
    match s.judge c false u va n l with
    | .go pa => match s.place pa with
      | .hbm _ => .ok pa s
      | _ => .fault
    | .trap _ => .fault
    | .bad _ => .fault
    | .wait => .held s
    | .touch => .held (s.firstTouch c (leafGroup l.word) (pageOf va))

/-! ### Interrupt records (R406, R407) -/

/-- What posting a record ends in. -/
inductive Posted where
  | done (s : State)
  /-- the log is full, or its page must be gathered first: the posting packet waits -/
  | later (s : State)
  /-- the write faulted: the record is dropped and counted -/
  | fault (s : State)

/-- Size of a function's log (R383). -/
def Fn.logBytes (f : Fn) : Nat := 4096 * 2 ^ f.lsize

/-- Post a record of a kind with a vector, a queue and a value (R406, R407). -/
def State.postRecord (s : State) (c kind vec q : Nat) (value : DWord) : Posted :=
  let f := s.fn c
  if !f.len then .done s
  else if f.closed then .done (s.setFn c { f with ldrop := (f.ldrop + 1) % 2 ^ 32 })
  else if (f.ltail - f.lhead).toNat = f.logBytes then .later s
  else match s.shawmReach c (f.lbase + f.ltail.toNat % f.logBytes) .st 16 with
    | .held s => .later s
    | .fault => .fault (s.setFn c { f with ldrop := (f.ldrop + 1) % 2 ^ 32 })
    | .ok pa s =>
      let w0 := f.seq % 2 ^ 32 * 2 ^ 32 + vec % 2 ^ 16 * 2 ^ 16 + q % 2 ^ 8 * 2 ^ 8 + kind
      let s := (s.memWrite pa (bytesOfNat 8 w0 ++ bytesOfNat 8 value.toNat)).charge c 1 (Config.hbmUnits s.tick)
      let f := { s.fn c with seq := f.seq + 1, ltail := f.ltail + 16 }
      .done (s.setFn c (if (s.ctx c).running then { f with notes := f.ltail :: f.notes } else { f with heldNote := true }))

/-- QSTAT of a queue (R383). -/
def Queue.qstat (x : Queue) : DWord := BitVec.ofNat 64 (x.code % 2 ^ 8 * 2 ^ 56 + x.eoff % 2 ^ 56)

/-- Queue q of a function. -/
def Fn.queue (f : Fn) (q : Nat) : Queue := FMap.look f.q {} q

/-- The state with a queue stored. -/
def State.setQueue (s : State) (c q : Nat) (x : Queue) : State :=
  s.setFn c { s.fn c with q := FMap.put (s.fn c).q q x }

/-- Post the oldest record that a queue's errors still owe. -/
def State.payRecord (s : State) (c q : Nat) : State :=
  match ((s.fn c).queue q).owes with
  | [] => s
  | w :: r => match s.postRecord c 1 0 q w with
    | .later s => s
    | .done s => s.setQueue c q { (s.fn c).queue q with owes := r }
    | .fault s => s.setQueue c q { (s.fn c).queue q with owes := r }

/-- A queue error (R386): the queue stops, and a record of kind 1 is posted; a PRED that polls runs on to its end. -/
def State.queueError (s : State) (c q code eoff : Nat) : State :=
  let x := (s.fn c).queue q
  if x.err then s
  else
    let y := { x with err := true, code := code, eoff := eoff % 2 ^ 56 }
    (s.setQueue c q { y with owes := x.owes ++ [y.qstat] }).payRecord c q

/-! ### The Shawm window (R383) -/

/-- Queue size in bytes. -/
def Queue.bytes (x : Queue) : Nat := 4096 * 2 ^ x.size

/-- Whether QTAIL is out of range (R384). -/
def Queue.tailOut (x : Queue) : Bool := (x.tail - x.head).msb || decide (x.bytes < (x.tail - x.head).toNat)

/-- A write of QTAIL (R384): out of range stops a running queue with code 6. -/
def State.qtailTo (s : State) (c q : Nat) (v : DWord) : State :=
  let x := { (s.fn c).queue q with tail := v }
  let s := s.setQueue c q x
  if x.en && !x.err && x.tailOut then s.queueError c q 6 x.pos else s

/-- A write of a queue's control word (R383): QBASE only while EN = 0, QSIZE at any time; an invalid one stops a queue that
runs (log 11), and so does one that QTAIL is out of range of (R384). A queue that is enabled anew still has what had begun
before: launches, a PRED that polls, and records that wait for space (R386, R407). -/
def State.queueControl (s : State) (c q : Nat) (val mask : DWord) : State :=
  let x := (s.fn c).queue q
  let x := { x with base := if x.en then x.base else mergeField (x.base / 4096) val mask 12 52 * 4096
                    size := mergeField x.size val mask 8 4 }
  let en := mergeField (if x.en then 1 else 0) val mask 0 1 == 1
  if en && !x.en then
    let s := s.setQueue c q { x with
      en := true, err := false, tail := 0, head := 0, code := 0, eoff := 0, pos := 0, cur0 := 0, levels := []
      skip := 0, fetched := [] }
    if 13 ≤ x.size then s.queueError c q 1 0 else s
  else
    let s := s.setQueue c q { x with en := en }
    if !en then s else if 13 ≤ x.size then s.queueError c q 1 x.pos else if x.tailOut then s.queueError c q 6 x.pos else s

/-- Budgets of a function start with a full balance (R403): a budget written before the context has run. -/
def State.setBudget (s : State) (c k : Nat) (val mask : DWord) : State :=
  let f := s.fn c
  let b := mergeField (FMap.look f.bud 0xFFFFFFFF k) val mask 0 32
  let f := { f with bud := FMap.write f.bud 0xFFFFFFFF k b }
  s.setFn c (if (s.ctx c).active = 0 then { f with bal := FMap.write f.bal 0 k (b : Int) } else f)

/-- Records of a function that still wait for space. -/
def Fn.waiting (f : Fn) : Nat :=
  if f.len then f.q.foldl (fun n e => n + e.2.owes.length + (if e.2.signal.isSome then 1 else 0)) 0 else 0

/-- A reset of function c begins (R409, steps 1 and 2; R436, R440): records that wait are dropped and counted. -/
def State.beginReset (s : State) (c : Nat) : State :=
  let f := s.fn c
  let s := s.setFn c { f with
    closed := true, reset := true, ldrop := (f.ldrop + f.waiting) % 2 ^ 32
    q := f.q.map (fun e => (e.1, { e.2 with
      en := false, polling := none, skip := 0, signal := none, owes := [], levels := [] })) }
  let p := s.pkg (pkgOfCtx c)
  let s := s.setPkg (pkgOfCtx c) { p with fmeas := FMap.del p.fmeas (c % 256) }
  (s.launches.filter (fun e => e.2.ctx == c && !e.2.complete)).foldl (fun s e =>
    let s := s.killLaunch e.1 5 0 0 0
    s.setLaunch e.1 { s.launch e.1 with status := 5 }) s

/-- Whether everything that a function's contexts sourced has landed or been dropped (R409, step 3). -/
def State.resetSettled (s : State) (c : Nat) : Bool :=
  s.launches.all (fun e => e.2.ctx != c || e.2.complete) &&
  s.ops.all (fun o => isFw o.bk || ctxOfBundle o.bk != c) && s.pkts.all (fun p => p.orig != some c)

/-- The start of a context (R453): every byte of its frames is 0, its line tags are V = C = 1 and its tile statuses 0, and
nothing of an earlier context is left in its banks, sets, barriers and armings. Counts of corrected errors stay. -/
def State.startContext (s : State) (c : Nat) : State :=
  let s := s.setCtx c { s.ctx c with active := 0 }
  { s with
    cores := s.cores.map (fun (e : Nat × Core) => if ctxOfCore e.1 = c then (e.1, { errors := e.2.errors }) else e)
    pool := s.pool.filter (fun e => e.1 / 2 ^ 32 != c)
    poison := s.poison.filter (fun e => e % 2 == 1 || e / 2 / 2 ^ 32 != c)
    soft := s.soft.filter (fun e => e % 2 == 1 || 8 * (e / 2) / 2 ^ 32 != c)
    sets := s.sets.filter (fun e => e.1 / 2 ^ 21 != c)
    bars := s.bars.filter (fun e => e.1 / 2 ^ 21 != c)
    arms := s.arms.filter (fun (a : Arming) => ctxOfCore (a.key / 2 ^ 22) != c)
    images := s.images.map (fun x => if x.ctx = c then { x with latest := false } else x) }

/-- The end of a reset (R409, step 4): what runs on the function next is a new context (R453; log 30). -/
def State.endReset (s : State) (c : Nat) : State :=
  (s.startContext c).setFn c { s.fn c with ltail := 0, lhead := 0, ldrop := 0, closed := false, reset := false }

/-- A write to function c's block of the Shawm window (R383); `mon` says that the monitor writes. -/
def State.shawmWrite (s : State) (c off : Nat) (val mask : DWord) (mon : Bool) : State :=
  let f := s.fn c
  let q := off / 0x20
  if off < 0x100 then
    match off % 0x20 with
    | 0x00 => s.queueControl c q val mask
    | 0x08 => s.qtailTo c q (merge (f.queue q).tail val mask)
    | _ => s
  else match off with
    | 0x100 =>
      let l := mergeField f.lsize val mask 8 4
      s.setFn c { f with lbase := mergeField (f.lbase / 4096) val mask 12 52 * 4096
                         lsize := if 9 ≤ l then f.lsize else l
                         len := mergeField (if f.len then 1 else 0) val mask 0 1 == 1 }
    | 0x108 =>
      let s := s.setFn c { f with lhead := merge f.lhead val mask }
      (List.range 8).foldl (fun s q => s.payRecord c q) s
    | 0x118 => s.setFn c { f with lnote := merge f.lnote val mask }
    | 0x180 =>
      if mon then
        let s := s.setFn c { f with pause := mergeField (if f.pause then 1 else 0) val mask 2 1 == 1 }
        if (val &&& mask).getLsbD 1 && !f.reset then s.beginReset c else s
      else s
    | 0x1C0 => if mon then s.setBudget c 0 val mask else s
    | 0x1C8 => if mon then s.setBudget c 1 val mask else s
    | 0x1D0 => if mon then s.setBudget c 2 val mask else s
    | 0x1D8 => if mon then s.setBudget c 3 val mask else s
    | _ => s

/-- A Bool as a bit. -/
def bit (b : Bool) : Nat := if b then 1 else 0

/-- The register that holds a budget with its balance. -/
def Fn.budgetWord (f : Fn) (k : Nat) : DWord :=
  BitVec.ofNat 64 (FMap.look f.bud 0xFFFFFFFF k) ||| (BitVec.ofInt 64 (FMap.look f.bal 0 k) <<< 32)

/-- A read of an 8-byte register of function c's block (R383). -/
def State.shawmRead (s : State) (c off : Nat) : DWord :=
  let f := s.fn c
  let x := f.queue (off / 0x20)
  if off < 0x100 then
    match off % 0x20 with
    | 0x00 => BitVec.ofNat 64 (x.base + x.size * 2 ^ 8 + bit x.err * 2 + bit x.en)
    | 0x08 => x.tail
    | 0x10 => x.head
    | _ => x.qstat
  else match off with
    | 0x100 => BitVec.ofNat 64 (f.lbase + f.lsize * 2 ^ 8 + bit f.closed * 2 + bit f.len)
    | 0x108 => f.lhead
    | 0x110 => f.ltail
    | 0x118 => f.lnote
    | 0x120 => BitVec.ofNat 64 f.ldrop
    | 0x180 => BitVec.ofNat 64 (bit f.pause * 4 + bit f.reset * 2 + bit (s.ctx c).running)
    | 0x1C0 => f.budgetWord 0
    | 0x1C8 => f.budgetWord 1
    | 0x1D0 => f.budgetWord 2
    | 0x1D8 => f.budgetWord 3
    | _ => 0

/-! ### Events of the firmware cores (R437) -/

/-- A core parked in `wfe` goes on when a bit of its mask is set: the bits are returned and cleared in one step. -/
def State.wakeEvent (s : State) (pkg n : Nat) : State :=
  let bk := fwKey pkg n
  let b := s.bundle bk
  match (b.thread 0).cond with
  | .event d mask =>
    let p := s.pkg pkg
    let hit := FMap.look p.evt 0 n &&& mask
    if hit = 0 then s
    else
      let s := s.setPkg pkg { p with evt := FMap.write p.evt 0 n (FMap.look p.evt 0 n &&& ~~~hit) }
      s.setBundle bk ((b.setSreg d hit).mapThreads 1 (fun th => { th with cond := .running })).choose
  | _ => s

/-- Set event bits of a firmware core (R437). -/
def State.setEvt (s : State) (pkg n : Nat) (bits : DWord) : State :=
  let p := s.pkg pkg
  (s.setPkg pkg { p with evt := FMap.write p.evt 0 n (FMap.look p.evt 0 n ||| bits) }).wakeEvent pkg n

/-- Set event bits of all firmware cores of a package. -/
def State.setEvtAll (s : State) (pkg : Nat) (bits : DWord) : State :=
  (List.range 16).foldl (fun s n => s.setEvt pkg n bits) s

/-- A write to DOOR of core n (R437): the bit is the writer's. -/
def State.ringDoor (s : State) (pkg agent n : Nat) : State :=
  s.setEvt pkg n (bitMask (if isFwAgent agent then 16 + agent else 2))

/-! ### Snapshots (R229, R445) -/

/-- A trigger of a package's snapshot: 1 `snap`, 2 fabric message, 3 management write, 4 trip. -/
def State.snapTrigger (s : State) (pkg src : Nat) : State :=
  let p := s.pkg pkg
  if p.snap.getLsbD 1 then s
  else
    let w := s.cycle % 2 ^ 48 * 2 ^ 16 + src * 2 ^ 8 + p.snap.toNat % 8 / 4 * 4 + 2
    (s.setPkg pkg { p with snap := BitVec.ofNat 64 w, snapAt := s.tick, snapRead := 0 }).setEvtAll pkg (bitMask 4)

/-- A write of SNAPCTL (R445). -/
def State.snapWrite (s : State) (pkg : Nat) (val mask : DWord) : State :=
  let p := s.pkg pkg
  let w := putBit p.snap 2 ((merge p.snap val mask).getLsbD 2)
  let w := if (val &&& mask).getLsbD 1 then putBit w 1 false else w
  let s := s.setPkg pkg { p with snap := w }
  if (val &&& mask).getLsbD 0 then s.snapTrigger pkg 3 else s

/-! ### The owner cell (R442 to R444) -/

/-- What an operation on a cell leaves and answers: words 0 and 1, the value and status replied, and whether it
raises trap 0x07 (R309 to R316). -/
structure CellResult where
  w0 : DWord
  w1 : DWord
  value : DWord := 0
  status : Nat := 0
  bad : Bool := false
  deriving DecidableEq, Repr

/-- STATE of a cell. -/
def cellState (w1 : DWord) : Nat := w1.toNat % 8

/-- COUNT of a cell. -/
def cellCount (w1 : DWord) : Nat := w1.toNat / 2 ^ 3 % 2 ^ 29

/-- ID of a cell. -/
def cellId (w1 : DWord) : Nat := w1.toNat / 2 ^ 32

/-- Word 1 from its fields. -/
def cellWord (id count st : Nat) : DWord := BitVec.ofNat 64 (id * 2 ^ 32 + count * 2 ^ 3 + st)

/-- `cell.arm` (R311). -/
def cellArm (w0 w1 arm : DWord) : CellResult :=
  let st := cellState arm
  if cellState w1 ≠ 0 then { w0 := w0, w1 := w1, bad := true }
  else if st = 1 then { w0 := 0, w1 := cellWord 0 0 1 }
  else if st = 2 ∧ cellCount arm ≠ 0 then { w0 := 0, w1 := cellWord 0 (cellCount arm) 2 }
  else if st = 5 then { w0 := 0, w1 := cellWord (cellId arm) 0 5 }
  else { w0 := w0, w1 := w1, bad := true }

/-- A proposal that wins (R312). -/
def cellWins (v : DWord) (pid count : Nat) : CellResult :=
  let left := count - 1
  let st := if 0 < count ∧ left = 0 then 4 else 3
  { w0 := v, w1 := cellWord pid left st, value := v, status := left * 8 }

/-- `cell.prop` (R312, R313): the codes are 0 WON, 1 LOST, 2 EXCESS, 3 NOTARMED. -/
def cellProp (w0 w1 v : DWord) (pid : Nat) : CellResult :=
  let n := cellCount w1
  match cellState w1 with
  | 0 => { w0 := w0, w1 := w1, status := n * 8 + 3 }
  | 1 => cellWins v pid 0
  | 2 => cellWins v pid n
  | 3 =>
    if n = 0 then { w0 := w0, w1 := w1, value := w0, status := 1 }
    else
      { w0 := w0, w1 := cellWord (cellId w1) (n - 1) (if n = 1 then 4 else 3), value := w0, status := (n - 1) * 8 + 1 }
  | 4 => { w0 := w0, w1 := w1, value := w0, status := n * 8 + 2 }
  | 5 => if cellId w1 = pid then cellWins v pid 0 else { w0 := w0, w1 := w1, status := n * 8 + 3 }
  | _ => { w0 := w0, w1 := w1, bad := true }

/-- `cell.reset` (R312, R316). -/
def cellReset (w0 w1 : DWord) (force : Bool) : CellResult :=
  match cellState w1 with
  | 0 => { w0 := w0, w1 := w1 }
  | 4 => { w0 := 0, w1 := 0 }
  | 6 => { w0 := w0, w1 := w1, bad := true }
  | 7 => { w0 := w0, w1 := w1, bad := true }
  | _ => if force then { w0 := 0, w1 := 0 } else { w0 := w0, w1 := w1, bad := true }

/-- A fabric master's proposal to the owner cell (R442). -/
def State.ownerProp (s : State) (pkg ep : Nat) (v : DWord) : State × CellResult :=
  let p := s.pkg pkg
  let r := cellProp p.owner0 p.owner1 v (masterId ep)
  (s.setPkg pkg { p with owner0 := r.w0, owner1 := r.w1 }, r)

/-- A command of OCTL is performed at the cell's home (R444), and ERR is written. -/
def State.octl (s : State) (pkg cmd : Nat) : State :=
  let p := s.pkg pkg
  if cmd = 1 then
    let r := cellArm p.owner0 p.owner1 p.armw
    s.setPkg pkg { p with owner0 := r.w0, owner1 := r.w1, octlErr := r.bad, octlBusy := false, octlCmd := 0 }
  else if cmd = 2 then
    let r := cellReset p.owner0 p.owner1 true
    s.setPkg pkg { p with owner0 := r.w0, owner1 := r.w1, octlErr := r.bad, octlBusy := false, octlCmd := 0 }
  else s

/-- A write of OCTL (R444): a command is on its way to the cell's home, and BUSY stands until it is performed. -/
def State.octlWrite (s : State) (pkg cmd : Nat) : State :=
  let p := s.pkg pkg
  if p.octlBusy then s.setPkg pkg { p with deny := p.deny + 1 }
  else if cmd = 1 ∨ cmd = 2 then s.setPkg pkg { p with octlBusy := true, octlCmd := cmd, octlAt := s.nextId }
  else s

/-! ### Attestation (R441) -/

/-- A report: its 984 bytes stand at 0x5100 once GO reads 0 again. -/
def State.attest (s : State) (pkg : Nat) (go : DWord) : State :=
  let p := s.pkg pkg
  if go.getLsbD 0 then
    let nonce := FMap.lookFrom p.mbox 0 0 48
    let bytes48 (m : FMap (BitVec 384)) (k : Nat) : List Byte :=
      (List.range 48).map (fun i => ((FMap.look m 0 k) >>> (8 * i)).truncate 8)
    let meas := (List.range 16).flatMap (bytes48 p.meas)
    let fm := if go.getLsbD 8 then bytes48 p.fmeas (go.toNat / 2 ^ 16 % 256) else List.replicate 48 0
    let body := nonce ++ meas ++ bytesOfNat 8 go.toNat ++ fm ++ (List.range 16).map (fun i => Config.deviceIdentity (16 * pkg + i))
    let sig := (List.range 96).map (Config.attestSignature body)
    s.setPkg pkg { p with goWord := putBit go 0 false
                          mbox := FMap.writeFrom p.mbox 0 0x100 (body ++ sig) }
  else s.setPkg pkg { p with goWord := go }

/-! ### Power domains (R447) -/

/-- State of a domain: 0 off, 1 retention, 2 on, 3 changing. -/
def Pkg.domain (p : Pkg) (d : Nat) : Power := FMap.look p.pd {} d

/-- The base die that a domain depends on, and the domains that depend on a base die (R447). -/
def baseOf (d : Nat) : Option Nat :=
  if 8 ≤ d ∧ d < 24 then some ((d - 8) / 2) else if 24 ≤ d ∧ d < 40 then some ((d - 24) / 2) else none

/-- The compute dies and stacks of a base die. -/
def leavesOf (b : Nat) : List Nat := [8 + 2 * b, 9 + 2 * b, 24 + 2 * b, 25 + 2 * b]

/-- The state that a domain has, or moves to. -/
def Power.level (x : Power) : Nat := if x.state = 3 then x.goal else x.state

/-- Whether a request keeps the order (R447): a base die is on before its dies and stacks are raised, and lowered
only after they are off. -/
def Pkg.orderOk (p : Pkg) (d req : Nat) : Bool :=
  match baseOf d with
  | some b => decide (req ≤ (p.domain d).level) || (p.domain b).state == 2
  | none => 8 ≤ d || decide ((p.domain d).level ≤ req) || (leavesOf d).all (fun l => (p.domain l).state == 0)

/-- A request for a domain (R447): one that breaks the order is ignored and sets ERR; another makes the domain
change, and it reaches its state after SETTLE. -/
def State.powerRequest (s : State) (pkg d req : Nat) : State :=
  let p := s.pkg pkg
  let x := p.domain d
  let put (y : Power) : State := s.setPkg pkg { p with pd := FMap.put p.pd d y }
  if req = 3 ∨ p.orderOk d req = false then put { x with err := true }
  else if x.state = req then put { x with req := req, goal := req }
  else put { x with req := req, goal := req, state := 3, since := s.cycle }

/-- A write of PDCTL (R447). -/
def State.pdWrite (s : State) (pkg d : Nat) (val mask : DWord) : State :=
  let p := s.pkg pkg
  let x := p.domain d
  let x := { x with settle := mergeField x.settle val mask 32 32
                    err := x.err && !(val &&& mask).getLsbD 2 }
  let s := s.setPkg pkg { p with pd := FMap.put p.pd d x }
  if mask.toNat % 4 = 0 then s else s.powerRequest pkg d (mergeField x.req val mask 0 2)

/-- PDCTL as it reads. -/
def Power.reads (x : Power) : DWord :=
  BitVec.ofNat 64 (x.settle % 2 ^ 32 * 2 ^ 32 + x.state * 2 ^ 8 + bit x.err * 4 + x.req)

/-! ### Training (R448 to R450) -/

/-- A training phase of a stack starts (R449). -/
def State.mtPhase (s : State) (pkg st ph : Nat) : State :=
  let p := s.pkg pkg
  let x := FMap.look p.hbm {} st
  if 1 ≤ ph ∧ ph ≤ 8 then
    s.setPkg pkg { p with hbm := FMap.put p.hbm st { x with
      phase := ph, done := false, fail := false, repaired := x.repaired || ph == 6 } }
  else s

/-- A link's numbering of flits and counts begins with the values of LTSEQ, laid out as in a flit's header (log 32). -/
def Link.startFlits (x : Link) (start : DWord) : Link :=
  let f := start.toNat / 2 ^ 47 % 2 ^ 10
  let c := start.toNat / 2 ^ 18 % 2 ^ 16
  { x with seqNext := f, seqWant := f, lastGood := (f + 1023) % 1024, rsnd := false, resendFrom := none, retry := []
           sent := [], credit := [], freed := (List.range 8).map (fun v => (v, c)) }

/-- A training phase of a link starts (R450); flits are first sent in the phase of flit lock. -/
def State.ltPhase (s : State) (pkg l ph : Nat) : State :=
  let p := s.pkg pkg
  let x := FMap.look p.links {} l
  let x := if ph = 3 then x.startFlits (FMap.look p.ltseq 0 l) else x
  if 1 ≤ ph ∧ ph ≤ 5 ∧ x.out = false then
    s.setPkg pkg { p with links := FMap.put p.links l { x with phase := ph, done := false, fail := false } }
  else s

/-! ### The management block (R430) -/

/-- A firmware core that is halted starts where it stands (R430, R438). -/
def State.fwStart (s : State) (pkg n : Nat) : State :=
  let p := s.pkg pkg
  let old := FMap.look p.fwstat 0 n
  if old / 2 % 2 = 1 then
    let s := s.setPkg pkg { p with fwstat := FMap.write p.fwstat 0 n (old / 4 % 2 * 4 + 1) }
    let b := s.bundle (fwKey pkg n)
    s.setBundle (fwKey pkg n) (b.mapThreads 1 (fun th => { th with cond := .running })).choose
  else s

/-- A refused write is counted (R430). -/
def State.deny (s : State) (pkg : Nat) : State := s.setPkg pkg { s.pkg pkg with deny := (s.pkg pkg).deny + 1 }

/-- A byte mask and value as bytes written at an offset. -/
def writeMasked (m : FMap Byte) (off : Nat) (val mask : DWord) : FMap Byte :=
  (List.range 8).foldl (fun m i =>
    if hasBit mask (8 * i) then FMap.write m 0 (off + i) ((val >>> (8 * i)).truncate 8) else m) m

/-- Whether a write of the management block is one that any agent may make (R430): a DOOR register, or the mailbox, whose nonce
and GO word a requester writes (R441). -/
def openWrite (off : Nat) : Bool :=
  (0x600 ≤ off && decide (off < 0x680)) || (0x5000 ≤ off && decide (off < 0x5038))

/-- Whether the table limits a register to the owner, or to the firmware cores (R430): 1 and 2. -/
def limitedTo (off : Nat) : Nat :=
  if off = 0x810 then 1
  else if 0xC0 ≤ off ∧ off < 0x140 ∨ off = 0x818 ∨ off = 0x820 ∨ 0x3000 ≤ off ∧ off < 0x5000 then 2 else 0

/-- An effect of a write that is not refused. -/
def State.mgmtEffect (s : State) (pkg agent off : Nat) (val mask : DWord) : State :=
  let p := s.pkg pkg
  let n (base : Nat) : Nat := (off - base) / 8
  if 0x40 ≤ off ∧ off < 0xC0 then
    let f := mergeField (FMap.look p.fwstat 0 (n 0x40) / 4 % 2) val mask 2 1
    let old := FMap.look p.fwstat 0 (n 0x40)
    let s := s.setPkg pkg { p with fwstat := FMap.write p.fwstat 0 (n 0x40) (old % 4 + 4 * f) }
    if (val &&& mask).getLsbD 0 then s.fwStart pkg (n 0x40) else s
  else if 0xC0 ≤ off ∧ off < 0x140 then
    let w : Word := (merge ((FMap.look p.fwvec 0xFFFFFFFF (n 0xC0)).zeroExtend 64) val mask).truncate 32
    s.setPkg pkg { p with fwvec := FMap.write p.fwvec 0xFFFFFFFF (n 0xC0) w }
  else if 0x140 ≤ off ∧ off < 0x1C0 then
    s.setPkg pkg { p with evt := FMap.write p.evt 0 (n 0x140) (FMap.look p.evt 0 (n 0x140) &&& ~~~(val &&& mask)) }
  else if 0x600 ≤ off ∧ off < 0x680 then s.ringDoor pkg agent (n 0x600)
  else if off = 0x810 then s.setPkg pkg { p with hando := merge p.hando val mask }
  else if off = 0x818 then s.octlWrite pkg ((val &&& mask).toNat % 4)
  else if off = 0x820 then s.setPkg pkg { p with armw := merge p.armw val mask }
  else if off = 0x1000 then s.snapWrite pkg val mask
  else if 0x2000 ≤ off ∧ off < 0x2180 then s.pdWrite pkg (n 0x2000) val mask
  else if 0x3000 ≤ off ∧ off < 0x4000 then
    (let st := (off - 0x3000) / 0x100
     if off % 0x100 = 0 then s.mtPhase pkg st (mergeField 0 val mask 0 4)
     else if 0x10 ≤ off % 0x100 then s.setPkg pkg { p with mtset := FMap.write p.mtset 0 off (merge (FMap.look p.mtset 0 off) val mask) }
     else s)
  else if 0x4000 ≤ off ∧ off < 0x5000 then
    (let l := (off - 0x4000) / 0x40
     if off % 0x40 = 0 then s.ltPhase pkg l (mergeField 0 val mask 0 3)
     else if off % 0x40 = 0x10 then s.setPkg pkg { p with ltseq := FMap.write p.ltseq 0 l (merge (FMap.look p.ltseq 0 l) val mask) }
     else s)
  else if off = 0x5030 then s.attest pkg (merge p.goWord val mask)
  else if 0x5000 ≤ off ∧ off < 0x54D8 then s.setPkg pkg { p with mbox := writeMasked p.mbox (off - 0x5000) val mask }
  else s

/-- A write of the management block (R430, R444): an agent that may not write is refused and counted. -/
def State.mgmtWrite (s : State) (pkg agent off : Nat) (val mask : DWord) : State :=
  let owner := (s.pkg pkg).isOwner agent
  if openWrite off then s.mgmtEffect pkg agent off val mask
  else if !isFwAgent agent && !owner then s.deny pkg
  else if limitedTo off = 1 ∧ owner = false ∨ limitedTo off = 2 ∧ isFwAgent agent = false then s.deny pkg
  else s.mgmtEffect pkg agent off val mask

/-- A 48-byte register's 8 bytes at an offset. -/
def measWord (m : FMap (BitVec 384)) (off : Nat) : DWord :=
  ((FMap.look m 0 (off / 0x30)) >>> (8 * (off % 0x30))).truncate 64

/-- A read of an 8-byte register of the management block (R430). -/
def State.mgmtRead (s : State) (pkg off : Nat) : DWord :=
  let p := s.pkg pkg
  let n (base : Nat) : Nat := (off - base) / 8
  if off = 0 then p.lease
  else if off = 8 then BitVec.ofNat 64 s.cycle
  else if 0x40 ≤ off ∧ off < 0xC0 then BitVec.ofNat 64 (FMap.look p.fwstat 0 (n 0x40))
  else if 0xC0 ≤ off ∧ off < 0x140 then (FMap.look p.fwvec 0xFFFFFFFF (n 0xC0)).zeroExtend 64
  else if 0x140 ≤ off ∧ off < 0x1C0 then FMap.look p.evt 0 (n 0x140)
  else if off = 0x1C0 then p.deny
  else if 0x200 ≤ off ∧ off < 0x500 then measWord p.meas (off - 0x200)
  else if off = 0x800 then p.owner0
  else if off = 0x808 then p.owner1
  else if off = 0x810 then p.hando
  else if off = 0x818 then BitVec.ofNat 64 (bit p.octlErr * 2 ^ 9 + bit p.octlBusy * 2 ^ 8)
  else if off = 0x820 then p.armw
  else if off = 0x1000 then p.snap
  else if 0x2000 ≤ off ∧ off < 0x2180 then (p.domain (n 0x2000)).reads
  else if 0x3000 ≤ off ∧ off < 0x4000 then
    (let x := FMap.look p.hbm {} ((off - 0x3000) / 0x100)
     match off % 0x100 with
     | 0 => BitVec.ofNat 64 x.phase
     | 8 => BitVec.ofNat 64 (x.lane % 256 * 256 + bit x.fail * 2 + bit x.done)
     | _ => FMap.look p.mtset 0 off)
  else if 0x4000 ≤ off ∧ off < 0x5000 then
    (let l := (off - 0x4000) / 0x40
     let x := FMap.look p.links {} l
     match off % 0x40 with
     | 0 => BitVec.ofNat 64 x.phase
     | 8 => BitVec.ofNat 64 (bit x.fail * 2 + bit x.done)
     | 0x10 => FMap.look p.ltseq 0 l
     | _ => 0)
  else if off = 0x5030 then p.goWord
  else if 0x5000 ≤ off ∧ off < 0x54D8 then
    BitVec.ofNat 64 (natOfBytes (FMap.lookFrom p.mbox 0 (off - 0x5000) 8))
  else if 0x5800 ≤ off ∧ off < 0x5861 then
    BitVec.ofNat 64 (natOfBytes ((List.range 8).map (fun i => if off + i < 0x5861 then Config.attestKey (off + i - 0x5800) else 0)))
  else if 0x6000 ≤ off ∧ off < 0x9000 then measWord p.fmeas (off - 0x6000)
  else 0

/-! ### The remap table (R402) -/

/-- A read of 8 bytes of a partition's remap table. -/
def State.remapRead (s : State) (p off : Nat) : DWord :=
  (List.range 4).foldl (fun w i =>
    if off / 2 + i < 768 then w ||| ((FMap.look (s.part p).remap 0 (off / 2 + i)).zeroExtend 64 <<< (16 * i)) else w) 0

/-- A write of a remap table: only a firmware core's has an effect, and bits [5:1] of an entry read 0. -/
def State.remapWrite (s : State) (p off : Nat) (val mask : DWord) (fw : Bool) : State :=
  if fw then
    let w := merge (s.remapRead p off) val mask
    s.setPart p { s.part p with remap := (List.range 4).foldl (fun m i =>
      if off / 2 + i < 768 then FMap.write m 0 (off / 2 + i) ((w >>> (16 * i)).truncate 16 &&& 0xFFC1) else m) (s.part p).remap }
  else s

/-! ### Any register by its place -/

/-- The function of a Shawm window offset: its context. -/
def fnOfWindow (pkg p off : Nat) : Nat := (pkg * 16 + p) * 16 + off / 0x1000

/-- The mask of n bytes at a byte of an 8-byte register. -/
def byteMask (at_ n : Nat) : DWord := BitVec.ofNat 64 ((2 ^ (8 * n) - 1) * 2 ^ (8 * at_))

/-- Read n bytes of a register at its place; memory and the pool window are not read here. -/
def State.registerRead (s : State) (pkg : Nat) (pl : Place) (n : Nat) : List Byte :=
  let take (off : Nat) (w : DWord) : List Byte := bytesOfNat n ((w >>> (8 * (off % 8))).toNat)
  match pl with
  | .shawm p off => take off (s.shawmRead (fnOfWindow pkg p off) (off % 0x1000 / 8 * 8))
  | .remap p off => take off (s.remapRead (pkg * 16 + p) (off / 8 * 8))
  | .mgmt off => take off (s.mgmtRead pkg (off / 8 * 8))
  | _ => []

/-- Write bytes to a register at its place. -/
def State.registerWrite (s : State) (pkg agent : Nat) (pl : Place) (l : List Byte) : State :=
  let val (off : Nat) : DWord := BitVec.ofNat 64 (natOfBytes l * 2 ^ (8 * (off % 8)))
  let mask (off : Nat) : DWord := byteMask (off % 8) l.length
  match pl with
  | .shawm p off =>
    s.shawmWrite (fnOfWindow pkg p off) (off % 0x1000 / 8 * 8) (val off) (mask off) (isFwAgent agent)
  | .remap p off => s.remapWrite (pkg * 16 + p) (off / 8 * 8) (val off) (mask off) (isFwAgent agent)
  | .mgmt off => s.mgmtWrite pkg agent (off / 8 * 8) (val off) (mask off)
  | _ => s

end Sys2Proof.Machine
end

