-- ==== Sys2Proof/Machine/Access.lean ====
section
/-! DEFINITION. Accesses of classes 5 to 7 on their way: what an older access holds back (R235, R241, R252, R302,
R319, R322), translation and the fate of a request (R250, R251, R304, R364, R429, R451), where it is performed
(R70), and the read-modify-write operations of the home agents (R306 to R317). -/

namespace Sys2Proof.Machine

/-! ### Requests of operations -/

/-- Whether an operation's requests are accesses of threads to the scratchpad or memory: classes 5 to 7, and the counter
writes `ctr.set` and `ctr.add` (R40). -/
def Op.isData (o : Op) : Bool := o.cls == 5 || o.cls == 6 || o.cls == 7 || (o.cls == 11 && (o.opn == 4 || o.opn == 5))

/-- The request of an operation with a number. -/
def Op.req? (o : Op) (uid : Nat) : Option Req := o.reqs.find? (fun r => r.uid == uid)

/-- The operation with a request replaced. -/
def Op.putReq (o : Op) (r : Req) : Op := { o with reqs := o.reqs.map (fun q => if q.uid == r.uid then r else q) }

/-- The operation without a request. -/
def Op.dropReq (o : Op) (uid : Nat) : Op := { o with reqs := o.reqs.filter (fun q => q.uid != uid) }

/-- The banks that a scratchpad access touches (R233). -/
def banksOf (x n : Nat) : List Nat :=
  if n = 0 then [] else if 256 ≤ n then List.range 32
  else ((List.range ((x + n - 1) / 8 + 1 - x / 8)).map (fun i => (x / 8 + i) % 32)).dedup

/-- Whether a request converts a tile, which takes whole lines. -/
def Req.converts (r : Req) : Bool :=
  match r.act with
  | .plane .. => true
  | _ => false

/-- The banks that a request takes. -/
def Req.banks (r : Req) : List Nat := if r.converts then List.range 32 else banksOf r.addr r.n

/-- Whether two scratchpad requests share a bank. -/
def Req.sharesBank (r q : Req) : Bool := r.banks.any q.banks.contains

/-- The threads that a request acts for, and that its fault affects (R220): its own, or those that were active. -/
def Op.affected (o : Op) (r : Req) : DWord := if r.t < 64 then bitMask r.t else o.ex

/-- Whether two requests act for a common thread. -/
def Op.meets (p : Op) (q : Req) (o : Op) (r : Req) : Bool := p.affected q &&& o.affected r != 0

/-- The physical address of a scratchpad byte of a core in its package's pool window (R70). -/
def windowPa (ck x : Nat) : Nat := globalPa (pkgOfCtx (ctxOfCore ck)) (0x3C0000000000 + denseOfCore ck * 2 ^ 22 + x)

/-- Whether a request of classes 6, 7 and 11 stands behind its translation. -/
def Req.translated (q : Req) : Bool := q.stage == .home || q.stage == .fabric

/-- Whether an access has been translated by a page and is not performed. -/
def Op.throughPage (o : Op) (q : Req) : Bool :=
  q.translated && (o.cls == 6 || o.cls == 7 || (o.cls == 11 && (match q.act with
    | .bulk .. => true
    | .push _ => true
    | _ => false)))

/-- The physical addresses that a request has, or may have while it is not translated. -/
def State.mayReach (s : State) (o : Op) (q : Req) : List Nat :=
  if o.cls == 5 || o.cls == 11 then [windowPa (coreOfBundle o.bk) q.addr]
  else if q.translated then [q.pa]
  else if isFw o.bk then [q.addr]
  else
    let c := ctxOfBundle o.bk
    ((s.cached c (s.sliceOf o.bk) (microOf o.bk) q.addr).map (fun e => leafFrame e.leaf + q.addr % 2 ^ pageBits e.level)) ++
      ((s.walk c q.addr).map (fun l => l.phys q.addr)).toList

/-- Whether two accesses may reach one block of k bytes. -/
def State.sameBlock (s : State) (k : Nat) (p : Op) (q : Req) (o : Op) (r : Req) : Bool :=
  q.addr / k == r.addr / k || (s.mayReach p q).any (fun a => (s.mayReach o r).any (fun b => a / k == b / k))

/-- The ranges of physical addresses that an access touches or may touch: address and size. A conversion reads its source's
extent and writes its destination's (R247). -/
def State.spans (s : State) (o : Op) (q : Req) : List (Nat × Nat) :=
  match q.act with
  | .plane _ vs vd sb db =>
    [(windowPa (coreOfBundle o.bk) sb, (tidOf vs).extent), (windowPa (coreOfBundle o.bk) db, (tidOf vd).extent)]
  | _ => (s.mayReach o q).map (fun a => (a, q.n))

/-- Whether two accesses may touch a common byte. -/
def State.overlaps (s : State) (p : Op) (q : Req) (o : Op) (r : Req) : Bool :=
  (s.spans p q).any (fun a => (s.spans o r).any (fun b => decide (a.1 < b.1 + b.2) && decide (b.1 < a.1 + a.2)))

/-- Whether two accesses of one thread are kept in program order for the location they may share (R43): two of classes 6
and 7 in one 64-byte segment (R319, R322), and one of them with a scratchpad access that reaches the same bytes by another
path (R70). Two of class 5 are kept in order by their banks (R235). -/
def State.samePlace (s : State) (p : Op) (q : Req) (o : Op) (r : Req) : Bool :=
  if p.cls == 5 && o.cls == 5 then false
  else if p.cls == 5 || o.cls == 5 || p.cls == 11 || o.cls == 11 then s.overlaps p q o r
  else s.sameBlock 64 p q o r

/-- Whether a request is a `tag.wc` that waits for its line: it is no access (R240). -/
def Req.isWc (q : Req) : Bool :=
  match q.act with
  | .tag 2 _ => true
  | _ => false

/-- Whether a request is a `tag.set` or `tag.clr`, which stands for its whole bundle (R241). -/
def Req.isTag (q : Req) : Bool :=
  match q.act with
  | .tag k _ => k != 2
  | _ => false

/-- Whether a request writes bytes. -/
def Req.writes (r : Req) : Bool :=
  match r.act with
  | .st _ => true
  | .home op .. => op != 0x0C && op != 0x10 && op != 0x12
  | .zero => true
  | .plane .. => true
  | .ctr kind .. => decide (kind ≤ 1)
  | _ => false

/-- Whether a request gives its thread, or writes where the thread sent it, a value that it reads: reductions and the cell
operations without a reply give none (R306, R318). -/
def Req.reads (r : Req) : Bool :=
  match r.act with
  | .ld .. => true
  | .home op .. => decide (op ≤ 7) || op == 0x0C || op == 0x0F || op == 0x10
  | .plane .. => true
  | _ => false

/-- Whether a request of class 6 accesses a management block (R429, R430). -/
def Op.onBlock (o : Op) (r : Req) : Bool :=
  let at_ (a : Nat) : Bool := decide (a < 2 ^ 52) && (match placeOf (localOfPa a) with | .mgmt _ => true | _ => false)
  o.cls == 6 && (if isFw o.bk then at_ r.addr else r.translated && at_ r.pa)

/-- Whether a request is a strong read (R40); accesses to the management block are strong at .sy (R429). -/
def Op.strongRead (o : Op) (r : Req) : Bool :=
  r.reads && (o.cls == 7 || (o.cls == 6 && o.opn == 7) || o.onBlock r)

/-- Whether a request is a strong write (R40, R429). -/
def Op.strongWrite (o : Op) (r : Req) : Bool :=
  r.writes && (o.cls == 7 || o.cls == 11 || (o.cls == 6 && o.opn == 8) || o.onBlock r)

/-- Whether a store reaches a queue's QTAIL, which makes it a release at .sy (R384). -/
def State.toQtail (s : State) (o : Op) (r : Req) : Bool :=
  o.cls == 6 && o.opn == 6 && (match s.place r.pa with
    | .shawm _ off => decide (off % 0x1000 < 0x100) && off % 0x20 / 8 == 1
    | _ => false)

/-- Whether a strong write of a thread that has issued a release or fence before it stands behind an older access: what
program order puts between the two happens before the write (R45, case 1; log 98), but for relaxed operations of class 7,
which stay unordered among themselves (R319). -/
def Op.sealed_ (o : Op) (r : Req) (p : Op) (q : Req) : Bool :=
  o.strongWrite r && p.isData && !(o.cls == 7 && p.cls == 7) && p.affected q &&& o.affected r &&& o.rel != 0

/-- Whether an access stands behind an older strong read of its thread: an acquire that may follow makes the read an acquire
of all that comes after it (R45, case 1; DEDUCED, log 98). -/
def Op.guarded (o : Op) (p : Op) (q : Req) : Bool :=
  p.strongRead q && (o.acquires || o.cls == 5 || o.cls == 6)

/-- Whether a request of one operation waits for an older one of another, when a thread issued both, or, of a tag
instruction, its bundle did (R241): across an acquire or a release (R45, R46, R252), a release before a strong write and
a strong read before an acquire with what stands between (R45), a read before a write (R44), and accesses of one location
(R43), but where what already travels stays in front (R322). -/
def State.waitsFor (s : State) (o : Op) (r : Req) (p : Op) (q : Req) (sending : Bool) : Bool :=
  (p.meets q o r || (r.isTag && p.isData)) &&
    ((p.acquires && p.cls != 5) || o.releases || s.toQtail o r || o.guarded p q ||
      (o.strongWrite r && p.releases) || o.sealed_ r p q ||
      (p.isData && (if s.samePlace p q o r then !(sending && q.stage == .fabric) else r.writes && q.reads)))

/-- Whether a request must wait for an older one of its bundle. `sending` says that it is put on its path. Requests of one
instruction to one 16-byte unit are performed in ascending bundle index (R302). -/
def State.blocked (s : State) (o : Op) (r : Req) (sending : Bool) : Bool :=
  s.ops.any (fun p => p.ser == o.ser && decide (p.id ≤ o.id) && (p.isData || p.cls == 8 || (p.cls == 12 && p.opn == 0x10)) &&
    (p.reqs.any (fun q => (!q.isWc || r.isTag) &&
      (if p.id = o.id then
        o.cls != 5 && decide (q.uid < r.uid) && !(sending && q.stage == .fabric) && s.sameBlock 16 p q o r
      else s.waitsFor o r p q sending)) ||
    (p.id != o.id && p.acquires && p.cls != 5 && p.ws.any (fun w => p.meets { uid := 0, t := w.t, stage := .wait, act := .prf } o r))))

/-- Whether a bundle's threads of a mask have made a request of a kind, up to an operation's number, that is not
performed. -/
def State.pendingBefore (s : State) (ser id : Nat) (ex : DWord) (kind : Req → Bool) : Bool :=
  s.ops.any (fun p => p.ser == ser && decide (p.id < id) && p.isData &&
    p.reqs.any (fun q => !q.isWc && kind q && p.affected q &&& ex != 0))

/-- Whether writes of threads of a bundle are not performed (R215). -/
def State.writesBefore (s : State) (ser id : Nat) (ex : DWord) : Bool := s.pendingBefore ser id ex Req.writes

/-- Whether accesses of threads of a bundle are not performed: what a release waits for (R46, R47). -/
def State.unperformed (s : State) (ser id : Nat) (ex : DWord) : Bool := s.pendingBefore ser id ex (fun _ => true)

/-- Whether a strong read of an acquire's threads before it is not performed (R45, case 1). -/
def State.strongBefore (s : State) (o : Op) (ex : DWord) : Bool :=
  s.ops.any (fun p => p.ser == o.ser && decide (p.id < o.id) && p.reqs.any (fun q => p.strongRead q && p.affected q &&& ex != 0))

/-- A request is performed: it leaves its operation with the results that still have to land. -/
def State.endReq (s : State) (id uid : Nat) (ws : List WB) : State :=
  match s.op? id with
  | none => s
  | some o =>
    let slot := ((o.req? uid).map (fun r => r.slot)).getD 0
    (s.putOp { o.dropReq uid with ws := o.ws ++ ws.map (fun w => { w with slot := slot }) }).completeOp id

/-- The engine that reports a code (R224; log 21). -/
def engineOf (code : Nat) : Nat :=
  match code with
  | 0x04 => 6
  | 0x05 => 6
  | 0x06 => 6
  | 0x07 => 4
  | 0x0B => 5
  | 0x0E => 5
  | _ => 4

/-- Whether an operation is a save or load of the portable save area: its accesses are plain ones of class 6, and
its own op number stands from 0x1A on (R416, R418). -/
def Op.records (o : Op) : Bool := o.cls == 6 && decide (0x1A ≤ o.opn)

/-- The destination address of a packet of a copy or push: what an error of it names (R335). -/
def Req.dest (r : Req) : Nat :=
  match r.act with
  | .bulk kind sp _ => if kind = 0 then r.addr else sp
  | _ => r.addr

/-- Whether two requests are parts of one packet of a copy, whose source lies on two pages (R326, R331). -/
def Req.samePacket (r q : Req) : Bool := q.uid == r.uid || (r.seq != 0 && q.seq == r.seq)

/-- Whether a push made a request. -/
def Req.isPush (r : Req) : Bool :=
  match r.act with
  | .push _ => true
  | _ => false

/-- A packet of a copy, or the refusal of a push, is an error (R334, R335, R355): the transfer engine holds it; of a copy,
what is not sent is not sent. -/
def State.copyFails (s : State) (o : Op) (r : Req) (code : Nat) (detail : Nat) : State :=
  let flag := match o.flag with
    | none => o.counted
    | f => f
  let e : Report := { id := s.nextId, bk := o.bk, ser := o.ser, code := code, eng := 5, upc := o.upc,
                      threads := o.ex, detail := BitVec.ofNat 64 detail, flag := flag, opId := o.id }
  let s := { s with nextId := s.nextId + 1, xerrs := s.xerrs ++ [e] }
  let o := { o with reqs := o.reqs.filter (fun (q : Req) => !(r.samePacket q) && (r.isPush || q.stage == Stage.fabric))
                    failed := o.failed || !r.isPush }
  ((s.putOp o).earlyFall o.id).completeOp o.id

/-- A push ends in a reported fault (R220, R355); the other threads' pushes go on. -/
def State.pushFails (s : State) (o : Op) (r : Req) (code detail : Nat) : State :=
  (((s.report o code 5 o.ex (BitVec.ofNat 64 detail)).putOp (o.dropReq r.uid)).earlyFall o.id).completeOp o.id

/-- The operation once an access of 16 bytes has failed (R220): the thread's two requests and what they have read
are dropped together. -/
def Op.dropPair (o : Op) (r : Req) : Op :=
  if o.pairs then
    { o with reqs := o.reqs.filter (fun q => q.t != r.t || q.uid == r.uid)
             ws := o.ws.filter (fun w => w.t != r.t) }
  else o

/-- A request ends in a reported fault (R220); one of a copy or push is held (R335). -/
def State.failReq (s : State) (o : Op) (r : Req) (code eng detail : Nat) : State :=
  match r.act with
  | .bulk _ _ ctr => s.copyFails o r code (if code = 0x0B then ctr.getD r.dest else r.dest)
  | .push _ => if code = 0x0E then s.copyFails o r code r.dest else s.pushFails o r code detail
  | _ =>
    let detail := if o.pairs && code != 0x0F then detail / 16 * 16 else detail
    let s := if o.records then s.putOp { o with failed := true } else if o.pairs then s.putOp (o.dropPair r) else s
    (s.report o code eng (o.affected r) (BitVec.ofNat 64 detail)).endReq o.id r.uid []

/-! ### Where an access is performed -/

/-- What answers an access at a physical address for the context that makes it (R70, R451). -/
inductive Target where
  | mem
  | sp (ck x : Nat)
  | reg (pl : Place)
  /-- nothing: a drop notice goes to the source -/
  | drop
  /-- out of the window's range -/
  | out
  deriving DecidableEq, Repr

/-- The context on whose frames a window access is performed (R70): that of the same function and first die layer
on the package reached. -/
def windowCtx (orig pa : Nat) : Nat := pkgOfPa pa * 256 + orig % 256

/-- The dense cores of a partition. -/
def State.coresOf (s : State) (p : Nat) : Nat := ((s.part p).remap.filter (fun e => e.2.getLsbD 0)).length

/-- The target of an access of n bytes. -/
def State.target (s : State) (orig : Option Nat) (pa n : Nat) : Target :=
  if (FMap.find s.pkgs (pkgOfPa pa)).isNone then .drop
  else match s.place pa with
    | .hbm _ => .mem
    | .pool c x =>
      match orig with
      | none => .drop
      | some o =>
        let t := windowCtx o pa
        if (FMap.find s.ctxs t).isNone || (s.part (partOfCtx t)).layers == 0 then .drop
        else if c < s.coresOf (partOfCtx t) && s.inSp (t * 1024 + c) x n then .sp (t * 1024 + c) x
        else .out
    | .nowhere => .drop
    | p => .reg p

/-- The bytes that a target holds, or the address of an uncorrectable error (R232). -/
def State.fetchBytes (s : State) (t : Target) (pa n : Nat) : Except Nat (List Byte) :=
  match t with
  | .mem => match s.memBad pa n with
    | some a => .error a
    | none => .ok (s.memRead pa n)
  | .sp ck x => match s.frameBad ck ((s.core ck).spBase + x) n with
    | some a => .error a
    | none => .ok (s.spRead ck x n)
  | .reg p => .ok (s.registerRead (pkgOfPa pa) p n)
  | _ => .ok []

/-- A read of a target corrects the soft errors that it meets (R221, R232). -/
def State.correctAt (s : State) (t : Target) (pa n : Nat) : State :=
  match t with
  | .mem => s.correctMem pa n
  | .sp ck x => s.correctSp ck [(x, n)]
  | _ => s

/-- Store bytes at a target. -/
def State.storeBytes (s : State) (t : Target) (pa agent : Nat) (l : List Byte) : State :=
  match t with
  | .mem => s.memWrite pa l
  | .sp ck x => s.spWrite ck x l
  | .reg p => s.registerWrite (pkgOfPa pa) agent p l
  | _ => s

/-- The context that makes an operation's accesses; a firmware core's come from none. -/
def Op.orig (o : Op) : Option Nat := if isFw o.bk then none else some (ctxOfBundle o.bk)

/-- The agent that an operation's register accesses come from: a firmware core of the package reached, or another
agent. -/
def Op.agent (o : Op) (pa : Nat) : Nat :=
  if isFw o.bk && pkgOfBundle o.bk == pkgOfPa pa then (o.bk - fwBase) % 16 else agentContext

/-- The chiplet of an operation's core. -/
def State.chipOf (s : State) (o : Op) : Nat :=
  if isFw o.bk then pkgOfBundle o.bk * 8 + (o.bk - fwBase) % 16 / 2 else s.chipletOf (coreOfBundle o.bk)

/-- The home agent of an address, as a base-die engine. -/
def homeEngine (pa : Nat) : Nat := 16 * homeChiplet pa

/-- The transfer engine of an operation's chiplet, as a base-die engine. -/
def State.transferEngine (s : State) (o : Op) : Nat := 16 * s.chipOf o + 1

/-- The shard unit slice of an operation's chiplet, as a base-die engine. -/
def State.sliceEngine (s : State) (o : Op) : Nat := 16 * s.chipOf o + 2

/-- What makes a request's access. -/
def useOf (o : Op) (r : Req) : Use :=
  match r.act with
  | .home op .. => .hop op
  | .prf => .prf
  | .bulk kind .. => if kind = 0 then .dst else .src
  | .push _ => .dst
  | .st _ => if o.opn = 6 then .str else .st
  | _ => if o.opn = 5 then .ldr else .ld

/-- Whether a register block serves a request (R383, R402, R430): `ld.r` and `st.r`, and any access of a firmware core or
from another package (R251) to the management block, whose owner cell takes none. -/
def opensTo (o : Op) (r : Req) (pl : Place) : Bool :=
  match pl with
  | .mgmt off => ((useOf o r).registers || isFw o.bk ||
      (o.cls == 6 && (o.opn ≤ 1 || o.records) && pkgOfPa r.pa != pkgOfBundle o.bk)) &&
      !(decide (0x800 ≤ off) && decide (off < 0x810))
  | _ => (useOf o r).registers

/-- The target of a request: what a package does not serve is dropped there (R451). -/
def State.targetOf (s : State) (o : Op) (r : Req) : Target :=
  match s.target o.orig r.pa r.n with
  | .reg pl => if opensTo o r pl then .reg pl else .drop
  | t => t

/-! ### Results -/

/-- The register writes of a load of n bytes into d (R245). -/
def loadRegs (d : Nat) (u : Bool) (l : List Byte) : List RegW :=
  if u then [.s d (BitVec.ofNat 64 (natOfBytes l))]
  else (List.range ((l.length + 3) / 4)).map (fun i => .v (d + i) (BitVec.ofNat 32 (natOfBytes ((l.drop (4 * i)).take 4))))

/-- Whether a type of class 7 has 64 bits, and whether it is signed (R158). -/
def wideTy (ty : Nat) : Bool := decide (2 ≤ ty)

/-- The register writes that a reply of a class-7 operation makes (R94, R306, R308, R313, R315). -/
def replyRegs (a : Act) (l : List Byte) : List RegW :=
  match a with
  | .home op ty _ _ d k u _ _ =>
    let value (n : Nat) : Nat := natOfBytes (l.take n)
    if op ≤ 7 then
      (if u then [.s d (extendResult (wideTy ty) (ty % 2 == 0) (BitVec.ofNat 64 (value 8)))]
       else if wideTy ty then loadRegs d false (l.take 8) else loadRegs d false (l.take 4))
    else if op = 0x0C then
      (if u then [.s d (BitVec.ofNat 64 (value 8)), .s (d + 1) (BitVec.ofNat 64 (natOfBytes (l.drop 8)))]
       else loadRegs d false l)
    else if op = 0x0F ∨ op = 0x10 then
      let status := natOfBytes (l.drop 8)
      let won : List RegW := if op = 0x0F && k != 0 && !u then [.m k (status % 8 == 0)] else []
      (if u then [.s d (BitVec.ofNat 64 (if ty = 0 then value 4 else value 8)), .s (d + 1) (BitVec.ofNat 64 status)]
       else if ty = 0 then [.v d (BitVec.ofNat 32 (value 4)), .v (d + 1) (BitVec.ofNat 32 status)]
       else loadRegs d false (l.take 8) ++ [.v (d + 2) (BitVec.ofNat 32 status)]) ++ won
    else []
  | .ld d u => loadRegs d u l
  | _ => []

/-! ### Operations of the home agent (R306 to R317) -/

/-- The new value of an atomic or reduction at N bits, and whether it is written (R306). -/
def atomNew (op : Nat) (n : Nat) (signed : Bool) (old c d : BitVec n) : Option (BitVec n) :=
  let less (a b : BitVec n) : Bool := if signed then a.slt b else a.ult b
  match op with
  | 0 => some (old + c)
  | 1 => some (if less c old then c else old)
  | 2 => some (if less old c then c else old)
  | 3 => some (old &&& c)
  | 4 => some (old ||| c)
  | 5 => some (old ^^^ c)
  | 6 => some c
  | 7 => if old = c then some d else none
  | 8 => some (old + c)
  | 9 => some (if less c old then c else old)
  | 10 => some (if less old c then c else old)
  | _ => none

/-- An atomic on the bytes of its word: the bytes after it. -/
def atomBytes (op ty opnd cmp : Nat) (l : List Byte) : List Byte :=
  let old := natOfBytes l
  let go (n : Nat) : List Byte :=
    let x : BitVec n := BitVec.ofNat n opnd
    let y : BitVec n := BitVec.ofNat n cmp
    match atomNew op n (ty % 2 == 0) (BitVec.ofNat n old) (if op = 7 then y else x) x with
    | some v => bytesOfNat (n / 8) v.toNat
    | none => l
  if wideTy ty then go 64 else go 32

/-- The contribution of `red.x96` by its type (R307): f32, bf16, i32, i64. -/
def x96Contribution (ty v : Nat) : FVal :=
  match ty with
  | 0 => fmtF32.decode (v % 2 ^ 32)
  | 1 => fmtBf16.decode (v % 2 ^ 16)
  | 2 => intVal (toSigned 32 (v % 2 ^ 32))
  | _ => intVal (toSigned 64 (v % 2 ^ 64))

/-- `red.x96` on the 16 bytes of a slot (R307): bytes 12 and 13 are left, byte 15 becomes 0. -/
def redX96 (ty v : Nat) (l : List Byte) : List Byte :=
  let b := ((slotOf l).add (x96Contribution ty v)).bytes
  b.take 12 ++ (l.drop 12).take 2 ++ b.drop 14

/-- `x96.init` (R308). -/
def initX96 (v : Nat) : List Byte := ({ l := toSigned 16 (v % 2 ^ 16) } : Slot).bytes

/-- What a class-7 operation leaves in its 16 bytes or its word, what it replies, and whether it raises trap 0x07. -/
structure HomeOut where
  bytes : List Byte
  reply : List Byte
  bad : Bool := false
  deriving DecidableEq, Repr

/-- A cell's result as bytes. -/
def CellResult.out (r : CellResult) : HomeOut :=
  { bytes := bytesOfNat 8 r.w0.toNat ++ bytesOfNat 8 r.w1.toNat
    reply := bytesOfNat 8 r.value.toNat ++ bytesOfNat 8 r.status
    bad := r.bad }

/-- A class-7 operation on the bytes it acts on (R306 to R316); reductions, `x96.init`, `cell.arm` and `cell.reset` are
answered by an acknowledgement without data (R318). -/
def homeBytes (op ty opnd cmp pid : Nat) (force : Bool) (l : List Byte) : HomeOut :=
  let w0 : DWord := BitVec.ofNat 64 (natOfBytes (l.take 8))
  let w1 : DWord := BitVec.ofNat 64 (natOfBytes (l.drop 8))
  if op ≤ 0x0A then { bytes := atomBytes op ty opnd cmp l, reply := if op ≤ 7 then l else [] }
  else match op with
    | 0x0B => { bytes := redX96 ty opnd l, reply := [] }
    | 0x0C => { bytes := l, reply := l }
    | 0x0D => { bytes := initX96 opnd, reply := [] }
    | 0x0E => { (cellArm w0 w1 (BitVec.ofNat 64 opnd)).out with reply := [] }
    | 0x0F => (cellProp w0 w1 (BitVec.ofNat 64 (if ty = 0 then opnd % 2 ^ 32 else opnd)) pid).out
    | 0x10 => { bytes := l, reply := l.take 8 ++ bytesOfNat 8 (w1.toNat % 2 ^ 32), bad := decide (6 ≤ cellState w1) }
    | 0x11 => { (cellReset w0 w1 force).out with reply := [] }
    | _ => { bytes := l, reply := [] }

/-- The bytes that a class-7 operation acts on. -/
def homeSize (op ty : Nat) : Nat := if op ≤ 0x0A then (if wideTy ty then 8 else 4) else 16

/-- The chiplets whose caches lie inside an issuer's instance of a level (R33, R317). -/
def inLevel (lvl issuer chiplet : Nat) : Bool :=
  if lvl ≤ 2 then false else if lvl = 3 then issuer == chiplet else if lvl = 4 then issuer / 2 == chiplet / 2
  else if lvl = 5 then issuer / 8 == chiplet / 8 else true

/-- What performing a request at its home ends in. -/
inductive Done where
  | ok (s : State) (reply : List Byte)
  | fault (code detail : Nat)
  | dropped

/-- The threads for which a request acts, by their numbers in sets. -/
def Op.threadNos (o : Op) (r : Req) : List Nat := (bitsOf (o.affected r)).map (threadNo o.ser)

/-- Whether a chiplet's cache lies between a reader and the home: on the package of one of them (R315). -/
def cacheBetween (o : Op) (pa chiplet : Nat) : Bool := chiplet / 8 == pkgOfBundle o.bk || chiplet / 8 == pkgOfPa pa

/-- The copies of a cell that may serve a read: in any cache between the reader and the home, unless one of its threads has
flushed the cell since (R315, R317). -/
def State.copiesFor (s : State) (o : Op) (r : Req) : List CellCopy :=
  s.copies.filter (fun x => x.pa == r.pa && cacheBetween o r.pa x.chiplet && !(o.threadNos r).any x.barred.contains)

/-- A class-7 operation is performed at its target (R302, R306): one indivisible step. A decided cell that is read
may come from a copy, and may leave one (R315). -/
def State.homePerform (s : State) (o : Op) (r : Req) : Done :=
  match r.act with
  | .home op ty opnd cmp _ _ _ pid force =>
    let t := s.target o.orig r.pa (homeSize op ty)
    let made := Config.cellCopyMade s.tick
    match (if op = 0x10 then s.copiesFor o r else [])[Config.cellCopyUsed s.tick]? with
    | some x => .ok s (bytesOfNat 8 x.w0.toNat ++ bytesOfNat 8 (x.w1.toNat % 2 ^ 32))
    | none =>
      match t with
      | .drop => .dropped
      | .out => .fault 0x05 r.addr
      | _ =>
        match s.fetchBytes t r.pa (homeSize op ty) with
        | .error a => .fault 0x0F a
        | .ok l =>
          let out := homeBytes op ty opnd cmp pid force l
          if out.bad then .fault 0x07 r.addr
          else
            let s := if out.bytes = l then s else s.storeBytes t r.pa (o.agent r.pa) out.bytes
            let w1 : DWord := BitVec.ofNat 64 (natOfBytes (l.drop 8))
            let s := if op = 0x10 && (cellState w1 == 3 || cellState w1 == 4) && cacheBetween o r.pa made then
                { s with copies := s.copies ++ [{ chiplet := made, pa := r.pa, w0 := BitVec.ofNat 64 (natOfBytes (l.take 8)),
                                                  w1 := w1 }] }
              else s
            .ok s out.reply
  | _ => .ok s []

/-- A plain access is performed at its target. -/
def State.plainPerform (s : State) (o : Op) (r : Req) : Done :=
  let t := s.targetOf o r
  match t with
  | .drop => .dropped
  | .out => .fault 0x05 r.addr
  | _ =>
    match r.act with
    | .ld _ _ => match s.fetchBytes t r.pa r.n with
      | .error a => .fault 0x0F a
      | .ok l => .ok s l
    | .st v => .ok (s.storeBytes t r.pa (o.agent r.pa) (bytesOfNat r.n v)) []
    | _ => .ok s []

/-- A request of class 6 or 7 is performed. -/
def State.performReq (s : State) (o : Op) (r : Req) : Done :=
  let s := s.correctAt (s.target o.orig r.pa r.n) r.pa r.n
  match r.act with
  | .home .. => s.homePerform o r
  | _ => s.plainPerform o r

/-! ### Firmware addresses (R429) -/

/-- SRAM of a firmware core stands at this address and up as a physical address. -/
def sramPa : Nat := 2 ^ 52

/-- The fate of a firmware core's access (R429, R451). -/
def State.fwFate (s : State) (o : Op) (r : Req) (u : Use) : Fate :=
  if r.addr < 0x80000 then (if r.addr + r.n ≤ 0x80000 then .go (sramPa + r.addr) else .trap 0x05)
  else if 2 ^ 52 ≤ r.addr then .trap 0x04
  else if pkgOfPa r.addr ≠ pkgOfBundle o.bk then
    (match placeOf (localOfPa r.addr) with
      | .shawm _ _ => if u.registers then .go r.addr else .trap 0x05
      | .remap _ _ => if u.registers then .go r.addr else .trap 0x05
      | _ => .go r.addr)
  else match s.place r.addr with
    | .hbm _ => .go r.addr
    | .mgmt off => if 0x800 ≤ off && decide (off < 0x810) then .trap 0x05 else .go r.addr
    | .shawm _ _ => if u.registers then .go r.addr else .trap 0x05
    | .remap _ _ => if u.registers then .go r.addr else .trap 0x05
    | .pool _ _ => .go r.addr
    | .nowhere => .trap 0x05

/-! ### Translation of a request (R364, R365) -/

/-- The held requests of a page that stand before one: they are replayed in the order in which they were made
(R365). -/
def State.heldBefore (s : State) (o : Op) (r : Req) : Bool :=
  s.ops.any (fun p => ctxOfBundle p.bk == ctxOfBundle o.bk && !isFw p.bk && s.sliceOf p.bk == s.sliceOf o.bk &&
    p.reqs.any (fun q => q.stage == .shard && q.addr / 8192 == r.addr / 8192 &&
      (decide (p.id < o.id) || (p.id == o.id && decide (q.uid < r.uid)))))

/-- Whether an older access of one of a request's threads to its page is held (R365). -/
def State.heldOfThread (s : State) (o : Op) (r : Req) : Bool :=
  s.ops.any (fun p => p.ser == o.ser && decide (p.id ≤ o.id) && p.reqs.any (fun q => q.stage == .shard &&
    q.addr / 8192 == r.addr / 8192 && p.meets q o r && (decide (p.id < o.id) || decide (q.uid < r.uid))))

/-- Put a request at a stage. -/
def State.stageReq (s : State) (o : Op) (r : Req) : State := s.putOp (o.putReq r)

/-- A request's translation puts it at a stage, with the other half of an access of 16 bytes, which is translated
with it (R250). -/
def State.stageWalked (s : State) (o : Op) (r : Req) : State :=
  if o.pairs then
    s.putOp { o with reqs := o.reqs.map (fun (q : Req) => if q.uid = r.uid then r
      else if q.t = r.t then { q with stage := r.stage, pa := if r.translated then r.pa / 16 * 16 + q.addr % 16 else 0 }
      else q) }
  else s.stageReq o r

/-- A `prf.g` completes when the port has passed all of it to the shard unit (R254): its flag falls, while the touches of
SHARDED pages that the slice still holds go on. -/
def State.prefetched (s : State) (id : Nat) : State :=
  match s.op? id with
  | none => s
  | some o =>
    if o.flag.isSome && o.cls == 6 && o.opn == 4 && o.reqs.all (fun r => r.stage == .shard) then
      (s.putOp { o with flag := none }).flagFall o.bk o.ser o.flag
    else s

/-- A request's fate takes effect: it goes on to its home, is held, or ends in a fault; a `prf.g` ends (R254). -/
def State.applyFate (s : State) (o : Op) (r : Req) (g : Nat) (f : Fate) : State :=
  match f with
  | .go pa =>
    if r.act = .prf then s.endReq o.id r.uid []
    else s.stageWalked o { r with stage := .home, pa := pa }
  | .trap code =>
    let code := if r.isPush then 0x0B else code  -- a queue address that does not translate into a pool window (R355)
    if r.act = .prf then s.endReq o.id r.uid [] else s.failReq o r code (engineOf code) r.addr
  | .bad a => if r.act = .prf then s.endReq o.id r.uid [] else s.failReq o r 0x0F 6 a
  | .wait =>
    if r.act = .prf then s.endReq o.id r.uid [] else s.stageWalked o { r with stage := .shard }
  | .touch =>
    let busy := s.unperformed o.ser o.id (o.affected r)
    let s := if busy then s else s.firstTouch (ctxOfBundle o.bk) g (pageOf r.addr)
    if r.act = .prf && !busy then (s.endReq o.id r.uid []).prefetched o.id
    else (s.stageWalked o { r with stage := .shard }).prefetched o.id

/-- The fate that a request's translation finds now, with the group of a shard page. -/
def State.translate (s : State) (o : Op) (r : Req) : Fate × Nat × State :=
  let u := useOf o r
  if isFw o.bk then (s.fwFate o r u, 0, s)
  else
    let c := ctxOfBundle o.bk
    if let some a := s.walkBad c (s.sliceOf o.bk) (microOf o.bk) r.addr then (.bad a, 0, s)
    else match s.findLeaf c (s.sliceOf o.bk) (microOf o.bk) r.addr with
    | none => (.trap 0x04, 0, s)
    | some (l, s) => (s.judge c (o.cls == 6 && o.opn ≤ 1 || o.records) u r.addr r.n l, leafGroup l.word, s)

/-- Whether a context may progress: a firmware core always, a kernel's while its context runs (R413). -/
def State.runs (s : State) (bk : Nat) : Bool := isFw bk || (s.ctx (ctxOfBundle bk)).running

/-- Whether a bundle's partition is ending its slice (R413). -/
def State.endingSlice (s : State) (bk : Nat) : Bool := !isFw bk && (s.part (partOfCtx (ctxOfBundle bk))).ending.isSome

/-- Whether a held request may be judged again: its page is not held against it any more. -/
def State.mayReplay (s : State) (o : Op) (r : Req) : Bool :=
  match (s.translate o r).1 with
  | .wait => false
  | .touch => !(s.ctx (ctxOfBundle o.bk)).asked (pageOf r.addr) && !s.unperformed o.ser o.id (o.affected r)
  | _ => !s.heldBefore o r

/-- Whether a request waits for the translation of a page that an access or a fetch of a bundle walks for (R364). -/
def State.joins (s : State) (bk va : Nat) (p : Op) (q : Req) : Bool :=
  q.stage == .walk && !isFw p.bk && ctxOfBundle p.bk == ctxOfBundle bk && s.sliceOf p.bk == s.sliceOf bk && q.addr / 8192 == va / 8192

/-- A shard instruction's translation: a page that is none of a shard group ends it; else it is a replay entry that the slice
judges (R364, R377). -/
def State.walkShard (s : State) (o : Op) (r : Req) : State :=
  let c := ctxOfBundle o.bk
  if let some a := s.walkBad c (s.sliceOf o.bk) (microOf o.bk) r.addr then s.failReq o r 0x0F 6 a
  else match s.findLeaf c (s.sliceOf o.bk) (microOf o.bk) r.addr with
    | none => s.failReq o r 0x04 6 r.addr
    | some (l, t) => if leafKind l.word ≠ 3 then t.failReq o r 0x05 6 r.addr else t.stageReq o { r with stage := .shard }

/-- A translation's outcome is applied to a request; it waits behind an older held one of its thread on the page (R365). -/
def State.applyWalk (s : State) (o : Op) (r : Req) : State :=
  if o.cls = 12 then s.walkShard o r
  else if !isFw o.bk && s.heldOfThread o r then (s.stageWalked o { r with stage := .shard }).prefetched o.id
  else
    let f := s.translate o r
    f.2.2.applyFate o r f.2.1 f.1

/-- A walk's outcome is applied to every access of the chiplet that waits for the page, in the order in which they were made
(R364). -/
def State.walkPage (s : State) (bk va : Nat) : State :=
  (s.ops.flatMap (fun p => (p.reqs.filter (s.joins bk va p)).map (fun q => (p.id, q.uid)))).foldl
    (fun s (e : Nat × Nat) => match s.op? e.1 with
      | none => s
      | some p => match p.req? e.2 with
        | none => s
        | some q => if q.stage == .walk then s.applyWalk p q else s) s

/-- A request's translation: where it walks, or finds a fault, it ends the walk of its page. -/
def State.walkAll (s : State) (o : Op) (r : Req) : State :=
  if isFw o.bk || !(s.cached (ctxOfBundle o.bk) (s.sliceOf o.bk) (microOf o.bk) r.addr).isEmpty then s.applyWalk o r
  else s.walkPage o.bk r.addr

/-- A request's walk ends, or a held one is replayed (R364, R365). -/
def State.walkReq (s : State) (o : Op) (r : Req) : State :=
  if s.runs o.bk then
    match r.stage with
    | .walk => if s.inOrder (s.sliceEngine o) o.bk then (s.enters (s.sliceEngine o) o.bk).walkAll o r else s
    | .shard =>
      if s.mayReplay o r then (let f := s.translate o r
        f.2.2.applyFate o r f.2.1 f.1) else s
    | _ => s
  else s

/-- Whether a request travels on the fabric (R321): `ld.r` and `st.r`, another package, the pool window, register
blocks, and class 7 away from its own chiplet. -/
def State.travels (s : State) (o : Op) (r : Req) : Bool :=
  if sramPa ≤ r.pa then false
  else o.cls == 11 || useOf o r == .ldr || useOf o r == .str || pkgOfPa r.pa != pkgOfBundle o.bk ||
    (match s.place r.pa with
      | .hbm _ => o.cls == 7 && homeChiplet r.pa != s.chipOf o
      | .mgmt _ => false
      | _ => true)

/-- A request of classes 6 and 7 that does not travel is performed at its home (R302), and its results are ready
to land. -/
def State.serveHere (s : State) (o : Op) (r : Req) : State :=
  if sramPa ≤ r.pa then
    match r.act with
    | .st v => (s.sramStore o.bk (r.pa - sramPa) (bytesOfNat r.n v)).endReq o.id r.uid []
    | _ => s.endReq o.id r.uid [{ t := r.t, ws := replyRegs r.act (s.sramRead o.bk (r.pa - sramPa) r.n) }]
  else
    let s := match o.orig with
      | some c => s.charge c 1 (Config.hbmUnits s.tick)
      | none => s
    match s.performReq o r with
    | .fault code detail => s.failReq o r code (engineOf code) detail
    | .dropped => s.failReq o r 0x0E 5 r.pa
    | .ok s l =>
      match replyRegs r.act l with
      | [] => s.endReq o.id r.uid []
      | ws => s.endReq o.id r.uid [{ t := r.t, ws := ws }]

/-- A bundle's accesses of the management block are performed in program order (R429). -/
def State.mgmtBehind (s : State) (o : Op) (r : Req) : Bool :=
  o.onBlock r && s.ops.any (fun p => p.ser == o.ser && decide (p.id < o.id) && p.reqs.any (p.onBlock))

/-! ### Packets -/

/-- The OP of the packet that carries a request (R326). -/
def packetOp (a : Act) : Nat :=
  match a with
  | .st _ => 0
  | .home .. => 3
  | .bulk kind .. => if kind = 0 then 0 else 1
  | .push _ => 0
  | _ => 1

/-- The bytes that the packet of a request carries. -/
def State.packetData (s : State) (o : Op) (r : Req) : List Byte :=
  match r.act with
  | .st v => bytesOfNat r.n v
  | .home op _ _ cmp .. => bytesOfNat 8 (if op = 7 then cmp else 0) ++ List.replicate 8 0
  | .bulk kind sp _ => if kind = 0 then s.spRead (coreOfBundle o.bk) sp r.n else []
  | .push sp => s.spRead (coreOfBundle o.bk) sp r.n
  | _ => []

/-- The range of the scratchpad that the packet of a copy or push is read from. -/
def Req.sourceRange (r : Req) : List (Nat × Nat) :=
  match r.act with
  | .bulk kind sp _ => if kind = 0 then [(sp, r.n)] else []
  | .push sp => [(sp, r.n)]
  | _ => []

/-- The operand that the packet of a request carries (R326). -/
def packetOpnd (a : Act) : DWord :=
  match a with
  | .home _ _ opnd .. => BitVec.ofNat 64 opnd
  | _ => 0

/-- The class-7 op number that the packet of a request carries (R326). -/
def packetAop (a : Act) : Nat :=
  match a with
  | .home op .. => op
  | _ => 0

/-- The physical address that a put's counter register names: it must translate into a pool window (R331). -/
def State.counterPa (s : State) (o : Op) (va : Nat) : Option Nat :=
  match s.findLeaf (ctxOfBundle o.bk) (s.sliceOf o.bk) (microOf o.bk) va with
  | none => none
  | some (l, _) =>
    match s.judge (ctxOfBundle o.bk) false .dst va 8 l, placeOf (localOfPa (l.phys va)) with
    | .go pa, .pool _ _ => some pa
    | _, _ => none

/-- What keeps a packet of a copy or push from being sent, as its error code and what it names: a counter of a put
or a queue that lies in no pool window, or an uncorrectable error in its source. -/
def State.sendFault (s : State) (o : Op) (r : Req) : Option (Nat × Nat) :=
  let ck := coreOfBundle o.bk
  let bad (sp : Nat) : Option (Nat × Nat) := (s.frameBad ck ((s.core ck).spBase + sp) r.n).map (fun _ => (0x0F, r.dest))
  match r.act with
  | .bulk 0 sp (some va) => if (s.counterPa o va).isNone then some (0x0B, r.dest) else bad sp
  | .bulk 0 sp none => bad sp
  | .push sp => (match placeOf (localOfPa r.pa) with
    | .pool _ _ => (s.frameBad ck ((s.core ck).spBase + sp) r.n).map (fun a => (0x0F, a))
    | _ => some (0x0B, r.addr))
  | _ => none

/-- SIZE of the packet of a request (R326). -/
def Req.sizeCode (r : Req) : Nat :=
  match r.act with
  | .bulk .. => 0
  | .push _ => 0
  | _ => if r.n = 1 then 1 else if r.n = 2 then 2 else if r.n = 4 then 3 else if r.n = 8 then 4 else 5

/-- The home that a path leads to: a chiplet's home agent, a core's pool, or the registers of a package. -/
def homeOf (pa : Nat) : Nat :=
  match placeOf (localOfPa pa) with
  | .hbm _ => homeChiplet pa
  | .pool c _ => 2 ^ 20 + pkgOfPa pa * 2 ^ 10 + c
  | _ => 2 ^ 21 + pkgOfPa pa

/-- The path of a request: from its chiplet to the home of its address, by a hash of the home and the 64-byte segment
(R322). -/
def State.pathOf (s : State) (o : Op) (pa : Nat) : Nat :=
  (s.chipOf o * 2 ^ 22 + homeOf pa) * 2 ^ 8 + Config.pathHash (pa / 64) % 2 ^ 8

/-- The counter field of the packet of a request (R326, R332): of a get or copy, the counter of its own core in the pool
window. -/
def State.packetCtr (s : State) (o : Op) (r : Req) : Option Nat :=
  match r.act with
  | .bulk 0 _ (some va) => s.counterPa o va
  | .bulk _ _ (some x) => some (windowPa (coreOfBundle o.bk) x)
  | _ => none

/-- A request leaves on its path (R321, R322), and its flits are charged when they leave the package (R403). -/
def State.sendReq (s : State) (o : Op) (r : Req) : State :=
  match s.sendFault o r with
  | some f => s.failReq o r f.1 5 f.2
  | none =>
    let s := s.correctSp (coreOfBundle o.bk) r.sourceRange
    let d := s.packetData o r
    let s := s.launchPacket { id := 0, op := packetOp r.act, opId := o.id, uid := r.uid, src := coreOfBundle o.bk,
                              dst := r.pa, aop := packetAop r.act, opnd := packetOpnd r.act, ctr := s.packetCtr o r,
                              orig := o.orig, data := d, scope := if o.cls = 11 then o.lvl else 0, len := r.n
                              size := r.sizeCode, srcEp := pkgOfBundle o.bk, tag := r.uid % 2 ^ 14, path := s.pathOf o r.pa
                              leaves := pkgOfBundle o.bk, goes := pkgOfPa r.pa }
    (s.stageReq o { r with stage := .fabric }).earlyFall o.id

/-- The operation with the two halves of an access of 16 bytes as one request (R220), and that request. -/
def Op.merged (o : Op) (r : Req) : Op × Req :=
  match o.reqs.find? (fun q => q.t == r.t && q.uid != r.uid) with
  | none => (o, r)
  | some q =>
    let lo := if q.addr < r.addr then q else r
    let hi := if q.addr < r.addr then r else q
    let act : Act := match lo.act, hi.act with
      | .st a, .st b => .st (a % 2 ^ 64 + b * 2 ^ 64)
      | a, _ => a
    let m : Req := { lo with n := 16, act := act }
    ((o.dropReq hi.uid).putReq m, m)

/-- `cell.flush` (R317): every copy of the cell inside the issuer's instance of its level goes, and no other one serves the
issuing threads any more. -/
def State.flushCopies (s : State) (o : Op) (r : Req) : State :=
  let chip := s.chipOf o
  { s with copies := (s.copies.filter (fun x => !(x.pa == r.pa && inLevel o.lvl chip x.chiplet))).map (fun (x : CellCopy) =>
      if x.pa = r.pa then { x with barred := x.barred ++ o.threadNos r } else x) }

/-- Whether a push stands behind an earlier one of its bundle to its queue that is not sent (R355). -/
def State.pushBehind (s : State) (o : Op) (r : Req) : Bool :=
  r.isPush && s.ops.any (fun p => p.ser == o.ser && decide (p.id ≤ o.id) && p.reqs.any (fun q =>
    q.isPush && q.addr == r.addr && q.stage != .fabric && (decide (p.id < o.id) || decide (q.uid < r.uid))))

/-- Whether a home agent may take a request of a core now (R16, R302). -/
def State.homeReady (s : State) (o : Op) (r : Req) : Bool := s.inOrder (homeEngine r.pa) o.bk

/-- The home agent of an address has taken a request of a core. -/
def State.homeTakes (s : State) (o : Op) (r : Req) : State := s.enters (homeEngine r.pa) o.bk

/-- Whether a request is a register read of a firmware core (R405). -/
def State.polls (s : State) (o : Op) (r : Req) : Bool :=
  isFw o.bk && (match r.act, s.place r.pa with
    | .ld .., .shawm .. => true
    | .ld .., .remap .. => true
    | .ld .., .mgmt .. => true
    | _, _ => false)

/-- The key of a firmware core's use of its polling budget. -/
def pollKey (bk : Nat) : Nat := 16 + (bk - fwBase) % 16

/-- Whether a register read of a firmware core waits for the next period (R405). -/
def State.pollSpent (s : State) (o : Op) (r : Req) : Bool :=
  s.polls o r && decide ((s.pkg (pkgOfBundle o.bk)).budget usePolling ≤ FMap.look (s.pkg (pkgOfBundle o.bk)).used 0 (pollKey o.bk))

/-- A register read of a firmware core counts in its budget (R405). -/
def State.pollTakes (s : State) (o : Op) (r : Req) : State :=
  if s.polls o r then
    let p := s.pkg (pkgOfBundle o.bk)
    s.setPkg (pkgOfBundle o.bk) { p with used := FMap.put p.used (pollKey o.bk) (FMap.look p.used 0 (pollKey o.bk) + 1) }
  else s

/-- Whether every part of a request's packet is translated (R331). -/
def Op.partsReady (o : Op) (r : Req) : Bool :=
  o.reqs.all (fun q => !(r.samePacket q) || q.stage == .home || q.stage == .fabric)

/-- A translated request of class 6 or 7 is performed at its home or leaves on its path, unless an older one holds
it back. -/
def State.moveReq (s : State) (o : Op) (r : Req) : State :=
  if useOf o r = .hop 0x12 then
    (if s.blocked o r false then s else (s.flushCopies o r).endReq o.id r.uid [])
  else if s.pollSpent o r then s
  else if s.travels o r then
    let m := if o.pairs then o.merged r else (o, r)
    let s := if o.pairs then s.putOp m.1 else s
    (if s.blocked m.1 m.2 true || s.mgmtBehind m.1 m.2 || s.pushBehind m.1 m.2 || !m.1.partsReady m.2 ||
        !s.inOrder (s.transferEngine o) o.bk then s
     else ((s.enters (s.transferEngine o) o.bk).pollTakes o r).sendReq m.1 m.2)
  else if s.blocked o r false || s.mgmtBehind o r || !s.homeReady o r then s
  else ((s.homeTakes o r).pollTakes o r).serveHere o r

end Sys2Proof.Machine
end

