-- ==== Sys2Proof/Machine/Races.lean ====
section
/-! DEFINITION. Tiles and their status (R264), the addresses that loops read (R265, R266), the entries of the queues of the
plane matrix engine and the signature engine (R267, R282, R296), and their races with each other and with what bundles do
to their operand lines (R270, R297). -/

namespace Sys2Proof.Machine

/-! ### Tiles (R264) -/

/-- Where element (i, j) of a tile stands in the frame. -/
def Core.elemAt (c : Core) (tile i j : Nat) : Nat := c.tileBase tile + 12 * (64 * i + j)

/-- Element (i, j) of a tile. -/
def State.elem (s : State) (ck tile i j : Nat) : Int :=
  toSigned 96 (natOfBytes (s.frameRead ck ((s.core ck).elemAt tile i j) 12))

/-- The 12 bytes of an element. -/
def elemBytes (n : Int) : List Byte := bytesOfNat 12 (n % (2 ^ 96 : Int)).toNat

/-- Write element (i, j) of a tile. -/
def State.setElem (s : State) (ck tile i j : Nat) (n : Int) : State :=
  s.frameWrite ck ((s.core ck).elemAt tile i j) (elemBytes n)

/-- The status word of a tile. -/
def Core.status (c : Core) (tile : Nat) : DWord := FMap.look c.tst 0 tile

/-- Write the status word of a tile. -/
def State.setTileStatus (s : State) (ck tile : Nat) (w : DWord) : State :=
  s.setCore ck { s.core ck with tst := FMap.write (s.core ck).tst 0 tile w }

/-- L of a status word. -/
def statusL (w : DWord) : Int := toSigned 16 (w.toNat % 2 ^ 16)

/-- A status word from its fields. -/
def statusWord (l : Int) (ovf inx nan : Bool) : DWord :=
  BitVec.ofNat 64 ((l % (2 ^ 16 : Int)).toNat + bit ovf * 2 ^ 16 + bit inx * 2 ^ 17 + bit nan * 2 ^ 18)

/-- A tile element as a slot, with the tile's L and flags (R261). -/
def slotAt (w : DWord) (n : Int) : Slot :=
  { n := n, l := statusL w, ovf := w.getLsbD 16, inx := w.getLsbD 17, nan := w.getLsbD 18 }

/-- The status word of a slot's L and flags. -/
def Slot.status (x : Slot) : DWord := statusWord x.l x.ovf x.inx x.nan

/-- The 48 KiB of a tile. -/
def State.tileBytes (s : State) (ck tile : Nat) : List Byte := s.frameRead ck ((s.core ck).tileBase tile) 0xC000

/-- Write the 48 KiB of a tile. -/
def State.setTileBytes (s : State) (ck tile : Nat) (l : List Byte) : State :=
  s.frameWrite ck ((s.core ck).tileBase tile) l

/-- Free bytes for an unspecified tile (R270, R277). -/
def State.freeBytes (s : State) (from_ n : Nat) : List Byte := (List.range n).map (fun i => s.freeByteAt (from_ + i))

/-! ### Areas of tiles -/

/-- All elements of a tile. -/
def Area.whole (tile : Nat) : Area := { tile := tile }

/-- Whether an area holds element (i, j) of a tile. -/
def Area.holds (a : Area) (tile i j : Nat) : Bool :=
  a.tile == tile && decide (a.r0 ≤ i) && decide (i < a.r1) && decide (a.c0 ≤ j) && decide (j < a.c1)

/-- The first n elements from a tile on, 4096 in a tile. -/
def areasOf (tile n : Nat) : List Area :=
  (List.range ((n + 4095) / 4096)).flatMap (fun g =>
    let m := min 4096 (n - 4096 * g)
    { tile := tile + g, r1 := m / 64 } :: (if m % 64 = 0 then [] else [{ tile := tile + g, r0 := m / 64, r1 := m / 64 + 1, c1 := m % 64 }]))

/-- Some elements of a tile and its status become unspecified (R270). -/
def State.blurArea (s : State) (ck : Nat) (a : Area) : State :=
  ((List.range' a.r0 (a.r1 - a.r0)).foldl (fun s i =>
    s.frameWrite ck ((s.core ck).elemAt a.tile i a.c0)
      (s.freeBytes (12 * (64 * i + a.c0)) (12 * (a.c1 - a.c0)))) s).setTileStatus ck a.tile
    (Config.freeStatus (s.tick * 64 + a.tile) &&& 0x7FFFF)

/-- Areas become unspecified. -/
def State.blurAreas (s : State) (ck : Nat) (l : List Area) : State := l.dedup.foldl (fun s a => s.blurArea ck a) s

/-- A tile becomes unspecified, elements and status (R270). -/
def State.blurTile (s : State) (ck tile : Nat) : State := s.blurArea ck (.whole tile)

/-- Tiles become unspecified. -/
def State.blurTiles (s : State) (ck : Nat) (l : List Nat) : State := s.blurAreas ck (l.map Area.whole)

/-- Bytes that an engine reads at a scratchpad address: each as it is, or as it was before a store that no `opfence` has
followed (R55). -/
def State.mixOld (s : State) (old : List (Nat × List Byte)) (x : Nat) (l : List Byte) : List Byte :=
  if old.isEmpty then l
  else l.zipIdx.map (fun p => old.foldl (fun v e =>
    if e.1 ≤ x + p.2 ∧ x + p.2 < e.1 + e.2.length ∧ Config.takesOld (s.tick * 2 ^ 32 + (x + p.2)) = true then e.2.getD (x + p.2 - e.1) 0
    else v) p.1)

/-! ### What a loop reads (R265, R266, R274) -/

/-- The base of an operand: A is 0, B is 1. -/
def loopBase (ra : DWord) (k : Nat) : Nat := ra.toNat / 2 ^ (32 * k) % 2 ^ 32

/-- The increment of an operand. -/
def loopInc (rb : DWord) (k : Nat) : Int := toSigned 24 (rb.toNat / 2 ^ (24 * k) % 2 ^ 24)

/-- The step count. -/
def loopCount (rb : DWord) : Nat := rb.toNat / 2 ^ 48

/-- Where the chunk group of a step starts in a row. -/
def groupAt (base : Nat) (inc : Int) (t : Tid) (step i : Nat) : Int :=
  (base : Int) + (step : Int) * inc + ((i * t.stride : Nat) : Int)

/-- Operand k of a loop (0 A, 1 B): its identifier, base and increment. -/
def MxEntry.operand (e : MxEntry) (k : Nat) : Tid × Nat × Int :=
  (tidOf (if k = 0 then e.ta else e.tb), loopBase e.ra k, loopInc e.rb k)

/-- Where chunk g of a step starts in row i of an operand (R266). -/
def MxEntry.chunkAt (e : MxEntry) (k step i g : Nat) : Nat :=
  let o := e.operand k
  (groupAt o.2.1 o.2.2 o.1 step i).toNat + g * o.1.f.planes * 4

/-- The scratchpad ranges that a step reads of an operand (R265, R266). -/
def MxEntry.ranges (e : MxEntry) (k step : Nat) : List (Nat × Nat) :=
  let t := (e.operand k).1
  let words := (List.range t.rows).flatMap (fun i => (List.range e.span).map (fun g =>
    let a := e.chunkAt k step i g
    if e.op = 1 then (a, 4 * (t.f.w + 1)) else (a + 4, 4 * t.f.w)))
  let scales := if t.sfmt = 0 then [] else
    ((List.range t.rows).flatMap (fun i => (List.range e.span).map (fun g =>
      (t.scaleAt i (32 * (step * e.span + g)), if t.sfmt = 1 then 2 else 1)))).dedup
  words ++ scales

/-- All the ranges of a step. -/
def MxEntry.reads (e : MxEntry) (step : Nat) : List (Nat × Nat) := e.ranges 0 step ++ e.ranges 1 step

/-! ### The queue and its entries (R267, R268) -/

/-- An entry as an operation that reports. -/
def MxEntry.asOp (e : MxEntry) : Op :=
  { id := e.opId, bk := e.bk, ser := e.ser, cls := 9, opn := e.op, flag := none, upc := e.upc, ex := e.ex }

/-- Whether an entry is a loop. -/
def MxEntry.isLoop (e : MxEntry) : Bool := decide (e.op ≤ 1)

/-- Whether an entry writes a tile: `mx.read`, `mx.store` and `mx.stat` do not. -/
def MxEntry.writes (e : MxEntry) (tile : Nat) : Bool := e.tile == tile && e.op != 4 && e.op != 5 && e.op != 7

/-- Tiles of level k of a descriptor (R282). -/
def SigDesc.group (x : SigDesc) (k : Nat) : Nat := (x.dim ^ k + 4095) / 4096

/-- The tiles of a descriptor (R283). -/
def SigDesc.tiles (x : SigDesc) : Nat := (List.range x.n).foldl (fun a k => a + x.group (k + 1)) 0

/-- Whether a descriptor's tiles hold a tile. -/
def SigDesc.holds (x : SigDesc) (tile : Nat) : Bool := decide (x.base ≤ tile) && decide (tile < x.base + x.tiles)

/-- The tiles an entry names. -/
def MxEntry.tilesOf (e : MxEntry) : List Nat := if e.op = 8 then [e.tile, e.src] else [e.tile]

/-- The scratchpad ranges that all steps of a loop read. -/
def MxEntry.loopReads (e : MxEntry) : List (Nat × Nat) := (List.range (loopCount e.rb)).flatMap e.reads

/-- What a class-9 entry touches: a loop's cells are the pairs of its rows, `mx.read`, `mx.store` and `mx.stat` only read. -/
def MxEntry.touch (e : MxEntry) : Touch :=
  match e.op with
  | 4 => { reads := [e.tile] }
  | 5 => { reads := [e.tile], images := [(e.ra.toNat, 49168)] }
  | 6 => { writes := [.whole e.tile], lines := [(e.ra.toNat, 49168)] }
  | 7 => { reads := [e.tile] }
  | 8 => if e.src = e.tile then { reads := [e.tile] } else { writes := [.whole e.tile], reads := [e.src] }
  | _ => if e.isLoop then
      { writes := [{ tile := e.tile, r1 := (e.operand 0).1.rows, c1 := (e.operand 1).1.rows }], lines := e.loopReads }
    else { writes := [.whole e.tile] }

/-- The class-9 entries of a core that are not complete. -/
def Core.mxOpen (c : Core) : List MxEntry := c.mq ++ c.loop.toList ++ c.port.toList

/-- The first tile of level k. -/
def SigDesc.start (x : SigDesc) (k : Nat) : Nat :=
  (List.range (k - 1)).foldl (fun a j => a + x.group (j + 1)) x.base

/-- The tiles of a descriptor. -/
def SigDesc.tileList (x : SigDesc) : List Nat := List.range' x.base x.tiles

/-- The elements of a descriptor's levels (R282). -/
def SigDesc.areas (x : SigDesc) : List Area := (List.range' 1 x.n).flatMap (fun k => areasOf (x.start k) (x.dim ^ k))

/-- The range that a step of a signature reads. -/
def SigEntry.reads (e : SigEntry) : List (Nat × Nat) := if e.scratch then [(e.ra.toNat, 4 * e.dx.dim)] else []

/-- What a signature entry touches: `sig.cfg` nothing, `sig.read` the tiles of its level, `sig.stat` those of the descriptor. -/
def SigEntry.touch (e : SigEntry) : Touch :=
  match e.op with
  | 0 => {}
  | 1 => { writes := e.dx.tileList.map Area.whole }
  | 3 => { writes := e.dx.areas, reads := e.dy.tileList, mixes := true }
  | 4 => { writes := e.dx.areas, reads := e.dy.tileList, mixes := true }
  | 6 => let lev := e.ra.toNat / 2 ^ 60
    if lev = 0 then {} else { reads := List.range' (e.dx.start lev) (e.dx.group lev) }
  | 7 => { reads := e.dx.tileList }
  | _ => { writes := e.dx.areas, lines := e.reads, mixes := true }

/-- Descriptor k of a core. -/
def Core.sd (c : Core) (k : Nat) : SigDesc := FMap.look c.desc {} k

/-- The state with a descriptor written. -/
def State.setDesc (s : State) (ck k : Nat) (x : SigDesc) : State :=
  s.setCore ck { s.core ck with desc := FMap.write (s.core ck).desc {} k x }

/-- L0 of a descriptor is written at dispatch. -/
def State.setL0 (s : State) (ck k : Nat) (v : Bool) : State := s.setDesc ck k { (s.core ck).sd k with l0 := v }

/-- The tiles of JD and SD that a launch's ordered join uses on a core: one that has posted and is not complete (R350). JD, SD and
JCORE stand in the last word of the binding (R343). -/
def Launch.joinTilesOn (x : Launch) (c : Core) (ck : Nat) : List Nat :=
  let w := (FMap.look x.lr 0 11).toNat
  if (FMap.look x.lr 0 8).toNat / 2 ^ 60 = 5 ∧ x.ctx * 1024 + w % 2 ^ 10 = ck ∧ x.posted ≠ [] ∧ x.complete = false ∧ x.killed = false then
    (c.sd (w / 2 ^ 14 % 4)).tileList ++ (c.sd (w / 2 ^ 12 % 4)).tileList
  else []

/-- The tiles that ordered joins in progress use on a core. -/
def State.joinTiles (s : State) (ck : Nat) : List Nat := s.launches.flatMap (fun e => e.2.joinTilesOn (s.core ck) ck)

/-! ### Errors in tiles (R232) -/

/-- The frame ranges of areas: one for each row. -/
def State.areaRanges (s : State) (ck : Nat) (l : List Area) : List (Nat × Nat) :=
  l.flatMap (fun a => (List.range' a.r0 (a.r1 - a.r0)).map (fun i => ((s.core ck).elemAt a.tile i a.c0, 12 * (a.c1 - a.c0))))

/-- A read of tile elements for an instruction: it corrects and counts soft errors; one in uncorrectable error is reported, once,
and what the instruction makes of it is unspecified (log 68). -/
def State.readAreas (s : State) (ck : Nat) (l : List Area) (o : Op) (eng : Nat) (known : Bool) : State × Bool :=
  if s.poison.isEmpty && s.soft.isEmpty then (s, false)
  else
    let rs := s.areaRanges ck l
    let t := rs.foldl (fun s r => s.correctFrame ck r.1 r.2) s
    match rs.findSome? (fun r => s.frameBad ck r.1 r.2) with
    | some off => (if known then t else t.report o 0x0F eng o.ex (BitVec.ofNat 64 off), true)
    | none => (t, false)

/-- The tile elements that a class-9 entry reads. -/
def MxEntry.readAreas (e : MxEntry) : List Area :=
  match e.op with
  | 2 => []
  | 4 =>
    let w := e.ra.toNat
    [{ tile := e.tile, r0 := w / 2 ^ 8 % 64, r1 := 64, c0 := w / 2 ^ 16 % 64, c1 := w / 2 ^ 16 % 64 + w / 2 ^ 24 % 128 }]
  | 6 => []
  | 7 => []
  | 8 => [.whole e.src]
  | _ => if e.isLoop then e.touch.writes else [.whole e.tile]

/-- The tile elements that a signature entry reads. -/
def SigEntry.readAreas (e : SigEntry) : List Area :=
  match e.op with
  | 0 => []
  | 1 => []
  | 3 => e.dx.areas ++ e.dy.areas
  | 4 => e.dx.areas ++ e.dy.areas
  | 6 => let lev := e.ra.toNat / 2 ^ 60
    if lev = 0 then [] else areasOf (e.dx.start lev) (e.dx.dim ^ lev)
  | 7 => []
  | _ => e.dx.areas

/-! ### Races (R270, R297; log 55) -/

/-- Whether scratchpad ranges touch one of some lines. -/
def onLines (l : List (Nat × Nat)) (lines : List Nat) : Bool := l.any (fun r => (linesOf r.1 r.2).any lines.contains)

/-- The lines of ranges. -/
def linesOfAll (l : List (Nat × Nat)) : List Nat := l.flatMap (fun r => linesOf r.1 r.2)

/-- Everything that an instruction touches, a tile that it reads as a whole. -/
def Touch.all (x : Touch) : List Area := x.writes ++ x.reads.map Area.whole

/-- What of an instruction ends unspecified when another touches the same tiles or its operand lines, unordered with it: in a
tile that both write, what either touches; where the other writes what it reads, all its results. What both only read
and what the other only reads end as if there were no race (the manual's cases beside R270 and R297 require it). -/
def Touch.meets (x y : Touch) : List Area :=
  let written (t : Nat) : Bool := y.writes.any (fun a => a.tile == t)
  let common := (x.writes.filter (fun a => written a.tile)) ++ y.writes.filter (fun a => x.writes.any (fun b => b.tile == a.tile))
  if x.reads.any written || (!x.lines.isEmpty && onLines x.lines (linesOfAll y.images)) || (x.mixes && !common.isEmpty) then
    x.all ++ common
  else common

/-- What of an earlier class-9 instruction a later one may meet unordered with it: a loop's everything, unless that is a loop or
`mx.stat`, which may show any moment of a loop (R278); what `mx.store` writes for a loop that reads it. Every other pair of the queue
runs in order (R268). -/
def MxEntry.after (e : MxEntry) (loop : Bool) (t : Touch) : Touch :=
  if loop then (if e.isLoop || e.op == 7 then {} else t)
  else if e.isLoop then { images := t.images } else {}

/-- A class-9 entry with areas marked as racing. -/
def MxEntry.race (e : MxEntry) (l : List Area) : MxEntry := if l.isEmpty then e else { e with raced := e.raced ++ l }

/-- A signature entry with areas marked as racing. -/
def SigEntry.race (e : SigEntry) (l : List Area) : SigEntry := if l.isEmpty then e else { e with raced := e.raced ++ l }

/-- Whether a tile of an entry races. -/
def racesOn (l : List Area) (tile : Nat) : Bool := l.any (fun a => a.tile == tile)

/-- Whether an accessor has observed a completed instruction: a bundle of the core itself, and anybody else once some bundle of
the core has. -/
def Unseen.seenBy (u : Unseen) (ser : Nat) (own : Bool) : Bool := if own then u.seen.contains ser else u.ended

/-- The engine instructions of a core that are not complete. -/
def Core.sigOpen (c : Core) : List SigEntry := c.sq ++ c.sgo.toList

/-- A register of a result whose value is unspecified; its sticky bits are none. -/
def State.freeReg (s : State) (mask : DWord) (w : RegW) : RegW :=
  match w with
  | .v n _ => .v n (BitVec.ofNat 32 (natOfBytes (s.freeBytes (2097152 + 4 * n) 4)))
  | .s n x => .s n ((x &&& ~~~mask) ||| (Config.freeStatus (s.tick * 64 + 62) &&& mask))
  | .sticky _ => .sticky 0
  | .m k v => .m k v

/-- The results that an operation has not landed yet become unspecified (R297). -/
def State.blurResults (s : State) (id : Nat) (mask : DWord) : State :=
  { s with ops := s.ops.map (fun o =>
      if o.id == id then { o with ws := o.ws.map (fun w => { w with ws := w.ws.map (s.freeReg mask) }) } else o) }

/-- The word of a record at an address becomes unspecified where it lies in the elements or status of a saved tile that races: an image
has 49,160 bytes before its reserved word (R277, R415). -/
def State.blurWord (s : State) (o : Op) (base : Nat) (bad : List Nat) (r : Req) : Req :=
  match r.act with
  | .st _ =>
    let x := r.addr - base
    if decide (base + 16 ≤ r.addr) && decide ((x - 16) % 0xC010 < 0xC008) &&
        bad.contains (o.tiles.getD ((x - 16) / 0xC010) 64) then
      { r with act := .st (natOfBytes (s.freeBytes x 8)) }
    else r
  | _ => r

/-- An engine instruction touches tiles that a save or load in progress names (R421): of a save, the images of tiles that it writes
become unspecified; of a load, those tiles; and the instruction's own part. -/
def State.meetRecords (s : State) (ck : Nat) (t : Touch) : State :=
  let tiles := t.writes.map (fun a => a.tile)
  { s with ops := s.ops.map (fun o =>
      if coreOfBundle o.bk == ck && o.tiles.any tiles.contains then
        let base := ((o.reqs.map (fun (r : Req) => r.addr)).getLast?).getD 0
        { o with raced := o.raced ++ o.tiles.filter tiles.contains
                 reqs := if o.opn = 0x1E then o.reqs.map (s.blurWord o base tiles) else o.reqs }
      else o) }

/-- What the loads and ordered joins in progress on a core write (R350, R421). -/
def State.othersWrite (s : State) (ck : Nat) : Touch :=
  { writes := (s.joinTiles ck ++ s.ops.flatMap (fun o =>
      if coreOfBundle o.bk == ck && o.cls == 6 && o.opn == 0x1F then o.tiles else [])).map Area.whole }

/-- The ordered joins of a core whose tiles an access writes end unspecified (R350). -/
def State.meetJoins (s : State) (ck : Nat) (t : Touch) : State :=
  { s with launches := s.launches.map (fun e =>
      if t.writes.any (fun a => (e.2.joinTilesOn (s.core ck) ck).contains a.tile) then (e.1, { e.2 with joinRaced := true }) else e) }

/-- The results of instructions whose registers have not landed: those of the signature engine, or of the tile port, that read
a tile which an access writes, unordered with them. -/
def State.blurPort (s : State) (ck : Nat) (t : Touch) : State :=
  match (s.core ck).port with
  | some e => if (e.op == 4 || e.op == 7) && !(e.touch.meets t).isEmpty then s.blurResults e.opId 0x7FFFF else s
  | none => s

/-- The same of the signature engine. -/
def State.blurSgo (s : State) (ck : Nat) (t : Touch) : State :=
  match (s.core ck).sgo with
  | some g => if !(g.touch.meets t).isEmpty then s.blurResults g.opId 7 else s
  | none => s

/-- What engine instructions in progress share with an access that is none of theirs ends unspecified, or is read so (R350,
R421). -/
def State.meetEngines (s : State) (ck : Nat) (t : Touch) : State :=
  let c := s.core ck
  let hit (e : MxEntry) : MxEntry := e.race (e.touch.meets t)
  ((s.setCore ck { c with mq := c.mq.map hit, loop := c.loop.map hit, port := c.port.map hit
                          sq := c.sq.map (fun g => g.race (g.touch.meets t)) }).blurPort ck t).blurSgo ck t

/-- What of an entry races with saves, loads and joins in progress, and the state in which their part is marked. -/
def State.meetOthers (s : State) (ck : Nat) (t : Touch) : State := (s.meetRecords ck t).meetJoins ck t

/-- An entry enters a core's matrix queue, and every race with it is marked (R270, R297). -/
def State.enqueueMx (s : State) (ck : Nat) (e : MxEntry) : State :=
  let c := s.core ck
  let t := e.touch
  let fresh := c.unseen.filter (fun u => !u.seenBy e.ser true)
  let hit (p : MxEntry) : MxEntry := if p.isLoop && !e.isLoop && e.op != 7 then p.race (p.touch.meets t) else p
  let hitSig (g : SigEntry) : SigEntry := g.race (g.touch.meets t)
  let mine := c.mxOpen.flatMap (fun p => t.meets (e.after p.isLoop p.touch)) ++ c.sigOpen.flatMap (fun g => t.meets g.touch) ++
    fresh.flatMap (fun u => t.meets (if u.sig then u.touch else e.after u.loop u.touch)) ++ t.meets (s.othersWrite ck)
  let done := (fresh.filter (fun u => onLines u.touch.lines (linesOfAll t.images))).flatMap (fun u => u.touch.writes)
  let old := c.stale.filter (fun r => onLines t.lines (linesOf r.1 r.2.length))
  ((((s.setCore ck { c with mq := c.mq.map hit ++ [{ e.race mine with old := old }], loop := c.loop.map hit
                            sq := c.sq.map hitSig }).blurSgo ck t).meetOthers ck t).blurAreas ck done)

/-- An entry enters a core's signature queue, and every race with it is marked (R297). -/
def State.enqueueSig (s : State) (ck : Nat) (g : SigEntry) : State :=
  let c := s.core ck
  let t := g.touch
  let fresh := c.unseen.filter (fun u => !u.sig && !u.seenBy g.ser g.coll.isNone)
  let hit (e : MxEntry) : MxEntry := e.race (e.touch.meets t)
  let mine := c.mxOpen.flatMap (fun e => t.meets e.touch) ++ fresh.flatMap (fun u => t.meets u.touch) ++
    (if g.coll.isSome then [] else t.meets (s.othersWrite ck))
  let old := c.stale.filter (fun r => onLines t.lines (linesOf r.1 r.2.length))
  let s := (s.setCore ck { c with sq := c.sq ++ [{ g.race mine with old := old }], mq := c.mq.map hit, loop := c.loop.map hit
                                  port := c.port.map hit }).blurPort ck t
  if g.coll.isSome then s else s.meetOthers ck t

/-- Whether nothing of a core's engines is unfinished or unobserved. -/
def Core.enginesIdle (c : Core) : Bool := c.mxOpen.isEmpty && c.sq.isEmpty && c.unseen.isEmpty

/-- The pieces of a scratchpad range that lie on lines that are present, with the bytes that stand there. -/
def State.presentBytes (s : State) (ck lo n : Nat) : List (Nat × List Byte) :=
  ((linesOf lo n).filter (FMap.look (s.core ck).tagV true)).map (fun k =>
    let a := max lo (256 * k)
    (a, s.spRead ck a (min (lo + n) (256 * k + 256) - a)))

/-- What was there before a bundle's store is kept until an `opfence` (R55), where the core has tiles, so that an engine may
read it. -/
def State.keepOld (s : State) (ck lo n : Nat) : State :=
  if (s.core ck).tiles = 0 then s
  else s.setCore ck { s.core ck with stale := s.presentBytes ck lo n ++ (s.core ck).stale }

/-- A bundle stores to some lines that are present, or changes their tags: what engine instructions that read them touch
ends unspecified, and so does the image of an `mx.store` there. A line that is absent is held from them by its tag
(R269). `own`: the bundle with that serial number is of the core. -/
def State.touchLines (s : State) (ser : Nat) (own : Bool) (ck lo n : Nat) : State :=
  let c := s.core ck
  if c.enginesIdle then s
  else
    let lines := (linesOf lo n).filter (FMap.look c.tagV true)
    let bad (t : Touch) : List Area := if onLines t.lines lines || onLines t.images lines then t.all else []
    let hit (e : MxEntry) : MxEntry := e.race (bad e.touch)
    let hitSig (g : SigEntry) : SigEntry := g.race (bad g.touch)
    let done := (c.unseen.filter (fun u => !u.seenBy ser own && onLines u.touch.lines lines)).flatMap (fun u => u.touch.writes)
    (s.setCore ck { c with mq := c.mq.map hit, loop := c.loop.map hit, port := c.port.map hit, sq := c.sq.map hitSig }).blurAreas ck done

/-- A bundle's bytes come to a core's scratchpad. -/
def State.storeLines (s : State) (ser : Nat) (own : Bool) (ck lo n : Nat) : State := (s.keepOld ck lo n).touchLines ser own ck lo n

/-- A target takes a bundle's bytes: those of a pool touch lines. -/
def State.touchTarget (s : State) (o : Op) (t : Target) (n : Nat) : State :=
  match t with
  | .sp ck x => s.storeLines o.ser (coreOfBundle o.bk == ck) ck x n
  | _ => s

/-- A completed entry that names a barrier owes its engine arrival (R207, R271): ENGINE_ARRIVAL makes it. -/
def State.mxArrive (s : State) (ck : Nat) (e : MxEntry) : State :=
  match e.bar with
  | none => s
  | some (k, p) =>
    { s.setCore ck { s.core ck with unseen := (s.core ck).unseen ++
        [{ touch := e.touch, bar := k, phase := p, loop := e.isLoop, ser := e.ser }] } with
      ops := s.ops ++ [{ e.asOp with fin := .arrive k p }] }

/-- The areas that an instruction writes and that race end unspecified (R270). -/
def State.blurRaced (s : State) (ck : Nat) (t : Touch) (l : List Area) : State :=
  s.blurAreas ck (l.filter (fun a => t.writes.any (fun b => b.tile == a.tile)))

end Sys2Proof.Machine
end

