-- ==== Sys2Proof/Machine/Control.lean ====
section
/-! DEFINITION. Clause headers (R104 to R108) and class 4 (R192 to R200): control transfers, `rejoin`, `exit`,
`kill`, traps, `yield`, `sleep`, `nop` and `halt`. After every class-4 instruction the Chanter chooses the next
path (R74, R194). -/

namespace Sys2Proof.Machine

/-- The word of a clause header (R104). -/
def headerWord (w : BitVec 12) (a b : BitVec 4) (l : BitVec 6) : Word :=
  BitVec.ofNat 32 (w.toNat * 2 ^ 14 + a.toNat * 2 ^ 10 + b.toNat * 2 ^ 6 + l.toNat)

/-- Flags are tested (R335): errors of copies that counted on them are posted first, and whether a record is then to
be taken before the path goes on. -/
def State.testFlags (s : State) (bk mask : Nat) : State × Bool :=
  let b := s.bundle bk
  let t := s.postErrors bk b.ser (fun r => r.onFlags mask)
  (t, decide (t.xerrs.length < s.xerrs.length) && b.hidden.isNone && !(t.bundle bk).pend.isEmpty)

/-- A clause begins (R104, R108): a thread enters it when the clause's flags are zero or were so when it waited for
them; the path's other threads wait. -/
def execClauseHeader (w : BitVec 12) (a b : BitVec 4) (l : BitVec 6) (s : State) : Host.Outcome State Fault Refusal :=
  s.onBundle (fun bk _ =>
    let r := { s with issuing := none }.testFlags bk w.toNat
    let s := r.1
    let bd := s.bundle bk
    let go (th : Thread) : Thread :=
      let th := { th with hdr := headerWord w a b l }
      if bd.flagsZero w.toNat || th.tested then th.begins else { th with cond := .flags w.toNat, released := true }
    if r.2 then s else s.setBundle bk (bd.mapThreads bd.active go).rechoose)

/-- Choose the next path of a bundle that is still resident (R74). -/
def State.choosePath (s : State) (bk : Nat) : State :=
  if (s.bundle bk).ser = 0 then s else s.setBundle bk (s.bundle bk).choose

/-- The word after the unit at the path's PC. -/
def Bundle.next (b : Bundle) (x : Enc) : Word := b.pc + BitVec.ofNat 32 (unitLen x)

/-- The target of an offset (R194). -/
def Bundle.target (b : Bundle) (x : Enc) : Word := b.pc + ctlOffset x

/-- A thread at a transfer's target: what it reaches is decoded as a header (R106). -/
def Thread.goto (th : Thread) (p : Word) : Thread := { th with pc := p, clo := 0, released := false, tested := false }

/-- The threads of a mask transfer, each to its own target when it has one; the path's other threads go on. -/
def Bundle.transfer (b : Bundle) (x : Enc) (dest : Nat → Option Word) : Bundle :=
  { b with thr := b.thr.map (fun (e : Nat × Thread) =>
      if hasBit b.active e.1 then
        match dest e.1 with
        | some p => (e.1, e.2.goto p)
        | none => (e.1, e.2.advance (unitLen x))
      else e) }.choose

/-- A control transfer of a bundle (R195). -/
def State.ctl (s : State) (i : Instr) (x : Enc) (f : Bundle → Bundle) : Host.Outcome State Fault Refusal :=
  s.onUnit i x (fun bk b => { s.setBundle bk (f b) with issuing := none })

/-- `jmp` (R195). -/
def execJmp (x : Enc) (s : State) : Host.Outcome State Fault Refusal :=
  s.ctl (.jmp x) x (fun b => b.transfer x (fun _ => some (b.target x)))

/-- `br` (R195). -/
def execBr (x : Enc) (s : State) : Host.Outcome State Fault Refusal :=
  s.ctl (.br x) x (fun b => b.transfer x (fun t =>
    if hasBit (b.executing x) t && hasBit (b.mreg x.d.toNat) t then some (b.target x) else none))

/-- `bru` (R195): all 64 bits are tested. -/
def execBru (x : Enc) (s : State) : Host.Outcome State Fault Refusal :=
  s.ctl (.bru x) x (fun b => b.transfer x (fun _ =>
    if b.sreg x.d.toNat != 0 then some (b.target x) else none))

/-- `brx` (R195). -/
def execBrx (x : Enc) (s : State) : Host.Outcome State Fault Refusal :=
  s.ctl (.brx x) x (fun b => b.transfer x (fun t =>
    if hasBit (b.executing x) t then some (b.vreg t x.a.toNat) else none))

/-- `call` (R195): the link is the word after the unit. -/
def execCall (x : Enc) (s : State) : Host.Outcome State Fault Refusal :=
  s.ctl (.call x) x (fun b =>
    if x.u then (b.setSreg x.d.toNat ((b.next x).zeroExtend 64)).transfer x (fun _ => some (b.target x))
    else ((bitsOf (b.executing x)).foldl (fun c t => c.setVreg t x.d.toNat (b.next x)) b).transfer x (fun t =>
      if hasBit (b.executing x) t then some (b.target x) else none))

/-- `callx` (R195): the target is read before the link is written. -/
def execCallx (x : Enc) (s : State) : Host.Outcome State Fault Refusal :=
  s.ctl (.callx x) x (fun b =>
    ((bitsOf (b.executing x)).foldl (fun c t => c.setVreg t x.d.toNat (b.next x)) b).transfer x (fun t =>
      if hasBit (b.executing x) t then some (b.vreg t x.a.toNat) else none))

/-- `ret` (R195). -/
def execRet (x : Enc) (s : State) : Host.Outcome State Fault Refusal :=
  s.ctl (.ret x) x (fun b =>
    if x.u then b.transfer x (fun _ => some ((b.sreg x.a.toNat).truncate 32))
    else b.transfer x (fun t => if hasBit (b.executing x) t then some (b.vreg t x.a.toNat) else none))

/-- `loop` (R195): a count of 0 wraps and branches. -/
def execLoop (x : Enc) (s : State) : Host.Outcome State Fault Refusal :=
  s.ctl (.loop x) x (fun b =>
    let n := b.sreg x.d.toNat - 1
    (b.setSreg x.d.toNat n).transfer x (fun _ => if n != 0 then some (b.target x) else none))

/-- One thread's part of `rejoin` (R75). -/
def Bundle.rejoinThread (b : Bundle) (l : Word) (t : Nat) : Bundle :=
  let th := b.thread t
  let c := b.setVreg t (b.allot - 1 - th.depth) th.meet
  let c := c.mapThreads (bitMask t) (fun th => { th with meet := l, depth := th.depth + 1 })
  c.setFamily (th.depth + 1) (b.family (th.depth + 1) ||| bitMask t)

/-- `rejoin` (R75, R197): depth D traps 0x0D before any change. -/
def execRejoin (x : Enc) (s : State) : Host.Outcome State Fault Refusal :=
  s.onUnit (.rejoin x) x (fun bk b =>
    let ex := bitsOf (b.executing x)
    if ex.any (fun t => (b.thread t).depth == b.dmax) then s.trapSync bk 0x0D b.dmax
    else
      let c := ex.foldl (fun c t => c.rejoinThread (b.target x) t) b
      { s.setBundle bk (c.advance (unitLen x)).choose with issuing := none })

/-- Threads of the bundle die and the others of the path go on (R78, R198). -/
def State.passKill (s : State) (bk : Nat) (b : Bundle) (x : Enc) (m : DWord) : State :=
  ((s.retire bk b x).killThreads bk m).choosePath bk

/-- `exit` (R198). -/
def execExit (x : Enc) (s : State) : Host.Outcome State Fault Refusal :=
  s.onUnit (.exit x) x (fun bk b => s.passKill bk b x (b.executing x))

/-- The threads that `kill` makes dead (R198): the live ones whose bit is 1; m0 is the active set. The active threads
outside the mask go on as if the instruction were absent, and it is absent where no thread executes (R65, R192). -/
def Bundle.killed (b : Bundle) (x : Enc) : DWord :=
  if b.executing x = 0 then 0 else b.mreg x.d.toNat &&& b.live &&& ~~~(b.active &&& ~~~b.executing x)

/-- `kill` (R192, R198). -/
def execKill (x : Enc) (s : State) : Host.Outcome State Fault Refusal :=
  s.onUnit (.kill x) x (fun bk b => s.passKill bk b x (b.killed x))

/-- `trap` (R199): kind 2, resuming at the word after the unit. -/
def execTrap (x : Enc) (s : State) : Host.Outcome State Fault Refusal :=
  s.onUnit (.trap x) x (fun bk b =>
    s.takeTrap bk (ctlCode x) 2 b.pc (b.next x) ((b.thread b.lead).advance (unitLen x)).clo 1 0 b.active 0)

/-- `tret` (R199, R225): below priority 4 it traps 0x01. -/
def execTret (x : Enc) (s : State) : Host.Outcome State Fault Refusal :=
  s.onUnit (.tret x) x (fun bk b =>
    if b.hidden.isNone then s.trapSync bk 0x01 0
    else { s.setBundle bk b.leave.choose with issuing := none })

/-- The turn at a level of a bundle's lane moves past the bundle (R71). -/
def State.turnAt (s : State) (bk prio : Nat) : State :=
  if isFw bk then s
  else
    let ck := coreOfBundle bk
    let c := s.core ck
    s.setCore ck { c with rr := FMap.put c.rr (8 * laneOfBundle bk + prio) ((slotOfBundle bk + 1) % 8) }

/-- The turn at a bundle's level moves past it (R71, R200). -/
def State.turnPast (s : State) (bk : Nat) : State := s.turnAt bk (s.bundle bk).prio

/-- A unit without effect beyond its passage, then a choice of path (R194, R200). -/
def State.passOn (s : State) (bk : Nat) (b : Bundle) (x : Enc) : State := (s.retire bk b x).choosePath bk

/-- `yield` (R200). -/
def execYield (x : Enc) (s : State) : Host.Outcome State Fault Refusal :=
  s.onUnit (.yield x) x (fun bk b => (s.passOn bk b x).turnPast bk)

/-- The cycles that count for a bundle's `sleep` and that `clk #1` returns: those its context has run (R200, R229).
DESIGN CHOICE (log 81): for a firmware core, which has no context, the package's. -/
def State.activeCycles (s : State) (bk : Nat) : Nat := if isFw bk then s.cycle else (s.ctx (ctxOfBundle bk)).active

/-- `sleep` (R200): `sleep #0` behaves as `yield`. -/
def execSleep (x : Enc) (s : State) : Host.Outcome State Fault Refusal :=
  s.onUnit (.sleep x) x (fun bk b =>
    if ctlCode x = 0 then (s.passOn bk b x).turnPast bk
    else
      let till := s.activeCycles bk + 256 * ctlCode x
      { s.setBundle bk ((b.advance (unitLen x)).mapThreads b.active (fun th => { th with cond := .sleep till })).choose
        with issuing := none })

/-- `nop` (R200). -/
def execNop (x : Enc) (s : State) : Host.Outcome State Fault Refusal :=
  s.onUnit (.nop x) x (fun bk b => s.passOn bk b x)

/-- `halt` (R438): a firmware core stops after its outstanding operations; on a compute core it traps 0x01
(R18). -/
def execHalt (x : Enc) (s : State) : Host.Outcome State Fault Refusal :=
  s.onUnit (.halt x) x (fun bk b =>
    match b.fw with
    | none => s.trapSync bk 0x01 0
    | some _ =>
      if s.ops.any (fun o => o.ser == b.ser) then s.stall else (s.retire bk b x).fwHalt bk false)

end Sys2Proof.Machine
end

