-- ==== Sys2Proof/Machine/Local.lean ====
section
/-! DEFINITION. Class 5 (R231 to R248): scratchpad loads and stores, line tags, `plane`, `unplane` and `zero.l`,
with the service of a bank; and the rows of a tile in element and planes layout (R151, R152, R243). -/

namespace Sys2Proof.Machine

/-! ### Hand-off of accesses -/

/-- Whether the function's HBM and fabric budgets allow a hand-off (R403). -/
def State.budgetsAdmit (s : State) (bk : Nat) : Bool :=
  isFw bk || (s.admits (ctxOfBundle bk) 1 && s.admits (ctxOfBundle bk) 2)

/-- A hand-off of classes 5, 6, 7 and 11, which the function's budgets throttle (R403). -/
def State.onCharged (s : State) (i : Instr) (x : Enc) (f : Nat → Bundle → State) : Host.Outcome State Fault Refusal :=
  s.onLong i x (fun bk b => if s.budgetsAdmit bk then f bk b else s.stall)

/-- The size of an access by its type (R244). -/
def widthOf (x : Enc) : Nat := if x.ty = 0 then 4 else if x.ty = 1 then 8 else if x.ty = 2 then 2 else 1

/-- The data that a store of a party takes (R245). -/
def Bundle.storeData (b : Bundle) (x : Enc) (t n : Nat) : Nat :=
  if t = 64 then (b.sreg x.d.toNat).toNat % 2 ^ (8 * n)
  else (b.vget (decide (n = 8)) t x.d.toNat).toNat % 2 ^ (8 * n)

/-- Number the requests of an operation. -/
def numbered (l : List Req) : List Req := (List.range l.length).zipWith (fun i r => { r with uid := i }) l

/-- The zeros that zeroing writes for masked threads of a load of n bytes (R96, R245). -/
def Bundle.zeroWrites (b : Bundle) (x : Enc) (n : Nat) : List WB :=
  if x.u then [] else (bitsOf (b.zeroed x)).map (fun t =>
    { t := t, ws := (List.range ((n + 3) / 4)).map (fun i => .v (x.d.toNat + i) 0) })

/-- Hand an operation with requests off; one with nothing to do completes at once. -/
def State.handAccess (s : State) (bk : Nat) (b : Bundle) (x : Enc) (cls opn ord lvl : Nat) (reqs : List Req)
    (ws : List WB) : State :=
  let id := s.nextId
  (s.handOff bk b x { id := 0, bk := bk, ser := 0, cls := cls, opn := opn, flag := none, upc := 0,
                      ex := if x.u then b.active else b.executing x, reqs := numbered reqs, ws := ws,
                      ord := ord, lvl := lvl }).completeOp id

/-- The first fault of the parties of an access of n bytes, by a test of an address (R42, R231, R250). -/
def accessFault (ps : List (Nat × Nat)) (n : Nat) (bounds : Nat → Bool) : Option (Nat × Nat) :=
  ps.findSome? (fun (p : Nat × Nat) =>
    if p.2 % n ≠ 0 then some (0x03, p.2) else if bounds p.2 then none else some (0x05, p.2))

/-- Whether every line of an access is present (R239). -/
def State.present (s : State) (ck x n : Nat) : Bool := (linesOf x n).all (FMap.look (s.core ck).tagV true)

/-- A scratchpad access of class 5: checked for every thread before any request (R231, R245). A block access is two
requests (R233). -/
def State.localAccess (s : State) (i : Instr) (x : Enc) (n opn : Nat) (read : Bool)
    (act : Bundle → Nat → Nat → Act) : Host.Outcome State Fault Refusal :=
  s.onCharged i x (fun bk b =>
    let ck := coreOfBundle bk
    let ps := b.parties x
    match accessFault ps n (fun a => s.inSp ck a n) with
    | some f => s.trapSync bk f.1 f.2
    | none =>
      let part := min n 8
      let reqs := ps.flatMap (fun (p : Nat × Nat) => (List.range (n / part)).map (fun k =>
        { uid := 0, t := p.1, stage := .pass, act := act b p.1 k,
          addr := p.2 + 8 * k, n := part : Req }))
      s.handAccess bk b x 5 opn 0 0 reqs (if read then b.zeroWrites x n else []))

/-- `ld.l` (R245). -/
def execLdL (x : Enc) (s : State) : Host.Outcome State Fault Refusal :=
  s.localAccess (.ldL x) x (widthOf x) 0 true (fun _ _ _ => .ld x.d.toNat x.u)

/-- `st.l` (R245). -/
def execStL (x : Enc) (s : State) : Host.Outcome State Fault Refusal :=
  s.localAccess (.stL x) x (widthOf x) 1 false (fun b t _ => .st (b.storeData x t (widthOf x)))

/-- `ldb.l` (R245). -/
def execLdbL (x : Enc) (s : State) : Host.Outcome State Fault Refusal :=
  s.localAccess (.ldbL x) x 16 2 true (fun _ _ k => .ld (x.d.toNat + 2 * k) false)

/-- `stb.l` (R245). -/
def execStbL (x : Enc) (s : State) : Host.Outcome State Fault Refusal :=
  s.localAccess (.stbL x) x 16 3 false (fun b t k => .st (b.vpair t (x.d.toNat + 2 * k)).toNat)

/-! ### The passage of a lane (R15, R66, R234, R239, R303) -/

/-- Whether two bundles share their home lane; a firmware core has one of its own. -/
def sameLane (bk bj : Nat) : Bool := if isFw bk then bk == bj else !isFw bj && bk / 8 == bj / 8

/-- Whether a passage that is not over holds the lane of a bundle (R15, R66). -/
def State.laneHeld (s : State) (bk : Nat) : Bool :=
  s.ops.any (fun o => sameLane bk o.bk && o.reqs.any (fun r => r.stage == .pass))

/-- Whether the lane of a bundle may act in this cycle: the lanes of a core act in ascending order within one (R16). -/
def State.laneReady (s : State) (bk : Nat) : Bool :=
  isFw bk || decide ((s.core (coreOfBundle bk)).acted ≤ 64 * s.cycle + laneOfBundle bk)

/-- The lane of a bundle has acted in this cycle. -/
def State.laneActs (s : State) (bk : Nat) : State :=
  if isFw bk then s
  else s.setCore (coreOfBundle bk) { s.core (coreOfBundle bk) with acted := 64 * s.cycle + laneOfBundle bk + 1 }

/-- Whether two operations make their scratchpad requests at one port (R233). -/
def samePort (p o : Op) : Bool :=
  p.cls == 5 && o.cls == 5 && coreOfBundle p.bk == coreOfBundle o.bk && laneOfBundle p.bk / 8 == laneOfBundle o.bk / 8

/-- The requests in a bank's queue at the port of an operation. -/
def State.bankQueue (s : State) (o : Op) (bank : Nat) : Nat :=
  (s.ops.map (fun p => if samePort p o then
    (p.reqs.filter (fun q => q.stage == .queued && q.banks.contains bank)).length else 0)).sum

/-- The return slots in use on the lane of a bundle (R303). -/
def State.slotsUsed (s : State) (bk : Nat) : List Nat :=
  (s.ops.filter (fun o => sameLane bk o.bk)).flatMap (fun o => o.reqs.map (fun r => r.slot) ++ o.ws.map (fun w => w.slot))

/-- The lowest free return slot of a lane, of 128 (R303). -/
def State.freeSlot (s : State) (bk : Nat) : Option Nat :=
  (List.range' 1 128).find? (fun k => !(s.slotsUsed bk).contains k)

/-- Whether a class-7 request takes a return slot: its instruction writes a register (R303). -/
def Req.takesSlot (r : Req) : Bool :=
  match r.act with
  | .home op .. => decide (op ≤ 7) || op == 0x0C || op == 0x0F || op == 0x10
  | _ => false

/-- Where a request goes as its thread passes: into its bank's queue, or out of it where it is a read of an absent line
(R234, R239, R240); to its translation from the other classes. -/
def State.passStage (s : State) (o : Op) (r : Req) : Stage :=
  if o.cls ≠ 5 then .walk
  else match r.act with
    | .tag 2 _ => .held
    | .ld .. => if s.present (coreOfBundle o.bk) r.addr r.n then .queued else .held
    | .plane .. => if s.present (coreOfBundle o.bk) r.addr r.n then .queued else .held
    | _ => .queued

/-- Whether a request finds room: a bank's queue at a port holds 16 requests (R234). -/
def State.hasRoom (s : State) (o : Op) (r : Req) : Bool :=
  if s.passStage o r == .queued then r.banks.all (fun k => decide (s.bankQueue o k < 16))
  else !r.takesSlot || (s.freeSlot o.bk).isSome

/-- The requests of the thread of an operation that passes its lane next. -/
def Op.passing (o : Op) : List Req :=
  match o.reqs.find? (fun r => r.stage == .pass) with
  | none => []
  | some r => o.reqs.filter (fun q => q.stage == .pass && q.t == r.t)

/-- Whether the next thread of an operation may pass its lane (R15). -/
def State.mayPass (s : State) (o : Op) : Bool :=
  !o.passing.isEmpty && s.runs o.bk && s.laneReady o.bk && !s.endingSlice o.bk && o.passing.all (s.hasRoom o)

/-- The next thread of an operation passes its lane: its requests are sent (R66, R234, R303). -/
def State.passThread (s : State) (o : Op) : State :=
  let go (r : Req) : Req := { r with
    stage := s.passStage o r
    seq := s.nextId
    slot := if r.takesSlot then (s.freeSlot o.bk).getD 0 else 0 }
  let mine := o.passing
  let t := { s.laneActs o.bk with nextId := s.nextId + 1 }.putOp
    { o with reqs := o.reqs.map (fun r => if mine.contains r then go r else r) }
  let b := t.bundle o.bk
  if mine.any (fun r => (go r).parks) && b.ser == o.ser then t.setBundle o.bk { b with held := true } else t

/-- The event of a lane that passes the next thread of an operation. -/
def passMove (op : Nat) (s : State) : Host.Outcome State Fault Refusal :=
  .next (match s.op? op with
    | none => s
    | some o => if s.mayPass o then s.passThread o else s)

/-! ### Line tags -/

/-- A tag instruction: it acts on the line that holds its address (R246). `tag.set` and `tag.clr` are releases
(R241). -/
def State.tagOp (s : State) (i : Instr) (x : Enc) (opn kind ord : Nat) :
    Host.Outcome State Fault Refusal :=
  s.onCharged i x (fun bk b =>
    let a := (b.address x 0).toNat
    if s.inSp (coreOfBundle bk) a 1 then
      s.handAccess bk b x 5 opn ord 1
        [{ uid := 0, t := 64, stage := .pass, act := .tag kind x.d.toNat, addr := a / 256 * 256, n := 256 }] []
    else s.trapSync bk 0x05 a)

/-- `tag.clr` (R238, R246). -/
def execTagClr (x : Enc) (s : State) : Host.Outcome State Fault Refusal := s.tagOp (.tagClr x) x 4 0 2

/-- `tag.set` (R238, R246). -/
def execTagSet (x : Enc) (s : State) : Host.Outcome State Fault Refusal := s.tagOp (.tagSet x) x 5 1 2

/-- `tag.wc` (R240). -/
def execTagWc (x : Enc) (s : State) : Host.Outcome State Fault Refusal := s.tagOp (.tagWc x) x 6 2 0

/-! ### Rows of tiles (R151, R152, R243) -/

/-- The 32-bit words of bytes. -/
def wordsOf (fuel : Nat) (l : List Byte) : List Nat :=
  match fuel with
  | 0 => []
  | n + 1 => natOfBytes (l.take 4) :: wordsOf n (l.drop 4)

/-- A number whose bit k is bit j of the k-th word. -/
def bitColumn (ws : List Nat) (j : Nat) : Nat := ws.foldr (fun w n => w / 2 ^ j % 2 + 2 * n) 0

/-- The code of column j of a chunk from its words: 0 where the bitmap bit is 0 (R243, R247). -/
def codeOfPlanes (f : Fmt) (ws : List Nat) (j : Nat) : Nat :=
  if ws.headD 0 / 2 ^ j % 2 = 0 then 0
  else
    let r := ws.drop 1
    if f.e = 0 then bitColumn (r.take f.w) j
    else
      let sg := if f.s = 1 then bitColumn (r.take 1) j else 0
      let r := r.drop f.s
      bitColumn ((r.drop f.e).take f.m) j + 2 ^ f.m * bitColumn (r.take f.e) j + 2 ^ (f.m + f.e) * sg

/-- A word whose bit j is a bit of the j-th code. -/
def planeWord (codes : List Nat) (bit : Nat → Bool) : Nat := codes.foldr (fun c n => (if bit c then 1 else 0) + 2 * n) 0

/-- The words of a chunk from its codes (R243). -/
def planesOfCodes (f : Fmt) (codes : List Nat) : List Nat :=
  let nonzero (c : Nat) : Bool := match f.decodeNarrow c with
    | .fin _ 0 _ => false
    | _ => true
  let b (k : Nat) : Nat := planeWord codes (fun c => c / 2 ^ k % 2 == 1)
  let head := planeWord codes nonzero
  if f.e = 0 then head :: (List.range f.w).map b
  else
    head :: (if f.s = 1 then [b (f.m + f.e)] else []) ++ (List.range f.e).map (fun k => b (f.m + k)) ++
      (List.range f.m).map b ++ [planeWord codes (fun c => c / 2 ^ f.m % 2 ^ f.e != 0)]

/-- The codes of a row in element layout (R151). -/
def Tid.codesOfRow (t : Tid) (l : List Byte) : List Nat :=
  let v := natOfBytes l
  (List.range t.cols).map (fun j => bitField v (j * t.f.container) t.f.codeBits)

/-- The codes of a row in planes layout (R243). -/
def Tid.codesOfPlanes (t : Tid) (l : List Byte) : List Nat :=
  (List.range t.cols).map (fun j =>
    codeOfPlanes t.f (wordsOf t.f.planes (l.drop (j / 32 * t.f.planes * 4))) (j % 32))

/-- The bytes of a row in element layout: each code in its container, every other bit 0 (R151, R247). -/
def Tid.rowOfCodes (t : Tid) (codes : List Nat) : List Byte :=
  bytesOfNat t.rowBytes (codes.foldr (fun c n => c % 2 ^ t.f.codeBits + 2 ^ t.f.container * n) 0)

/-- The codes of a chunk of 32 columns, 0 past the last column. -/
def chunkOf (codes : List Nat) (q : Nat) : List Nat :=
  let l := (codes.drop (32 * q)).take 32
  l ++ List.replicate (32 - l.length) 0

/-- The bytes of a row in planes layout (R243). -/
def Tid.planesOfRow (t : Tid) (codes : List Nat) : List Byte :=
  (List.range ((t.cols + 31) / 32)).flatMap (fun q =>
    (planesOfCodes t.f (chunkOf codes q)).flatMap (bytesOfNat 4))

/-- The codes of row i of a tile in the scratchpad, in whichever layout. -/
def State.tileRow (s : State) (ck : Nat) (t : Tid) (base i : Nat) : List Nat :=
  let l := s.spRead ck (base + i * t.stride) t.rowBytes
  if t.lay = 1 then t.codesOfPlanes l else t.codesOfRow l

/-! ### `plane`, `unplane` and `zero.l` -/

/-- What makes a conversion's identifiers unfit: the number of one that is (R247). DESIGN CHOICE (log 88): where FMT, ROWS
or COLS differ or the extents overlap, it is the destination's number. -/
def planeFault (un : Bool) (ns nd : Nat) (vs vd : BitVec 128) (sb db : Nat) : Option Nat :=
  let a := tidOf vs
  let d := tidOf vd
  let lay := if un then 1 else 0
  if !a.valid || a.lay != lay || a.f.kind != 0 then some ns
  else if !d.valid || d.lay == lay || d.f.kind != 0 then some nd
  else if a.fmt % 2 ^ 18 ≠ d.fmt % 2 ^ 18 ∨ a.rows ≠ d.rows ∨ a.cols ≠ d.cols then some nd
  else if sb < db + d.extent ∧ db < sb + a.extent then some nd
  else none

/-- `plane` and `unplane` at hand-off (R247). -/
def State.planeOp (s : State) (i : Instr) (x : Enc) (opn : Nat) (un : Bool) : Host.Outcome State Fault Refusal :=
  s.onCharged i x (fun bk b =>
    let ck := coreOfBundle bk
    let w := (b.sreg x.b.toNat).toNat
    let ns := w % 256
    let nd := w / 256 % 256
    let vs := FMap.look (s.core ck).tid 0 ns
    let vd := FMap.look (s.core ck).tid 0 nd
    let sb := (b.sreg x.a.toNat).toNat
    let db := (b.sreg x.d.toNat).toNat
    match planeFault un ns nd vs vd sb db with
    | some n => s.trapSync bk 0x09 n
    | none =>
      if sb % 4 ≠ 0 then s.trapSync bk 0x03 sb
      else if db % 4 ≠ 0 then s.trapSync bk 0x03 db
      else if !s.inSp ck sb (tidOf vs).extent then s.trapSync bk 0x05 sb
      else if !s.inSp ck db (tidOf vd).extent then s.trapSync bk 0x05 db
      else
        s.handAccess bk b x 5 opn 0 0
          [{ uid := 0, t := 64, stage := .pass, act := .plane un vs vd sb db,
             addr := sb, n := (tidOf vs).extent }] [])

/-- `plane` (R247). -/
def execPlane (x : Enc) (s : State) : Host.Outcome State Fault Refusal := s.planeOp (.plane x) x 7 false

/-- `unplane` (R247). -/
def execUnplane (x : Enc) (s : State) : Host.Outcome State Fault Refusal := s.planeOp (.unplane x) x 8 true

/-- `zero.l` (R248). DESIGN CHOICE (log 88): the address is checked before the count, and where only the count is no
multiple of 8, s63 holds the count. -/
def execZeroL (x : Enc) (s : State) : Host.Outcome State Fault Refusal :=
  s.onCharged (.zeroL x) x (fun bk b =>
    let a := (b.address x 0).toNat
    let n := (b.sreg x.d.toNat).toNat
    if a % 8 ≠ 0 then s.trapSync bk 0x03 a
    else if n % 8 ≠ 0 then s.trapSync bk 0x03 n
    else if n = 0 then s.handAccess bk b x 5 9 0 0 [] []
    else if !s.inSp (coreOfBundle bk) a n then s.trapSync bk 0x05 a
    else s.handAccess bk b x 5 9 0 0 [{ uid := 0, t := 64, stage := .pass, act := .zero, addr := a, n := n }] [])

/-- The conversion of a whole tile (R247). -/
def State.convertTile (s : State) (ck : Nat) (un : Bool) (src dst : Tid) (sb db : Nat) : State :=
  (List.range src.rows).foldl (fun s i =>
    let codes := s.tileRow ck src sb i
    s.spWrite ck (db + i * dst.stride) (if un then dst.rowOfCodes codes else dst.planesOfRow codes)) s

/-! ### The service of a bank (R234, R240) -/

/-- The `tag.wc` that stands first on a line: the earliest to issue, one that has not passed its lane yet included; hand-offs
of one cycle are listed by their lanes (R16, R240). -/
def State.firstWc (s : State) (ck line : Nat) : Option Nat :=
  (s.ops.find? (fun o => o.cls == 5 && coreOfBundle o.bk == ck && s.runs o.bk && o.reqs.any (fun r =>
    r.addr == line && r.isWc))).map (fun o => o.id)

/-- Whether a tag instruction may act on its line in this cycle: those of one cycle take effect in ascending order of home
lane (R16, R241). -/
def State.tagInOrder (s : State) (o : Op) (r : Req) : Bool :=
  !(r.isTag || r.isWc) ||
    decide (FMap.look (s.core (coreOfBundle o.bk)).tagAt 0 (r.addr / 256) ≤ 64 * s.cycle + laneOfBundle o.bk)

/-- A tag instruction has acted on a line. -/
def State.tagActs (s : State) (o : Op) (line : Nat) : State :=
  let c := s.core (coreOfBundle o.bk)
  s.setCore (coreOfBundle o.bk) { c with tagAt := FMap.put c.tagAt line (64 * s.cycle + laneOfBundle o.bk) }

/-- Whether a request stands behind another in its bank's queue at its port (R234, R235). -/
def State.queuedBehind (s : State) (o : Op) (r : Req) : Bool :=
  s.ops.any (fun p => samePort p o && p.reqs.any (fun q =>
    q.stage == .queued && decide (q.seq < r.seq) && r.sharesBank q))

/-- A scratchpad request is served (R234, R238, R245, R247); `zero.l` writes a line at a time (R248). -/
def State.serveBank (s : State) (o : Op) (r : Req) : State :=
  let ck := coreOfBundle o.bk
  let c := s.core ck
  match r.act with
  | .ld .. =>
    let s := s.correctFrame ck (c.spBase + r.addr) r.n
    match s.frameBad ck (c.spBase + r.addr) r.n with
    | some a => s.failReq o r 0x0F 1 a
    | none => { s with nextId := s.nextId + 1 }.endReq o.id r.uid
        [{ t := r.t, ws := replyRegs r.act (s.spRead ck r.addr r.n), seq := s.nextId }]
  | .st v => ((s.storeLines o.ser true ck r.addr r.n).spWrite ck r.addr (bytesOfNat r.n v)).endReq o.id r.uid []
  | .zero =>
    let n := 256 - r.addr % 256
    let s := s.storeLines o.ser true ck r.addr (min r.n n)
    if r.n ≤ n then (s.spWrite ck r.addr (List.replicate r.n 0)).endReq o.id r.uid []
    else (s.spWrite ck r.addr (List.replicate n 0)).putOp (o.putReq { r with addr := r.addr + n, n := r.n - n })
  | .plane un vs vd sb db =>
    match s.frameBad ck (c.spBase + sb) (tidOf vs).extent with
    | some a => s.failReq o r 0x0F 1 a
    | none => (((s.correctSp ck [(sb, (tidOf vs).extent)]).storeLines o.ser true ck db (tidOf vd).extent).convertTile ck un (tidOf vs)
      (tidOf vd) sb db).endReq o.id r.uid []
  | .tag kind mask =>
    let line := r.addr / 256
    let v := mask % 2 == 1
    let k := mask / 2 % 2 == 1
    let s := s.tagActs o line
    if kind = 2 then ((s.setCore ck ((s.core ck).setTags line line true true false)).endReq o.id r.uid [])
    else
      let s := s.touchLines o.ser true ck r.addr 256
      let s := s.setCore ck ((s.core ck).setTags line line v k (kind == 1))
      (s.releaseHeld ck).endReq o.id r.uid []
  | _ => s

/-- Whether a scratchpad request may be served now: it stands first in its bank's queue at its port and nothing of its
bundle holds it back; a `tag.wc` when C of its line is 1, it is the first that waits, and no strong read stands before the
acquire that its completion is (R45, R235, R240, R241). -/
def State.mayServe (s : State) (o : Op) (r : Req) : Bool :=
  s.runs o.bk && o.cls == 5 && s.tagInOrder o r &&
    (match r.stage with
      | .queued => !s.queuedBehind o r && !s.blocked o r false
      | .held => (match r.act with
        | .tag 2 _ => FMap.look (s.core (coreOfBundle o.bk)).tagC true (r.addr / 256) &&
            s.firstWc (coreOfBundle o.bk) r.addr == some o.id && !s.strongBefore o (o.affected r)
        | _ => false)
      | _ => false)

/-- BANK_SERVICE (R234): a bank serves one queued request. -/
def execBankService (op k : Nat) (s : State) : Host.Outcome State Fault Refusal :=
  .next (match s.op? op with
    | none => s
    | some o => match o.req? k with
      | none => s
      | some r => if s.mayServe o r then s.serveBank o r else s)

end Sys2Proof.Machine
end

