-- ==== Sys2Proof/Machine/Global.lean ====
section
/-! DEFINITION. Class 6 (R249 to R254) and class 7 (R302 to R318): their hand-off. Their requests are translated,
performed and answered in Machine/Access.lean and Machine/Fabric.lean. -/

namespace Sys2Proof.Machine

/-- The order field of an extended unit (R103). -/
def orderOf (x : Enc) : Nat := if x.form == .extended then x.w2.toNat / 8 % 8 else 0

/-- The scope of a unit: .sy in the short forms (R102). -/
def scopeOf (x : Enc) : Nat := if x.form == .extended then x.w2.toNat % 8 else 7

/-- The replay entries in use at a chiplet: one for each operation and page that waits for a translation or is held (R364). -/
def State.replays (s : State) (chip : Nat) : Nat :=
  (s.ops.map (fun o =>
    if isFw o.bk || s.sliceOf o.bk != chip then 0
    else ((o.reqs.filter (fun r => r.stage == .shard || (r.stage == .walk &&
      (s.cached (ctxOfBundle o.bk) chip (microOf o.bk) r.addr).isEmpty))).map (fun r => r.addr / 8192)).dedup.length)).foldl (· + ·) 0

/-- Whether a bundle's chiplet has no replay entry free (R364). -/
def State.replaysFull (s : State) (bk : Nat) : Bool := !isFw bk && decide (4096 ≤ s.replays (s.sliceOf bk))

/-- A memory hand-off that the function's budgets throttle (R403), or the lack of a replay entry (R364). -/
def State.onMemory (s : State) (i : Instr) (x : Enc) (f : Nat → Bundle → State) : Host.Outcome State Fault Refusal :=
  s.onCharged i x (fun bk b => if s.replaysFull bk then s.stall else f bk b)

/-- A class-6 access: aligned for every thread, then one request per thread (R250); block forms of 16 bytes are
two requests of 8. -/
def State.globalAccess (s : State) (i : Instr) (x : Enc) (n opn ord : Nat) (read : Bool)
    (act : Bundle → Nat → Nat → Act) : Host.Outcome State Fault Refusal :=
  s.onMemory i x (fun bk b =>
    let ps := b.parties x
    match accessFault ps n (fun _ => true) with
    | some f => s.trapSync bk f.1 f.2
    | none =>
      let part := min n 8
      let reqs := ps.flatMap (fun (p : Nat × Nat) => (List.range (n / part)).map (fun k =>
        { uid := 0, t := p.1, stage := .pass, act := act b p.1 k, addr := p.2 + 8 * k, n := part : Req }))
      s.handAccess bk b x 6 opn ord (scopeOf x) reqs (if read then b.zeroWrites x n else []))

/-- `ld.g` (R250). -/
def execLdG (x : Enc) (s : State) : Host.Outcome State Fault Refusal :=
  s.globalAccess (.ldG x) x (widthOf x) 0 0 true (fun _ _ _ => .ld x.d.toNat x.u)

/-- `st.g` (R250). -/
def execStG (x : Enc) (s : State) : Host.Outcome State Fault Refusal :=
  s.globalAccess (.stG x) x (widthOf x) 1 0 false (fun b t _ => .st (b.storeData x t (widthOf x)))

/-- `ldb.g` (R250). -/
def execLdbG (x : Enc) (s : State) : Host.Outcome State Fault Refusal :=
  s.globalAccess (.ldbG x) x 16 2 0 true (fun _ _ k => .ld (x.d.toNat + 2 * k) false)

/-- `stb.g` (R250). -/
def execStbG (x : Enc) (s : State) : Host.Outcome State Fault Refusal :=
  s.globalAccess (.stbG x) x 16 3 0 false (fun b t k => .st (b.vpair t (x.d.toNat + 2 * k)).toNat)

/-- `prf.g` (R254): it raises no trap. -/
def execPrfG (x : Enc) (s : State) : Host.Outcome State Fault Refusal :=
  s.onMemory (.prfG x) x (fun bk b =>
    s.handAccess bk b x 6 4 0 7 ((b.parties x).map (fun (p : Nat × Nat) =>
      { uid := 0, t := p.1, stage := .pass, act := .prf, addr := p.2, n := 1 : Req })) [])

/-- `ld.r` (R253). -/
def execLdR (x : Enc) (s : State) : Host.Outcome State Fault Refusal :=
  s.globalAccess (.ldR x) x (widthOf x) 5 0 true (fun _ _ _ => .ld x.d.toNat x.u)

/-- `st.r` (R253). -/
def execStR (x : Enc) (s : State) : Host.Outcome State Fault Refusal :=
  s.globalAccess (.stR x) x (widthOf x) 6 0 false (fun b t _ => .st (b.storeData x t (widthOf x)))

/-- The order of `ld.acq`: an acquire, sequentially consistent where its order field says 4 (R252). -/
def acquireOrder (x : Enc) : Nat := if orderOf x = 4 then 4 else 1

/-- The order of `st.rel` (R252). -/
def releaseOrder (x : Enc) : Nat := if orderOf x = 4 then 4 else 2

/-- `ld.acq` (R252). -/
def execLdAcq (x : Enc) (s : State) : Host.Outcome State Fault Refusal :=
  s.globalAccess (.ldAcq x) x (widthOf x) 7 (acquireOrder x) true (fun _ _ _ => .ld x.d.toNat x.u)

/-- `st.rel` (R252). -/
def execStRel (x : Enc) (s : State) : Host.Outcome State Fault Refusal :=
  s.globalAccess (.stRel x) x (widthOf x) 8 (releaseOrder x) false (fun b t _ => .st (b.storeData x t (widthOf x)))

/-! ### Class 7 -/

/-- The proposer id of a thread, from its sr.pos fields; the bundle's is that of its lowest-indexed active thread
(R310). -/
def Bundle.proposer (b : Bundle) (bk t : Nat) : Nat :=
  pkgOfBundle bk * 2 ^ 25 + denseOfCore (coreOfBundle bk) * 2 ^ 15 + laneOfBundle bk * 2 ^ 9 +
    slotOfBundle bk * 2 ^ 6 + (if t = 64 then b.lead else t)

/-- A value of a field for a party: a uniform register, or vector registers. -/
def Bundle.homeVal (b : Bundle) (t : Nat) (field : BitVec 8) (wide : Bool) : Nat :=
  if t = 64 then (b.sreg field.toNat).toNat % 2 ^ (if wide then 64 else 32)
  else (b.vget wide t field.toNat).toNat

/-- The number of registers that a reply writes for a thread, from d on. -/
def replySpan (op : Nat) (x : Enc) : Nat :=
  if op ≤ 7 then (if wideTy x.ty.toNat then 2 else 1)
  else if op = 0x0C then 4
  else if op = 0x0F ∨ op = 0x10 then (if x.ty = 0 then 2 else 3)
  else 0

/-- The writes of zeroing for a class-7 instruction (R96, R313). -/
def Bundle.homeZeros (b : Bundle) (x : Enc) (op k : Nat) : List WB :=
  if x.u then [] else (bitsOf (b.zeroed x)).map (fun t =>
    { t := t, ws := (List.range (replySpan op x)).map (fun i => RegW.v (x.d.toNat + i) 0) ++
        (if op = 0x0F ∧ k ≠ 0 then [RegW.m k false] else []) })

/-- A class-7 hand-off (R303, R305): aligned for every thread, then one request per thread. `opnd` and `cmp` give
the operand and the compare value of a party. -/
def State.homeAccess (s : State) (i : Instr) (x : Enc) (op ord k : Nat) (force : Bool)
    (opnd cmp : Bundle → Nat → Nat) : Host.Outcome State Fault Refusal :=
  s.onMemory i x (fun bk b =>
    let ps := b.parties x
    let n := homeSize op x.ty.toNat
    match accessFault ps n (fun _ => true) with
    | some f => s.trapSync bk f.1 f.2
    | none =>
      s.handAccess bk b x 7 op ord (scopeOf x) (ps.map (fun (p : Nat × Nat) =>
        { uid := 0, t := p.1, stage := .pass, addr := p.2, n := n,
          act := .home op x.ty.toNat (opnd b p.1) (cmp b p.1) x.d.toNat k x.u (b.proposer bk p.1) force : Req }))
        (b.homeZeros x op k))

/-- Operand c at the width of the type (R306). -/
def operandC (x : Enc) (b : Bundle) (t : Nat) : Nat := b.homeVal t x.c (wideTy x.ty.toNat)

/-- Operand d at the width of the type (R306). -/
def operandD (x : Enc) (b : Bundle) (t : Nat) : Nat := b.homeVal t x.d (wideTy x.ty.toNat)

/-- An atomic with a reply (R306). -/
def State.atomic (s : State) (i : Instr) (x : Enc) (op : Nat) : Host.Outcome State Fault Refusal :=
  s.homeAccess i x op (orderOf x) 0 false (operandC x) (fun _ _ => 0)

/-- A reduction without a reply (R306). -/
def State.reduction (s : State) (i : Instr) (x : Enc) (op : Nat) : Host.Outcome State Fault Refusal :=
  s.homeAccess i x op (orderOf x) 0 false (operandD x) (fun _ _ => 0)

/-- `atom.add` (R306). -/
def execAtomAdd (x : Enc) (s : State) : Host.Outcome State Fault Refusal := s.atomic (.atomAdd x) x 0
/-- `atom.min` (R306). -/
def execAtomMin (x : Enc) (s : State) : Host.Outcome State Fault Refusal := s.atomic (.atomMin x) x 1
/-- `atom.max` (R306). -/
def execAtomMax (x : Enc) (s : State) : Host.Outcome State Fault Refusal := s.atomic (.atomMax x) x 2
/-- `atom.and` (R306). -/
def execAtomAnd (x : Enc) (s : State) : Host.Outcome State Fault Refusal := s.atomic (.atomAnd x) x 3
/-- `atom.or` (R306). -/
def execAtomOr (x : Enc) (s : State) : Host.Outcome State Fault Refusal := s.atomic (.atomOr x) x 4
/-- `atom.xor` (R306). -/
def execAtomXor (x : Enc) (s : State) : Host.Outcome State Fault Refusal := s.atomic (.atomXor x) x 5
/-- `atom.xchg` (R306). -/
def execAtomXchg (x : Enc) (s : State) : Host.Outcome State Fault Refusal := s.atomic (.atomXchg x) x 6

/-- `atom.cas` (R306): d holds the new value, c the expected one. -/
def execAtomCas (x : Enc) (s : State) : Host.Outcome State Fault Refusal :=
  s.homeAccess (.atomCas x) x 7 (orderOf x) 0 false (operandD x) (operandC x)

/-- `red.add` (R306). -/
def execRedAdd (x : Enc) (s : State) : Host.Outcome State Fault Refusal := s.reduction (.redAdd x) x 8
/-- `red.min` (R306). -/
def execRedMin (x : Enc) (s : State) : Host.Outcome State Fault Refusal := s.reduction (.redMin x) x 9
/-- `red.max` (R306). -/
def execRedMax (x : Enc) (s : State) : Host.Outcome State Fault Refusal := s.reduction (.redMax x) x 10

/-- `red.x96` (R307). -/
def execRedX96 (x : Enc) (s : State) : Host.Outcome State Fault Refusal :=
  s.homeAccess (.redX96 x) x 0x0B (orderOf x) 0 false (fun b t => b.homeVal t x.d (x.ty == 3)) (fun _ _ => 0)

/-- `x96.ld` (R308). -/
def execX96Ld (x : Enc) (s : State) : Host.Outcome State Fault Refusal :=
  s.homeAccess (.x96Ld x) x 0x0C (orderOf x) 0 false (fun _ _ => 0) (fun _ _ => 0)

/-- `x96.init` (R308). -/
def execX96Init (x : Enc) (s : State) : Host.Outcome State Fault Refusal :=
  s.homeAccess (.x96Init x) x 0x0D (orderOf x) 0 false (fun b t => b.homeVal t x.d false) (fun _ _ => 0)

/-- `cell.arm` (R311): the arm word is 64 bits whatever the type. -/
def execCellArm (x : Enc) (s : State) : Host.Outcome State Fault Refusal :=
  s.homeAccess (.cellArm x) x 0x0E (orderOf x) 0 false (fun b t => b.homeVal t x.d true) (fun _ _ => 0)

/-- The won mask of `cell.prop` (R313). -/
def wonMask (x : Enc) : Nat := if x.form == .extended then x.w2.toNat / 2 ^ 6 % 4 else 0

/-- `cell.prop` (R312 to R314): an acquire in any case, and a release with order 2. -/
def execCellProp (x : Enc) (s : State) : Host.Outcome State Fault Refusal :=
  s.homeAccess (.cellProp x) x 0x0F (if orderOf x = 2 then 3 else 1) (wonMask x) false
    (fun b t => b.homeVal t x.c (x.ty == 2)) (fun _ _ => 0)

/-- `cell.ld` (R315). -/
def execCellLd (x : Enc) (s : State) : Host.Outcome State Fault Refusal :=
  s.homeAccess (.cellLd x) x 0x10 (orderOf x) 0 false (fun _ _ => 0) (fun _ _ => 0)

/-- `cell.reset` (R312, R316). -/
def execCellReset (x : Enc) (s : State) : Host.Outcome State Fault Refusal :=
  s.homeAccess (.cellReset x) x 0x11 (orderOf x) 0 (x.form == .extended && x.w2.toNat / 2 ^ 6 % 2 == 1)
    (fun _ _ => 0) (fun _ _ => 0)

/-- `cell.flush` (R317). -/
def execCellFlush (x : Enc) (s : State) : Host.Outcome State Fault Refusal :=
  s.homeAccess (.cellFlush x) x 0x12 0 0 false (fun _ _ => 0) (fun _ _ => 0)

end Sys2Proof.Machine
end

