-- ==== Sys2Proof/Machine/Sync.lean ====
section
/-! DEFINITION. Class 8 (R201 to R218): barriers, sets, fences, `opfence`, `waitf`, `acq.remote` and `scopeof`. -/

namespace Sys2Proof.Machine

/-! ### Handles (R81) -/

/-- The barriers of a level: 128 per core, 512 per chiplet, 256 per package. -/
def barLimit (lvl : Nat) : Nat := if lvl = 1 then 128 else if lvl = 2 then 512 else 256

/-- The sets of a level: 256 per core, 512 per chiplet, 256 per package. -/
def setLimit (lvl : Nat) : Nat := if lvl = 1 then 256 else if lvl = 2 then 512 else 256

/-- The key that a handle names for a core's threads; none where it is malformed or names a bundle set. -/
def State.handleKey (s : State) (ck h : Nat) (limit : Nat → Nat) : Option Nat :=
  let lvl := h / 2 ^ 14 % 4
  let idx := h % 2 ^ 9
  if lvl = 0 ∨ h / 2 ^ 9 % 32 ≠ 0 ∨ limit lvl ≤ idx then none else some (s.keyFor ck lvl idx)

/-- The barrier a handle names. -/
def State.barKey (s : State) (ck h : Nat) : Option Nat := s.handleKey ck h barLimit

/-- The set a handle names. -/
def State.setKeyOf (s : State) (ck h : Nat) : Option Nat := s.handleKey ck h setLimit

/-! ### Arrivals (R205) -/

/-- One thread arrives: the barrier after it and the phase, or none at a third arrival. -/
def Bar.arrive (x : Bar) (n : Nat) : Option (Bar × Bool) :=
  if !(x.arr x.p).contains n then some (x.addArr x.p n, x.p)
  else if !(x.arr !x.p).contains n then some (x.addArr (!x.p) n, !x.p)
  else none

/-- The threads of a list arrive in order: the barrier, the phases that gained an arrival, and whether a third
arrival stopped them. -/
def Bar.arriveAll (x : Bar) (l : List Nat) : Bar × List Bool × Bool :=
  match l with
  | [] => (x, [], false)
  | n :: r =>
    match x.arrive n with
    | none => (x, [], true)
    | some (y, p) => let z := y.arriveAll r; (z.1, z.2.1.insert p, z.2.2)

/-- An arrival is a release at the barrier's level (R205): its phases complete only when the accesses before it are
performed, which an operation of the bundle watches. -/
def State.watchArrival (s : State) (bk : Nat) (b : Bundle) (ex : DWord) (key : Nat) (phases : List Bool) : State :=
  if s.unperformed b.ser s.nextId ex then
    s.list bk b { id := 0, bk := bk, ser := 0, cls := 8, flag := none, upc := 0, ex := ex, ord := 2,
                  reqs := phases.map (fun p =>
                    { uid := if p then 1 else 0, t := 64, stage := .wait, act := .sys 1 key (if p then 1 else 0) 0 }) }
  else s

/-- Whether threads may arrive on a barrier: it is bound and each of them is a member (R213). -/
def State.mayArrive (s : State) (b : Bundle) (key : Nat) (ex : DWord) : Bool :=
  (s.bar key).bound.isSome &&
    (bitsOf ex).all (fun t => (s.members (s.bar key).bound).contains (threadNo b.ser t))

/-- The arrivals of an instruction, which are releases (R205): the state after them, and whether a third arrival stopped them. -/
def State.arrivals (s : State) (bk : Nat) (b : Bundle) (key : Nat) (ex : DWord) : State × Bool :=
  let r := (s.bar key).arriveAll ((bitsOf ex).map (threadNo b.ser))
  ((((s.setBundle bk { b with rel := b.rel ||| ex }).putBar key r.1).watchArrival bk b ex key r.2.1).evalBar key, r.2.2)

/-- An acquire that no request makes (a wait on a barrier or counter): a strong read before it has its place before what
follows it (R45, case 1), which an operation of the bundle watches. -/
def State.watchAcquire (s : State) (bk : Nat) (ex : DWord) : State :=
  let b := s.bundle bk
  let s := s.sees bk none
  let late (t : Nat) : Bool := s.ops.any (fun p => p.ser == b.ser && p.reqs.any (fun q => p.strongRead q && hasBit (p.affected q) t))
  let ts := (bitsOf ex).filter late
  if ts.isEmpty then s
  else s.list bk b { id := 0, bk := bk, ser := 0, cls := 8, opn := 1, flag := none, upc := 0, ex := ex, ord := 1,
                     reqs := numbered (ts.map (fun t => { uid := 0, t := t, stage := .wait, act := .drain 5 })) }

/-- The bundle passes the unit and its threads that must wait on a barrier park (R206). -/
def State.parkOn (s : State) (bk : Nat) (x : Enc) (key : Nat) (ex : DWord) : State :=
  let s := s.watchAcquire bk ex
  let b := s.bundle bk
  let stay := maskOf ((bitsOf ex).filter (fun t => (s.bar key).holds b.ser t))
  let s := if stay = ex then s else s.sees bk (some key)
  { s.setBundle bk (((b.advance (unitLen x)).mapThreads stay (fun th => { th with cond := .barrier key })).rechoose)
    with issuing := none }

/-- An instruction that names a barrier: a handle that names none traps 0x0A (R213), for `bar.wait` and `bar.poll` also where no
thread executes (DEDUCED, log 83). -/
def State.onBar (s : State) (i : Instr) (x : Enc) (f : Nat → Bundle → Nat → Nat → State) :
    Host.Outcome State Fault Refusal :=
  s.onUnit i x (fun bk b =>
    let h := b.syncField x
    match s.barKey (coreOfBundle bk) h with
    | none => s.trapSync bk 0x0A h
    | some key => f bk b h key)

/-- An instruction by which threads arrive: the handle is checked for each executing thread, so not at all where none
executes (R65, R205; DEDUCED, log 83). -/
def State.onArrive (s : State) (i : Instr) (x : Enc) (f : Nat → Bundle → Nat → Nat → State) :
    Host.Outcome State Fault Refusal :=
  s.onUnit i x (fun bk b =>
    let h := b.syncField x
    if b.executing x = 0 then s.retire bk b x
    else match s.barKey (coreOfBundle bk) h with
      | none => s.trapSync bk 0x0A h
      | some key => f bk b h key)

/-- `bar.arv` (R205). -/
def execBarArv (x : Enc) (s : State) : Host.Outcome State Fault Refusal :=
  s.onArrive (.barArv x) x (fun bk b h key =>
    let ex := b.executing x
    if s.mayArrive b key ex then
      let r := s.arrivals bk b key ex
      if r.2 then r.1.trapSync bk 0x0A h else r.1.retire bk (r.1.bundle bk) x
    else s.trapSync bk 0x0A h)

/-- `bar.wait` (R206). -/
def execBarWait (x : Enc) (s : State) : Host.Outcome State Fault Refusal :=
  s.onBar (.barWait x) x (fun bk b _ key => s.parkOn bk x key (b.executing x))

/-- `bar.sync` (R206): `bar.arv`, then `bar.wait`. -/
def execBarSync (x : Enc) (s : State) : Host.Outcome State Fault Refusal :=
  s.onArrive (.barSync x) x (fun bk b h key =>
    let ex := b.executing x
    if s.mayArrive b key ex then
      let r := s.arrivals bk b key ex
      if r.2 then r.1.trapSync bk 0x0A h else r.1.parkOn bk x key ex
    else s.trapSync bk 0x0A h)

/-! ### Binding (R208) -/

/-- Whether a barrier has an arrival or an enrolment in an open phase. -/
def Bar.inUse (x : Bar) : Bool :=
  !x.arr0.isEmpty || !x.arr1.isEmpty || x.eng0 != 0 || x.eng1 != 0 || !x.eb0.isEmpty || !x.eb1.isEmpty

/-- Whether a barrier is the block barrier of some launch. -/
def State.isBlockBar (s : State) (key : Nat) : Bool :=
  s.launches.any (fun e => e.2.live.any (fun k => k.2.bar == key))

/-- What a set handle binds a barrier of a level to: nothing for 0xFFFF; none where the handle is refused. DESIGN CHOICE
(log 105): a bundle handle binds to the bundle that holds the index now, and to no later one. -/
def State.bindTo (s : State) (ck lvl h : Nat) : Option (Option (Nat × Nat)) :=
  if h = 0xFFFF then some none
  else if lvl < h / 2 ^ 14 then none
  else if h / 2 ^ 14 = 0 then
    let ser := (s.bundle (ck * 512 + h % 2 ^ 9)).ser
    if h / 2 ^ 9 ≠ 0 ∨ ser = 0 then none else some (some (h, ser))
  else (s.setKeyOf ck h).map (fun k => some (h, k))

/-- `bar.bind` (R208): P stays. DEDUCED (log 104): s63 holds the barrier's handle where the set's handle is the one refused. -/
def execBarBind (x : Enc) (s : State) : Host.Outcome State Fault Refusal :=
  s.onBar (.barBind x) x (fun bk b h key =>
    if (s.bar key).inUse || s.isBlockBar key then s.trapSync bk 0x0A h
    else match s.bindTo (coreOfBundle bk) (h / 2 ^ 14) ((b.sreg x.b.toNat).toNat % 2 ^ 16) with
      | none => s.trapSync bk 0x0A h
      | some bound => (s.putBar key { s.bar key with bound := bound }).retire bk b x)

/-- The status word of `bar.poll` (R209). -/
def Bar.status (x : Bar) : DWord :=
  let set := match x.bound with
    | none => 0xFFFF
    | some (h, _) => h
  BitVec.ofNat 64 (set * 2 ^ 48 + bit x.bound.isSome * 2 ^ 41 + bit x.p * 2 ^ 40 + x.eng x.p % 256 * 2 ^ 32 +
    (x.arr !x.p).length % 2 ^ 16 * 2 ^ 16 + (x.arr x.p).length % 2 ^ 16)

/-- `bar.poll` (R209). -/
def execBarPoll (x : Enc) (s : State) : Host.Outcome State Fault Refusal :=
  s.onBar (.barPoll x) x (fun bk b _ key =>
    let y := s.bar key
    if x.u then s.retire bk (b.setSreg x.d.toNat y.status) x
    else
      let past := maskOf ((bitsOf (b.executing x)).filter (fun t => !y.holds b.ser t))
      let s := s.watchAcquire bk past
      (if past = 0 then s else s.sees bk (some key)).retire bk (b.maskPass x x.d.toNat (fun t => !y.holds b.ser t)) x)

/-! ### Sets (R210 to R212) -/

/-- Whether a barrier is bound to a set. -/
def State.setBound (s : State) (key : Nat) : Bool :=
  s.bars.any (fun e => match e.2.bound with
    | some (h, k) => h / 2 ^ 14 != 0 && k == key
    | none => false)

/-- Whether a set may be allocated. -/
def State.setFree (s : State) (key : Nat) : Bool :=
  let x := s.setRec key
  !x.alloc && !x.initial && x.members.isEmpty && !s.setBound key

/-- `set.new` (R210). -/
def execSetNew (x : Enc) (s : State) : Host.Outcome State Fault Refusal :=
  s.onUnit (.setNew x) x (fun bk b =>
    let ck := coreOfBundle bk
    let lvl := x.b.toNat
    match (List.range (setLimit lvl)).find? (fun n => s.setFree (s.keyFor ck lvl n)) with
    | none => s.retire bk (b.setSreg x.d.toNat 0xFFFF) x
    | some n =>
      let key := s.keyFor ck lvl n
      (s.putSet key { s.setRec key with alloc := true }).retire bk
        (b.setSreg x.d.toNat (BitVec.ofNat 64 (lvl * 2 ^ 14 + n))) x)

/-- An instruction that names a set (R213): a handle that names none traps 0x0A, for `set.join` and `set.leave` also where no
thread executes (DEDUCED, log 83). -/
def State.onSet (s : State) (i : Instr) (x : Enc) (f : Nat → Bundle → Nat → Nat → State) :
    Host.Outcome State Fault Refusal :=
  s.onUnit i x (fun bk b =>
    let h := b.syncField x
    match s.setKeyOf (coreOfBundle bk) h with
    | none => s.trapSync bk 0x0A h
    | some key => f bk b h key)

/-- `set.join` (R211). -/
def execSetJoin (x : Enc) (s : State) : Host.Outcome State Fault Refusal :=
  s.onSet (.setJoin x) x (fun bk b _ key =>
    let y := s.setRec key
    let new := ((bitsOf (b.executing x)).map (threadNo b.ser)).filter (fun n => !y.members.contains n)
    (((s.putSet key { y with members := y.members ++ new }).retire bk b x).evalBars))

/-- `set.leave` (R211). -/
def execSetLeave (x : Enc) (s : State) : Host.Outcome State Fault Refusal :=
  s.onSet (.setLeave x) x (fun bk b _ key =>
    let y := s.setRec key
    let out := (bitsOf (b.executing x)).map (threadNo b.ser)
    (((s.putSet key { y with members := y.members.filter (fun n => !out.contains n) }).retire bk b x).evalBars))

/-- `set.free` (R212). -/
def execSetFree (x : Enc) (s : State) : Host.Outcome State Fault Refusal :=
  s.onSet (.setFree x) x (fun bk b h key =>
    let y := s.setRec key
    if y.initial || !y.members.isEmpty || s.setBound key then s.trapSync bk 0x0A h
    else (s.putSet key { y with alloc := false }).retire bk b x)

/-! ### Fences and flags -/

/-- The threads for which a fence or `acq.remote` acts: every active one in the U form (R214, R218). -/
def Bundle.acting (b : Bundle) (x : Enc) : DWord := if x.u then b.active else b.executing x

/-- `fence.L` (R214): it holds later hand-offs until the accesses of its threads before it are performed. -/
def execFence (x : Enc) (s : State) : Host.Outcome State Fault Refusal :=
  s.onUnit (.fence x) x (fun bk b =>
    if b.acting x = 0 then s.retire bk b x
    else
      let o : Op := { id := 0, bk := bk, ser := 0, cls := 8, opn := 8, flag := none, upc := 0, ex := b.acting x, lvl := scopeOf x
                      reqs := [{ uid := 0, t := 64, stage := .wait, act := .drain 2 }] }
      (s.list bk b o).retire bk (b.notes o) x)

/-- `opfence` (R55, R215): the bundle stalls until every write before it is performed; engine operations after it read no byte
from before a store. DEDUCED (log 55): that of a bundle that nothing orders before this one among them. -/
def execOpfence (x : Enc) (s : State) : Host.Outcome State Fault Refusal :=
  s.onUnit (.opfence x) x (fun bk b =>
    if s.writesBefore b.ser s.nextId (widthMask 64) then s.stall
    else (s.setCore (coreOfBundle bk) { s.core (coreOfBundle bk) with stale := [] }).retire bk b x)

/-- `waitf` (R216). -/
def execWaitf (x : Enc) (s : State) : Host.Outcome State Fault Refusal :=
  s.onUnit (.waitf x) x (fun bk b =>
    let mask := b.syncField x % 2 ^ 12
    let r := s.testFlags bk mask
    let b := r.1.bundle bk
    if r.2 then r.1.stall
    else if b.flagsZero mask then r.1.retire bk b x
    else { r.1.setBundle bk (((b.advance (unitLen x)).mapThreads b.active (fun th => { th with cond := .flags mask })).rechoose)
           with issuing := none })

/-- The core that `acq.remote` names (R218). -/
def Bundle.remoteCore (b : Bundle) (x : Enc) : Nat :=
  let c := (b.sreg x.a.toNat).toNat / 2 ^ 16 % 2 ^ 10
  if x.form == .extended then (c + x.w2.toNat / 2 ^ 6 % 2 ^ 10) % 1024 else c

/-- `acq.remote` (R54, R218): a request to core C, and its answer. DEDUCED (log 83): a core outside the partition traps 0x05 also
where no thread executes. -/
def execAcqRemote (x : Enc) (s : State) : Host.Outcome State Fault Refusal :=
  s.onLong (.acqRemote x) x (fun bk b =>
    let c := b.remoteCore x
    if s.coresOf (partOfCtx (ctxOfBundle bk)) ≤ c then s.trapSync bk 0x05 c
    else
      let id := s.nextId
      (s.handOff bk b x { id := 0, bk := bk, ser := 0, cls := 8, opn := 0x0B, flag := none, upc := 0
                          ex := b.acting x, ord := 1, lvl := scopeOf x
                          reqs := if b.acting x = 0 then [] else
                            [{ uid := 0, t := 64, stage := .home, act := .sys 2 c 0 0 }] }).completeOp id)

/-- ACQ_REMOTE_REQUEST (R54, steps 1 and 2): the request reaches C, whose releases performed so far stand in memory
for every level, and C answers. -/
def execAcqRemoteRequest (op : Nat) (s : State) : Host.Outcome State Fault Refusal :=
  .next (match s.op? op with
    | none => s
    | some o =>
      if o.cls = 8 ∧ o.opn = 0x0B then
        s.putOp { o with reqs := o.reqs.map (fun (r : Req) => { r with stage := Stage.fabric }) }
      else s)

/-- ACQ_REMOTE_ANSWER (R54, step 3, R218): the issuer's acquire, and completion. -/
def execAcqRemoteAnswer (op : Nat) (s : State) : Host.Outcome State Fault Refusal :=
  .next (match s.op? op with
    | none => s
    | some o =>
      if o.cls = 8 ∧ o.opn = 0x0B ∧ o.reqs.all (fun r => r.stage == .fabric) = true ∧ s.strongBefore o o.ex = false then
        (s.putOp { o with reqs := [] }).completeOp op
      else s)

/-! ### `scopeof` (R35, R217) -/

/-- A party that `scopeof` relates to the issuer. `kind`: 0 a thread, 1 a core or its pool, 2 a base die, 3 a command
processor, 4 the host; `chiplet` is 8 * package + physical chiplet. -/
structure Party where
  kind : Nat
  pkg : Nat := 0
  chiplet : Nat := 0
  dl : Nat := 0
  core : Nat := 0
  group : Nat := 0
  deriving DecidableEq, Repr

/-- The lowest enclosing level of a bundle and a party (R35). -/
def State.levelOf (s : State) (bk : Nat) (p : Party) : Nat :=
  let ck := coreOfBundle bk
  if p.kind = 4 then 7
  else if p.pkg ≠ pkgOfBundle bk then 6
  else if p.kind = 3 then 5
  else if p.chiplet / 2 ≠ s.chipletOf ck / 2 then 5
  else if p.chiplet ≠ s.chipletOf ck then 4
  else if p.kind = 2 then 3
  else if p.dl ≠ s.denseDl ck then 3
  else if p.core ≠ denseOfCore ck then 2
  else if p.kind = 1 then 1
  else if p.group ≠ laneOfBundle bk / 8 then 1
  else 0

/-- The party of an agent word (R217), its fields where sr.pos has them (R36). -/
def agentParty (bk : Nat) (w : Nat) : Party :=
  let pkg := w / 2 ^ 50 % 64
  { kind := w / 2 ^ 56 - 0x80
    pkg := pkg
    chiplet := pkg * 8 + partOfCtx (ctxOfBundle bk) % 16 / 2 + w / 2 ^ 45 % 8
    dl := w / 2 ^ 41 % 16
    core := w / 2 ^ 30 % 1024
    group := w / 2 ^ 27 % 8 }

/-- The level of an address's home (R34); a place without one, a register block or a hole, has a free level. DESIGN CHOICE
(log 51): a pool of a core outside the partition stands where the default remap entry puts that core. -/
def State.homeLevel (s : State) (bk t pa : Nat) : Nat :=
  match placeOf (localOfPa pa) with
  | .hbm _ => s.levelOf bk { kind := 2, pkg := pkgOfPa pa, chiplet := homeChiplet pa }
  | .pool c _ =>
    let ck := ctxOfBundle bk * 1024 + c
    s.levelOf bk { kind := 1, pkg := pkgOfPa pa, chiplet := s.chipletOf ck, dl := s.denseDl ck, core := c }
  | _ => if pkgOfPa pa ≠ pkgOfBundle bk then 6 else (s.freeByteAt t).toNat % 6

/-- What `scopeof` gives for an operand; none is trap 0x04. -/
def State.scopeLevel (s : State) (bk t v : Nat) : Option Nat :=
  if 0x80 ≤ v / 2 ^ 56 ∧ v / 2 ^ 56 ≤ 0x84 then some (s.levelOf bk (agentParty bk v))
  else (s.findLeaf (ctxOfBundle bk) (s.sliceOf bk) (microOf bk) v).map (fun l => s.homeLevel bk t (l.1.phys v))

/-- The walk of an address that `scopeof` names: it corrects what it meets, is charged and leaves its translation (R221, R363, R403).
An uncorrectable error in it is reported, and the entry counts as it reads (log 68). -/
def State.scopeWalk (s : State) (bk t v : Nat) : State :=
  let b := s.bundle bk
  if 0x80 ≤ v / 2 ^ 56 ∧ v / 2 ^ 56 ≤ 0x84 then s
  else if let some a := s.walkBad (ctxOfBundle bk) (s.sliceOf bk) (microOf bk) v then
    s.report { id := 0, bk := bk, ser := b.ser, cls := 8, flag := none, upc := b.pc, ex := b.active } 0x0F 6
      (if t < 64 then bitMask t else b.active) (BitVec.ofNat 64 a)
  else match s.findLeaf (ctxOfBundle bk) (s.sliceOf bk) (microOf bk) v with
    | none => s
    | some (_, t) => t

/-- `scopeof` (R217). -/
def execScopeof (x : Enc) (s : State) : Host.Outcome State Fault Refusal :=
  s.onUnit (.scopeof x) x (fun bk b =>
    let ps := b.parties x
    match ps.find? (fun (p : Nat × Nat) => (s.scopeLevel bk p.1 p.2).isNone) with
    | some p => s.trapSync bk 0x04 p.2
    | none =>
      let walked := ps.foldl (fun s (p : Nat × Nat) => s.scopeWalk bk p.1 p.2) s
      let r (p : Nat × Nat) : Nat := (s.scopeLevel bk p.1 p.2).getD 0
      let c := ps.foldl (fun c (p : Nat × Nat) =>
        if p.1 = 64 then c.setSreg x.d.toNat (BitVec.ofNat 64 (r p)) else c.setVreg p.1 x.d.toNat (BitVec.ofNat 32 (r p))) b
      walked.retire bk c x)

end Sys2Proof.Machine
end

