-- ==== Sys2Proof/Machine/Matrix.lean ====
section
/-! DEFINITION. The plane matrix engine, class 9 (R258 to R280): tiles and their status, the loop queue, the tile
port, the steps of a loop, and the surge arbiter's grants (R404). -/

namespace Sys2Proof.Machine

/-- The tile of an encoding (R273). -/
def mxTile (x : Enc) : Nat := x.w2.toNat / 2 ^ 10 % 64

/-- The barrier of an encoding (R273). -/
def mxBar (x : Enc) : Nat := x.w2.toNat / 2 ^ 3 % 128

/-- Whether an EN08 kernel's launch reports accumulator overflow (R271, R395). -/
def State.traps08 (s : State) (bk : Nat) : Bool := (FMap.look (s.launch (s.bundle bk).launch).kh 0 1).getLsbD 32

/-- Report an overflow that an instruction set in its tile (R271). -/
def State.overflowReport (s : State) (o : Op) (eng tile : Nat) (before after : Bool) : State :=
  if !before && after && s.traps08 o.bk then s.report o 0x08 eng o.ex (BitVec.ofNat 64 tile) else s

/-- Put an entry into the queue (R267): a full queue, or a barrier with 255 enrolments, stalls the hand-off. An entry
with a barrier completes for its flag as it is accepted (R107). -/
def State.mxQueue (s : State) (bk : Nat) (b : Bundle) (x : Enc) (e : MxEntry) (named : Bool) : State :=
  let ck := coreOfBundle bk
  let c := s.core ck
  let key := s.keyFor ck 1 (mxBar x)
  let y := s.bar key
  if 16 ≤ c.mq.length ∨ (named ∧ y.eng y.p = 255) then s.stall
  else
    let e := { e with opId := s.nextId, bk := bk, ser := b.ser, upc := b.pc, ex := b.active, tile := mxTile x
                      launch := b.launch
                      bar := if named then some (key, y.p) else none }
    let s := s.enqueueMx ck e
    if named then ({ s with nextId := s.nextId + 1 }.putBar key (y.enrol b.ser)).retire bk b x
    else s.handOff bk b x { id := 0, bk := bk, ser := 0, cls := 9, opn := e.op, flag := none, upc := 0, ex := b.active
                            reqs := [{ uid := 0, t := 64, stage := .fabric, act := .sys 5 0 0 0 }] }

/-- A class-9 instruction whose tile must exist (R264). -/
def State.mxOp (s : State) (i : Instr) (x : Enc) (f : Nat → Bundle → Nat → State) : Host.Outcome State Fault Refusal :=
  s.onLong i x (fun bk b =>
    let ck := coreOfBundle bk
    if (s.core ck).tiles ≤ mxTile x then s.trapSync bk 0x09 (mxTile x) else f bk b ck)

/-! ### Loops at hand-off (R273, R274) -/

/-- Whether an identifier is fit for a loop. -/
def Tid.loopFit (t : Tid) : Bool := t.valid && t.f.kind == 0 && t.lay == 1 && decide (t.rows ≤ 64)

/-- Whether every chunk group and scale entry that a loop uses of an operand lies in the scratchpad (R274). -/
def State.loopInside (s : State) (ck : Nat) (t : Tid) (base : Nat) (inc : Int) (n span : Nat) : Bool :=
  let size := span * t.f.planes * 4
  let ok (a : Int) : Bool := decide (0 ≤ a) && s.inSp ck a.toNat size
  ([0, n - 1].all (fun st => ok (groupAt base inc t st 0) && ok (groupAt base inc t st (t.rows - 1)))) &&
    (t.sfmt == 0 || s.inSp ck (t.scaleAt (t.rows - 1) (32 * span * n - 1)) (if t.sfmt = 1 then 2 else 1))

/-- The first failure of a loop's checks, in order (R274). DESIGN CHOICE (log 107): for n = 0, s63 holds identifier A's number. -/
def State.loopFault (s : State) (ck : Nat) (na nb : Nat) (ta tb : Tid) (ra rb : DWord) (span : Nat) :
    Option (Nat × Nat) :=
  let n := loopCount rb
  let long (t : Tid) : Bool := decide ((t.cols + 31) / 32 * 32 < 32 * span * n)
  if !ta.loopFit then some (0x09, na)
  else if !tb.loopFit then some (0x09, nb)
  else if n = 0 ∨ long ta = true then some (0x09, na)
  else if long tb then some (0x09, nb)
  else if loopBase ra 0 % 4 ≠ 0 then some (0x03, na)
  else if loopBase ra 1 % 4 ≠ 0 then some (0x03, nb)
  else if rb.toNat % 4 ≠ 0 then some (0x03, na)
  else if rb.toNat / 2 ^ 24 % 4 ≠ 0 then some (0x03, nb)
  else if !s.loopInside ck ta (loopBase ra 0) (loopInc rb 0) n span then some (0x05, na)
  else if !s.loopInside ck tb (loopBase ra 1) (loopInc rb 1) n span then some (0x05, nb)
  else none

/-- A loop at hand-off. -/
def State.loopOp (s : State) (i : Instr) (x : Enc) (op span : Nat) : Host.Outcome State Fault Refusal :=
  s.mxOp i x (fun bk b ck =>
    let na := x.w2.toNat / 2 ^ 24
    let nb := x.w2.toNat / 2 ^ 16 % 256
    let va := FMap.look (s.core ck).tid 0 na
    let vb := FMap.look (s.core ck).tid 0 nb
    let ra := b.sreg x.a.toNat
    let rb := b.sreg x.b.toNat
    match s.loopFault ck na nb (tidOf va) (tidOf vb) ra rb span with
    | some f => s.trapSync bk f.1 f.2
    | none => s.mxQueue bk b x { op := op, opId := 0, bk := bk, ser := 0, upc := 0, ex := 0, ta := va, tb := vb, ra := ra
                                 rb := rb, span := span, consume := x.w2.getLsbD 0 } true)

/-- `mx.loop` (R258 to R262, R274). -/
def execMxLoop (x : Enc) (s : State) : Host.Outcome State Fault Refusal := s.loopOp (.mxLoop x) x 0 1

/-- `mx.loops` (R261 to R263, R266, R274). -/
def execMxLoops (x : Enc) (s : State) : Host.Outcome State Fault Refusal :=
  s.loopOp (.mxLoops x) x 1 (2 ^ (x.w2.toNat / 2 % 4))

/-! ### Tile-port instructions at hand-off -/

/-- An instruction that only names a tile and a window or another tile. -/
def State.tileOp (s : State) (i : Instr) (x : Enc) (op : Nat) (named : Bool) : Host.Outcome State Fault Refusal :=
  s.mxOp i x (fun bk b ck =>
    if op = 8 ∧ (s.core ck).tiles ≤ x.d.toNat then s.trapSync bk 0x09 x.d.toNat
    else s.mxQueue bk b x { op := op, opId := 0, bk := bk, ser := 0, upc := 0, ex := 0, src := x.d.toNat
                            ra := b.sreg x.a.toNat, d := x.d.toNat } named)

/-- `mx.zero` (R275). -/
def execMxZero (x : Enc) (s : State) : Host.Outcome State Fault Refusal := s.tileOp (.mxZero x) x 2 true
/-- `mx.win` (R275). -/
def execMxWin (x : Enc) (s : State) : Host.Outcome State Fault Refusal := s.tileOp (.mxWin x) x 3 true
/-- `mx.stat` (R278). -/
def execMxStat (x : Enc) (s : State) : Host.Outcome State Fault Refusal := s.tileOp (.mxStat x) x 7 false
/-- `mx.move` (R279). -/
def execMxMove (x : Enc) (s : State) : Host.Outcome State Fault Refusal := s.tileOp (.mxMove x) x 8 true

/-- A fault of a read selector with n columns at most (R276, R295): trap 0x09, or the number of trap 0x02. -/
def selectorFault (b : Bundle) (sel : DWord) (t : Tid) : Option (Nat × Bool) :=
  let w := sel.toNat
  let nc := w / 2 ^ 24 % 128
  let g := (nc * t.f.container + 31) / 32
  if w / 2 ^ 31 ≠ 0 ∨ w / 2 ^ 22 % 4 ≠ 0 ∨ w / 2 ^ 14 % 4 ≠ 0 ∨ nc = 0 ∨ 64 < nc ∨ 64 < w / 2 ^ 16 % 64 + nc then
    some (0, true)
  else if b.allot < w % 256 + g then some (max (w % 256) b.allot, false)
  else none

/-- `mx.read` (R276). -/
def execMxRead (x : Enc) (s : State) : Host.Outcome State Fault Refusal :=
  s.mxOp (.mxRead x) x (fun bk b ck =>
    let n := x.w2.toNat / 2 ^ 24
    let v := FMap.look (s.core ck).tid 0 n
    let t := tidOf v
    let sel := b.sreg x.a.toNat
    if !t.valid then s.trapSync bk 0x09 n
    else match selectorFault b sel t with
      | some (_, true) => s.trapSync bk 0x09 n
      | some (r, false) => s.trapSync bk 0x02 r
      | none => s.mxQueue bk b x { op := 4, opId := 0, bk := bk, ser := 0, upc := 0, ex := 0, ta := v, ra := sel
                                   keep := x.w2.getLsbD 0, rnd := b.modeForTid x.rnd.toNat t.f.rnd } false)

/-- `mx.store` and `mx.load` at hand-off (R277). -/
def State.imageOp (s : State) (i : Instr) (x : Enc) (op : Nat) : Host.Outcome State Fault Refusal :=
  s.mxOp i x (fun bk b ck =>
    let a := (b.sreg x.a.toNat).toNat
    if a % 16 ≠ 0 then s.trapSync bk 0x03 a
    else if !s.inSp ck a 49168 then s.trapSync bk 0x05 a
    else s.mxQueue bk b x { op := op, opId := 0, bk := bk, ser := 0, upc := 0, ex := 0, ra := b.sreg x.a.toNat
                            consume := op == 6 && x.w2.getLsbD 0 } true)

/-- `mx.store` (R277). -/
def execMxStore (x : Enc) (s : State) : Host.Outcome State Fault Refusal := s.imageOp (.mxStore x) x 5
/-- `mx.load` (R277). -/
def execMxLoad (x : Enc) (s : State) : Host.Outcome State Fault Refusal := s.imageOp (.mxLoad x) x 6

/-! ### The tile port -/

/-- `mx.zero` (R275). -/
def State.zeroTile (s : State) (ck tile : Nat) (l : Int) : State :=
  (s.setTileBytes ck tile (List.replicate 0xC000 0)).setTileStatus ck tile (statusWord l false false false)

/-- Change every element of a tile, element (i, j) from its value, threading its status. -/
def State.mapTile (s : State) (ck tile : Nat) (f : Slot → Slot) : State :=
  let r := (List.range 4096).foldl (fun (acc : State × DWord) k =>
    let n := acc.1.elem ck tile (k / 64) (k % 64)
    let x := f (slotAt acc.2 n)
    (if x.n = n then acc.1 else acc.1.setElem ck tile (k / 64) (k % 64) x.n, x.status))
    (s, (s.core ck).status tile)
  r.1.setTileStatus ck tile r.2

/-- One element under a new window (R275): `d` is the new L minus the old. -/
def winElem (d : Int) (x : Slot) : Slot :=
  if 0 < d then
    let q := x.n.tdiv (2 ^ d.toNat)
    { x with n := q, inx := x.inx || q * 2 ^ d.toNat != x.n }
  else
    let n := x.n * 2 ^ (-d).toNat
    if n < x96Min then { x with n := x96Min, ovf := true }
    else if x96Max < n then { x with n := x96Max, ovf := true }
    else { x with n := n }

/-- `mx.win` (R275). -/
def State.winTile (s : State) (ck tile : Nat) (l : Int) : State :=
  let old := statusL ((s.core ck).status tile)
  let s := if l = old then s else s.mapTile ck tile (winElem (l - old))
  let w := (s.core ck).status tile
  s.setTileStatus ck tile (statusWord l (w.getLsbD 16) (w.getLsbD 17) (w.getLsbD 18))

/-- The registers that a packed row occupies, from VR on (R276). -/
def rowRegs (vr g : Nat) (codes : List (Nat × DWord)) (k : Nat) : List RegW :=
  let r := packCodes k codes
  (List.range g).map (fun i => RegW.v (vr + i) (BitVec.ofNat 32 (r.1 / 2 ^ (32 * i)))) ++
    (if r.2 = 0 then [] else [.sticky r.2])

/-- The results of `mx.read` (R276); unspecified codes in a race. -/
def State.readTile (s : State) (ck : Nat) (e : MxEntry) : List WB :=
  let f := (tidOf e.ta).f
  let w := e.ra.toNat
  let nc := w / 2 ^ 24 % 128
  let col := w / 2 ^ 16 % 64
  let row := w / 2 ^ 8 % 64
  let k := f.container
  let st := (s.core ck).status e.tile
  let code (i j : Nat) : Nat × DWord :=
    if racesOn e.raced e.tile then (natOfBytes (s.freeBytes (1048576 + 4 * (64 * i + j)) 4), 0)
    else f.write e.rnd (if st.getLsbD 18 && !e.keep then .nan else (slotAt st (s.elem ck e.tile i j)).value) 1
  ((bitsOf e.ex).filter (fun i => row + i < 64)).map (fun i =>
    { t := i, ws := rowRegs (w % 256) ((nc * k + 31) / 32) ((List.range nc).map (fun j => code (row + i) (col + j))) k })

/-- The image of a tile (R277). -/
def State.tileImage (s : State) (ck tile : Nat) : List Byte :=
  s.tileBytes ck tile ++ bytesOfNat 8 ((s.core ck).status tile).toNat ++ List.replicate 8 0

/-- A tile from an image (R277): reserved bits are ignored. -/
def State.loadImage (s : State) (ck tile : Nat) (l : List Byte) : State :=
  (s.setTileBytes ck tile (l.take 0xC000)).setTileStatus ck tile
    (BitVec.ofNat 64 (natOfBytes ((l.drop 0xC000).take 8) % 2 ^ 19))

/-- Whether the lines of scratchpad ranges are all present (R239, R269). -/
def State.linesPresent (s : State) (ck : Nat) (l : List (Nat × Nat)) : Bool :=
  l.all (fun r => (linesOf r.1 r.2).all (FMap.look (s.core ck).tagV true))

/-- C := 1 on the lines of scratchpad ranges (R238, R269). -/
def State.consumeLines (s : State) (ck : Nat) (l : List (Nat × Nat)) : State :=
  s.setCore ck (l.foldl (fun c r => (linesOf r.1 r.2).foldl (fun c n => c.setTags n n false true true) c) (s.core ck))

/-- The register results of an entry are ready to land, and its operation owes nothing else. -/
def State.mxResults (s : State) (e : MxEntry) (ws : List WB) : State := s.endReq e.opId 0 ws

/-- The body of `mx.load` (R277). -/
def State.runLoad (s : State) (ck : Nat) (e : MxEntry) : State :=
  let a := e.ra.toNat
  let s := match s.frameBad ck ((s.core ck).spBase + a) 49168 with
    | some off => (s.blurTile ck e.tile).report e.asOp 0x0F 2 e.ex (BitVec.ofNat 64 off)
    | none => (s.correctSp ck [(a, 49168)]).loadImage ck e.tile (s.mixOld e.old a (s.spRead ck a 49168))
  ((if e.consume then s.consumeLines ck [(a, 49168)] else s).blurRaced ck e.touch e.raced).mxArrive ck e

/-- What a tile-port entry does (R268, R275 to R279). In a race, a tile that it writes ends unspecified, and what it reads
is unspecified (R270). -/
def State.runPort (s : State) (ck : Nat) (e : MxEntry) : State :=
  let c := s.core ck
  let w := toSigned 16 (e.ra.toNat % 2 ^ 16)
  match e.op with
  | 2 => ((s.zeroTile ck e.tile w).blurRaced ck e.touch e.raced).mxArrive ck e
  | 3 =>
    let t := s.winTile ck e.tile w
    let t := if racesOn e.raced e.tile then t
      else t.overflowReport e.asOp 2 e.tile ((c.status e.tile).getLsbD 16) (((t.core ck).status e.tile).getLsbD 16)
    (t.blurRaced ck e.touch e.raced).mxArrive ck e
  | 4 => s.mxResults e (s.readTile ck e)
  | 5 => (s.spWrite ck e.ra.toNat
      (if racesOn e.raced e.tile then s.freeBytes 0 0xC008 ++ List.replicate 8 0 else s.tileImage ck e.tile)).mxArrive ck e
  | 6 => s.runLoad ck e
  | 7 => s.mxResults e [{ t := 64, ws := [.s e.d
      (if racesOn e.raced e.tile then Config.freeStatus (s.tick * 64 + e.tile) &&& 0x7FFFF else c.status e.tile)] }]
  | _ =>
    let t := if e.src = e.tile then s
      else (s.setTileBytes ck e.tile (s.tileBytes ck e.src)).setTileStatus ck e.tile (c.status e.src)
    (t.blurRaced ck e.touch e.raced).mxArrive ck e

/-- A tile-port entry runs: an uncorrectable error in what it reads of a tile is reported at completion (R232). -/
def State.runTile (s : State) (ck : Nat) (e : MxEntry) : State :=
  let r := s.readAreas ck e.readAreas e.asOp 2 false
  r.1.runPort ck (if r.2 then e.race e.touch.all else e)

/-- Whether a core's context runs. -/
def State.coreRuns (s : State) (ck : Nat) : Bool := (s.ctx (ctxOfCore ck)).running

/-- Whether a core's engines may begin something: its context runs, and no slice end has stopped it (R272, R413). -/
def State.enginesGo (s : State) (ck : Nat) : Bool := s.coreRuns ck && (s.part (partOfCtx (ctxOfCore ck))).ending.isNone

/-- TILE_PORT_DISPATCH (R268, R269): the entry at the head of the queue runs on the tile port, or a held `mx.load`
goes on when its lines are present. -/
def execTilePortDispatch (core : Nat) (s : State) : Host.Outcome State Fault Refusal :=
  .next (
    let c := s.core core
    let go (c : Core) (e : MxEntry) : State :=
      if e.op = 6 ∧ s.linesPresent core [(e.ra.toNat, 49168)] = false then s.setCore core { c with port := some e }
      else (s.setCore core { c with port := if e.op = 4 ∨ e.op = 7 then some e else none }).runTile core e
    if !s.coreRuns core then s
    else match c.port with
      | some e => if e.op == 6 && s.linesPresent core [(e.ra.toNat, 49168)] then go c e else s
      | none => match c.mq with
        | [] => s
        | e :: rest => if e.isLoop || !s.enginesGo core then s else go { c with mq := rest } e)

/-! ### A step of a loop (R259 to R266) -/

/-- The words of a chunk whose bitmap is taken as all ones: a dense loop does not read it (R263). -/
def denseWords (ws : List Nat) : List Nat := 0xFFFFFFFF :: ws.drop 1

/-- The elements of row i of an operand in a step: whether its bitmap bit is 1, and its scaled value (R259, R260). -/
def State.loopRow (s : State) (ck : Nat) (e : MxEntry) (k step i : Nat) : List (Bool × FVal) :=
  let t := (e.operand k).1
  (List.range e.span).flatMap (fun g =>
    let ws := wordsOf t.f.planes (s.mixOld e.old (e.chunkAt k step i g) (s.spRead ck (e.chunkAt k step i g) (t.f.planes * 4)))
    (List.range 32).map (fun j =>
      let col := 32 * (step * e.span + g) + j
      let v := t.f.decodeNarrow (codeOfPlanes t.f (denseWords ws) j)
      let sc := if t.sfmt = 0 then v else timesScale v (scaleVal (scaleWordOf t.sfmt
        (natOfBytes (s.mixOld e.old (t.scaleAt i col) (s.spRead ck (t.scaleAt i col) (if t.sfmt = 1 then 2 else 1))))))
      (ws.headD 0 / 2 ^ j % 2 == 1, match v with
        | .nan => .nan
        | _ => sc)))

/-- The bank-time of a step's reads (R236, R265). -/
def MxEntry.readcyc (e : MxEntry) (step : Nat) : Nat :=
  if loopCount e.rb ≤ step then 0
  else
    let ws := ((e.reads step).flatMap (fun r => List.range' (r.1 / 8) ((r.1 + r.2 - 1) / 8 + 1 - r.1 / 8))).dedup
    ((List.range 32).map (fun b => (ws.filter (fun w => w % 32 == b)).length)).foldl max 0

/-- The significand width p of a format (R259). -/
def Fmt.sigWidth (f : Fmt) : Nat := if f.e = 0 then f.w else f.m + 1

/-- The pass cycles of a step, given the greatest number of matched positions of a cell (R265, R266). -/
def MxEntry.passes (e : MxEntry) (matched : Nat) : Nat :=
  let p := (e.operand 0).1.f.sigWidth * (e.operand 1).1.f.sigWidth
  if e.op = 1 then max 1 ((matched + 31) / 32) * p else p

/-- One cell takes the products of a step (R261). -/
def cellStep (sparse : Bool) (x : Slot) (ra rb : List (Bool × FVal)) : Slot :=
  (ra.zip rb).foldl (fun x p =>
    if sparse && !(p.1.1 && p.2.1) then x
    else match p.1.2, p.2.2 with
      | .nan, _ => x
      | _, .nan => x
      | u, v => x.add (mulVal u v).1) x

/-- The matched positions of two rows. -/
def matchedOf (ra rb : List (Bool × FVal)) : Nat := ((ra.zip rb).filter (fun p => p.1.1 && p.2.1)).length

/-- Whether rows hold a NaN element (R262). -/
def rowsNan (l : List (List (Bool × FVal))) : Bool := l.any (fun r => r.any (fun p => p.2 == .nan))

/-- The work of a step: every cell in turn, threading the tile's status (R261, R262). -/
def State.stepWork (s : State) (ck : Nat) (e : MxEntry) (as bs : List (List (Bool × FVal))) : State :=
  let st := (s.core ck).status e.tile
  let st := if rowsNan as || rowsNan bs then st ||| 0x40000 else st
  let r := as.zipIdx.foldl (fun (acc : State × DWord) a => bs.zipIdx.foldl (fun (acc : State × DWord) b =>
    let n := acc.1.elem ck e.tile a.2 b.2
    let x := cellStep (e.op == 1) (slotAt acc.2 n) a.1 b.1
    (if x.n = n then acc.1 else acc.1.setElem ck e.tile a.2 b.2 x.n, x.status)) acc) (s, st)
  r.1.setTileStatus ck e.tile r.2

/-- The loop on the cell array ends (R271). -/
def State.endLoop (s : State) (ck : Nat) (e : MxEntry) : State :=
  let p := s.part (partOfCtx (ctxOfCore ck))
  let s := (s.setCore ck { s.core ck with loop := none }).setPart (partOfCtx (ctxOfCore ck))
    { p with idle := FMap.put p.idle (denseOfCore ck) s.cycle }
  let s := if racesOn e.raced e.tile then s
    else s.overflowReport e.asOp 2 e.tile e.ovf0 (((s.core ck).status e.tile).getLsbD 16)
  (s.blurRaced ck e.touch e.raced).mxArrive ck e

/-- The frame offset of an uncorrectable error in a step's reads (R271). DESIGN CHOICE (log 106): the first in the order A's rows,
A's scales, B's rows, B's scales. -/
def State.stepBad (s : State) (ck : Nat) (e : MxEntry) : Option Nat :=
  (e.reads e.step).findSome? (fun r => s.frameBad ck ((s.core ck).spBase + r.1) r.2)

/-- One step of the loop on the cell array. DESIGN CHOICE (log 106): a step that finds an uncorrectable error consumes no line. -/
def State.loopStep (s : State) (ck : Nat) (e : MxEntry) : State :=
  let r := s.readAreas ck e.readAreas e.asOp 2 (racesOn e.raced e.tile)
  let s := r.1
  let e := if r.2 then e.race e.touch.all else e
  match s.stepBad ck e with
  | some off => (s.endLoop ck e).report e.asOp 0x0F 2 e.ex (BitVec.ofNat 64 off)
  | none =>
    let as := (List.range (e.operand 0).1.rows).map (fun i => s.loopRow ck e 0 e.step i)
    let bs := (List.range (e.operand 1).1.rows).map (fun i => s.loopRow ck e 1 e.step i)
    let hits := if e.op = 1 then (as.flatMap (fun a => bs.map (matchedOf a))).foldl max 0 else 0
    let cost := (if e.step = 0 then e.readcyc 0 else 0) + max (e.passes hits) (e.readcyc (e.step + 1))
    let s := ((s.correctSp ck (e.reads e.step)).charge (ctxOfCore ck) 0 cost).stepWork ck e as bs
    let s := if e.consume then s.consumeLines ck (e.reads e.step) else s
    if e.step + 1 = loopCount e.rb then s.endLoop ck e
    else s.setCore ck { s.core ck with loop := some { e with step := e.step + 1 } }

/-- Whether two cores of contexts have one cell array: the same place in one partition. -/
def sameArray (a b : Nat) : Bool := partOfCtx (ctxOfCore a) == partOfCtx (ctxOfCore b) && denseOfCore a == denseOfCore b

/-- A loop takes the cell array: one that has been idle asks for a grant, the one request that its core has pending (R268,
R404). -/
def State.startLoop (s : State) (ck : Nat) (e : MxEntry) (rest : List MxEntry) : State :=
  let c := s.core ck
  let idle := FMap.look (s.part (partOfCtx (ctxOfCore ck))).idle 0 (denseOfCore ck) + 256 ≤ s.cycle
  let e := { e with grant := !decide idle, ovf0 := (c.status e.tile).getLsbD 16 }
  let s := s.setCore ck { c with mq := rest, loop := some e }
  if idle then
    let p := s.pkg (pkgOfCtx (ctxOfCore ck))
    let k := s.chipletOf ck % 8
    let l := (FMap.look p.surge [] k).filter (fun r => !sameArray r.1 ck) ++ [(ck, s.cycle)]
    s.setPkg (pkgOfCtx (ctxOfCore ck)) { p with surge := FMap.put p.surge k l }
  else s

/-- LOOP_STEP (R261, R268, R269, R272): the next loop takes the free cell array, or the one on it starts a step once
its lines are present, its grant is given and its budget allows. -/
def execLoopStep (core : Nat) (s : State) : Host.Outcome State Fault Refusal :=
  .next (
    let c := s.core core
    if !s.enginesGo core then s
    else match c.loop with
      | some e =>
        if e.grant && s.admits (ctxOfCore core) 0 && s.linesPresent core (e.reads e.step) then s.loopStep core e else s
      | none => match c.mq with
        | [] => s
        | e :: rest =>
          let behind := match c.port with
            | some p => p.tilesOf.contains e.tile
            | none => false
          if e.isLoop && !behind then s.startLoop core e rest else s)

/-! ### The surge arbiter (R404) -/

/-- The request that is granted next: among those of the first one's cycle, the first of the function that stands
next after the function granted last. The functions of a package go by partition and number. -/
def nextSurge (l : List (Nat × Nat)) (last : Nat) : Option (Nat × Nat) :=
  match l with
  | [] => none
  | h :: _ =>
    let same := l.filter (fun r => r.2 == h.2)
    let turn (r : Nat × Nat) : Nat := (ctxOfCore r.1 % 256 + 511 - last) % 256
    same.foldl (fun best r => match best with
      | none => some r
      | some q => if turn r < turn q then some r else some q) none

/-- SURGE_GRANT (R404): at most 4 grants in a 128-cycle window. -/
def execSurgeGrant (chiplet : Nat) (s : State) : Host.Outcome State Fault Refusal :=
  .next (
    let pkg := chiplet / 8
    let k := chiplet % 8
    let p := s.pkg pkg
    let l := FMap.look p.surge [] k
    let g := FMap.look p.grants 0 k
    let window := s.cycle / 128
    let n := if g / 8 = window then g % 8 else 0
    match nextSurge l (FMap.look p.lastGrant 255 k) with
    | none => s
    | some r =>
      if 4 ≤ n then s
      else
        let s := s.setPkg pkg { p with surge := FMap.put p.surge k (l.erase r)
                                       lastGrant := FMap.put p.lastGrant k (ctxOfCore r.1 % 256)
                                       grants := FMap.put p.grants k (window * 8 + n + 1) }
        let c := s.core r.1
        s.setCore r.1 { c with loop := c.loop.map (fun e => { e with grant := true }) })

end Sys2Proof.Machine
end

