-- ==== Sys2Proof/Machine/Signature.lean ====
section
/-! DEFINITION. The signature engine, class 10 (R281 to R298): descriptors, the truncated tensor products on tiles,
the queue and its dispatch. -/

namespace Sys2Proof.Machine

/-! ### Levels of a signature (R281, R282) -/

/-- The window Lk of a level. -/
def SigDesc.win (x : SigDesc) (k : Nat) : Int :=
  toSigned 16 (if k ≤ 4 then x.win1.toNat / 2 ^ (16 * (k - 1)) else x.win2.toNat / 2 ^ (16 * (k - 5)))

/-- The elements of level k: d^k. -/
def SigDesc.size (x : SigDesc) (k : Nat) : Nat := x.dim ^ k

/-- The tile that holds element e of level k. -/
def SigDesc.tileOf (x : SigDesc) (k e : Nat) : Nat := x.start k + e / 4096

/-- The levels 1 to N. -/
def SigDesc.levels (x : SigDesc) : List Nat := List.range' 1 x.n

/-- Element e of level k as an integer. -/
def State.sigElem (s : State) (ck : Nat) (x : SigDesc) (k e : Nat) : Int :=
  s.elem ck (x.tileOf k e) (e % 4096 / 64) (e % 64)

/-- The value of an integer at a window. -/
def atWindow (l n : Int) : FVal := ({ n := n, l := l } : Slot).value

/-- The values of level k. -/
def State.sigLevel (s : State) (ck : Nat) (x : SigDesc) (k : Nat) : List FVal :=
  (List.range (x.size k)).map (fun e => atWindow (x.win k) (s.sigElem ck x k e))

/-- Change every element of level k; the flags go to the tile that holds it, and its L becomes the window. -/
def State.mapLevel (s : State) (ck : Nat) (x : SigDesc) (k : Nat) (f : Nat → Slot → Slot) : State :=
  (List.range (x.size k)).foldl (fun s e =>
    let tile := x.tileOf k e
    let n := s.sigElem ck x k e
    let y := f e { slotAt ((s.core ck).status tile) n with l := x.win k }
    (if y.n = n then s else s.setElem ck tile (e % 4096 / 64) (e % 64) y.n).setTileStatus ck tile y.status) s

/-- Every contribution of a list enters a slot. -/
def Slot.addAll (x : Slot) (l : List FVal) : Slot := l.foldl Slot.add x

/-! ### The arithmetic (R284 to R287) -/

/-- rf(x): the rounding to f32, nearest even (R284). -/
def rf (v : FVal) : FVal := fmtF32.decode (fmtF32.round 1 v).1

/-- rf(±1/n). -/
def rfInverse (neg : Bool) (n : Nat) : FVal := fmtF32.decode (fmtF32.roundFrac 1 neg 1 n 0).1

/-- The exact product of two values. -/
def times (a b : FVal) : FVal := (mulVal a b).1

/-- The terms of element e of a level-k array from the products of level k - i and level i arrays, i from 1 to k - 1:
the left factor's word is the more significant part (R282, R285). -/
def crossTerms (d k e : Nat) (left right : Nat → List FVal) : List FVal :=
  (List.range' 1 (k - 1)).map (fun i =>
    times ((left (k - i)).getD (e / d ^ i) .nan) ((right i).getD (e % d ^ i) .nan))

/-- The array of a level from a function. -/
def tabulate (f : Nat → List FVal) (n : Nat) : List (List FVal) := (List.range (n + 1)).map f

/-- The arrays P[1] to P[N] of `sig.step`, P[0] empty (R285). -/
def stepArrays (d : Nat) (delta : List FVal) (n : Nat) : List (List FVal) :=
  match n with
  | 0 => [[]]
  | 1 => [[], delta]
  | m + 1 =>
    let ps := stepArrays d delta m
    let c := rfInverse false (m + 1)
    ps ++ [(ps.getD m []).flatMap (fun p => delta.map (fun x => rf (times (rf (times p x)) c)))]

/-- `sig.step` (R285). -/
def State.sigStep (s : State) (ck : Nat) (x : SigDesc) (l0 : Bool) (delta : List FVal) : State :=
  let ps := stepArrays x.dim delta x.n
  let old := tabulate (fun k => (s.sigLevel ck x k).map rf) x.n
  x.levels.foldl (fun s k => s.mapLevel ck x k (fun e y =>
    y.addAll ((if l0 then [(ps.getD k []).getD e .nan] else []) ++
      crossTerms x.dim k e (fun i => old.getD i []) (fun i => ps.getD i [])))) s

/-- `sig.join` and `sig.joinl` (R286): X becomes X ⊗ Y, or Y ⊗ X where `flip` says so. -/
def State.sigJoin (s : State) (ck : Nat) (x y : SigDesc) (x0 y0 flip : Bool) : State :=
  let xs := tabulate (fun k => (s.sigLevel ck x k).map rf) x.n
  let ys := tabulate (fun k => (s.sigLevel ck y k).map rf) x.n
  let exact := tabulate (fun k => s.sigLevel ck y k) x.n
  let u := if flip then ys else xs
  let v := if flip then xs else ys
  x.levels.foldl (fun s k => s.mapLevel ck x k (fun e z =>
    let z := if y0 then z else { z with n := 0 }
    z.addAll ((if x0 then [(exact.getD k []).getD e .nan] else []) ++
      crossTerms x.dim k e (fun i => u.getD i []) (fun i => v.getD i [])))) s

/-- The exact sum of values, rounded once. -/
def sumRounded (l : List FVal) : FVal := rf (l.foldl (fun a v => (addVal 1 a v).1) (.fin false 0 0))

/-- The arrays R[n] of `sig.log` for one n from those of n - 1 and of 1, by level (R287). -/
def logArrays (d depth n : Nat) (prev one : List (List FVal)) : List (List FVal) :=
  tabulate (fun k => if k < n then [] else
    (List.range (d ^ k)).map (fun e =>
      sumRounded ((List.range' (n - 1) (k - (n - 1))).map (fun i =>
        times ((prev.getD i []).getD (e / d ^ (k - i)) .nan) ((one.getD (k - i) []).getD (e % d ^ (k - i)) .nan))))) depth

/-- R[2] to R[depth], each after the one before. -/
def logTower (d depth n fuel : Nat) (prev one : List (List FVal)) : List (List (List FVal)) :=
  match fuel with
  | 0 => []
  | f + 1 => let r := logArrays d depth n prev one
    r :: logTower d depth (n + 1) f r one

/-- `sig.log` (R287). -/
def State.sigLog (s : State) (ck : Nat) (x : SigDesc) : State :=
  let one := tabulate (fun k => (s.sigLevel ck x k).map rf) x.n
  let rs := logTower x.dim x.n 2 (x.n - 1) one one
  x.levels.foldl (fun s k => s.mapLevel ck x k (fun e y =>
    y.addAll ((List.range' 2 (k - 1)).map (fun n =>
      times (rfInverse (n % 2 == 0) n) (((rs.getD (n - 2) []).getD k []).getD e .nan))))) s

/-- `sig.one` (R293). -/
def State.sigOne (s : State) (ck : Nat) (x : SigDesc) : State :=
  x.levels.foldl (fun s k => (List.range (x.group k)).foldl (fun s g =>
    s.zeroTile ck (x.start k + g) (x.win k)) s) s

/-- The word of `sig.stat` (R291); L0 stands in bit 3. -/
def State.sigStatus (s : State) (ck : Nat) (x : SigDesc) (l0 : Bool) : DWord :=
  let flag (b : Nat) : Bool := x.tileList.any (fun t => ((s.core ck).status t).getLsbD b)
  BitVec.ofNat 64 (x.base * 2 ^ 24 + x.n * 2 ^ 20 + x.dim * 2 ^ 13 + x.tiles * 2 ^ 7 + bit l0 * 8 +
    bit (flag 18) * 4 + bit (flag 17) * 2 + bit (flag 16))

/-- What `sig.stat` gives: flags of tiles that race are free (R297). -/
def State.sigStatusOf (s : State) (ck : Nat) (e : SigEntry) (l0 : Bool) : DWord :=
  let w := s.sigStatus ck e.dx l0
  if e.raced.isEmpty then w else (w &&& ~~~7) ||| (Config.freeStatus (s.tick * 64 + 63) &&& 7)

/-! ### The queue (R296) -/

/-- An entry as an operation that reports. -/
def SigEntry.asOp (e : SigEntry) : Op :=
  { id := e.opId, bk := e.bk, ser := e.ser, cls := 10, opn := e.op, flag := none, upc := e.upc, ex := e.ex }

/-- The descriptor number of an encoding (R290). -/
def sigK (x : Enc) : Nat := x.w2.toNat / 2 ^ 22 % 4

/-- Put an entry that names a barrier into the queue (R296). -/
def State.sigQueue (s : State) (bk : Nat) (b : Bundle) (x : Enc) (e : SigEntry) : State :=
  let ck := coreOfBundle bk
  let c := s.core ck
  let key := s.keyFor ck 1 (mxBar x)
  let y := s.bar key
  if 8 ≤ c.sq.length ∨ y.eng y.p = 255 then s.stall
  else
    let e := { e with opId := s.nextId, bk := bk, ser := b.ser, upc := b.pc, ex := b.active, k := sigK x
                      launch := b.launch, bar := some (key, y.p) }
    let s := s.enqueueSig ck e
    ({ s with nextId := s.nextId + 1 }.putBar key (y.enrol b.ser)).retire bk b x

/-- Put an entry that writes registers into the queue. -/
def State.sigReads (s : State) (bk : Nat) (b : Bundle) (x : Enc) (e : SigEntry) : State :=
  let ck := coreOfBundle bk
  let c := s.core ck
  if 8 ≤ c.sq.length then s.stall
  else
    let e := { e with opId := s.nextId, bk := bk, ser := b.ser, upc := b.pc, ex := b.active, k := sigK x
                      launch := b.launch }
    (s.enqueueSig ck e).handOff bk b x
      { id := 0, bk := bk, ser := 0, cls := 10, opn := e.op, flag := none, upc := 0, ex := b.active
        reqs := [{ uid := 0, t := 64, stage := .fabric, act := .sys 5 0 0 0 }] }

/-- A class-10 instruction that names a configured descriptor (R281, R293). -/
def State.sigOp (s : State) (i : Instr) (x : Enc) (f : Nat → Bundle → Nat → SigDesc → State) :
    Host.Outcome State Fault Refusal :=
  s.onLong i x (fun bk b =>
    let ck := coreOfBundle bk
    let d := (s.core ck).sd (sigK x)
    if d.dim = 0 then s.trapSync bk 0x09 d.base else f bk b ck d)

/-- A blank entry of an op on a descriptor. -/
def sigEntry (op : Nat) (d : SigDesc) : SigEntry :=
  { op := op, opId := 0, bk := 0, ser := 0, upc := 0, ex := 0, dx := d }

/-- The window words with the levels above N cleared (R292). -/
def keepLevels (n : Nat) (w : DWord) : DWord := BitVec.ofNat 64 (w.toNat % 2 ^ (16 * min n 4))

/-- `sig.cfg` (R292). -/
def execSigCfg (x : Enc) (s : State) : Host.Outcome State Fault Refusal :=
  s.onLong (.sigCfg x) x (fun bk b =>
    let ck := coreOfBundle bk
    let c := s.core ck
    let w := (b.sreg x.a.toNat).toNat
    let n := w / 2 ^ 20 % 16
    let dim := w / 2 ^ 13 % 128
    let base := mxTile x
    let d : SigDesc := { dim := dim, n := n, base := base, win1 := keepLevels n (b.sreg (x.a.toNat + 1))
                         win2 := keepLevels (n - 4) (b.sreg (x.a.toNat + 2)), l0 := (c.sd (sigK x)).l0 }
    if dim < 2 ∨ 64 < dim ∨ n < 1 ∨ 8 < n ∨ c.tiles < base + d.tiles then s.trapSync bk 0x09 base
    else if 8 ≤ c.sq.length then s.stall
    else
      let s := s.setDesc ck (sigK x) d
      let e := { sigEntry 0 d with k := sigK x, opId := s.nextId, ser := b.ser, bk := bk }
      ({ s.enqueueSig ck e with nextId := s.nextId + 1 }).retire bk b x)

/-- `sig.one` (R293). -/
def execSigOne (x : Enc) (s : State) : Host.Outcome State Fault Refusal :=
  s.sigOp (.sigOne x) x (fun bk b _ d => s.sigQueue bk b x (sigEntry 1 d))

/-- The register form of `sig.step` (R294). -/
def execSigStepReg (x : Enc) (s : State) : Host.Outcome State Fault Refusal :=
  s.sigOp (.sigStepReg x) x (fun bk b _ d =>
    if b.width < d.dim then s.trapSync bk 0x09 d.base
    else if b.executing x = 0 then s.retire bk b x
    else s.sigQueue bk b x { sigEntry 2 d with
      delta := (List.range d.dim).map (fun j => if hasBit (b.executing x) j then b.vreg j x.a.toNat else 0) })

/-- The scratchpad form of `sig.step` (R294). -/
def execSigStepScratch (x : Enc) (s : State) : Host.Outcome State Fault Refusal :=
  s.sigOp (.sigStepScratch x) x (fun bk b ck d =>
    let n := x.w2.toNat / 2 ^ 24
    let v := FMap.look (s.core ck).tid 0 n
    let t := tidOf v
    let a := (b.sreg x.a.toNat).toNat
    if t.valid = false ∨ t.f.kind ≠ 1 ∨ t.lay ≠ 0 ∨ t.cols < d.dim then s.trapSync bk 0x09 n
    else if a % 4 ≠ 0 then s.trapSync bk 0x03 a
    else if !s.inSp ck a (4 * d.dim) then s.trapSync bk 0x05 a
    else if b.executing x = 0 then s.retire bk b x
    else s.sigQueue bk b x { sigEntry 2 d with scratch := true, tid := v, ra := b.sreg x.a.toNat
                                               consume := x.w2.getLsbD 0 })

/-- A join at hand-off (R293). -/
def State.joinOp (s : State) (i : Instr) (x : Enc) (op : Nat) : Host.Outcome State Fault Refusal :=
  s.sigOp i x (fun bk b ck d =>
    let y := (s.core ck).sd (x.d.toNat % 4)
    if y.dim = 0 ∨ y.dim ≠ d.dim ∨ y.n ≠ d.n then s.trapSync bk 0x09 y.base
    else s.sigQueue bk b x { sigEntry op d with y := x.d.toNat % 4, dy := y })

/-- `sig.join` (R286). -/
def execSigJoin (x : Enc) (s : State) : Host.Outcome State Fault Refusal := s.joinOp (.sigJoin x) x 3
/-- `sig.joinl` (R286). -/
def execSigJoinl (x : Enc) (s : State) : Host.Outcome State Fault Refusal := s.joinOp (.sigJoinl x) x 4

/-- `sig.log` (R287). -/
def execSigLog (x : Enc) (s : State) : Host.Outcome State Fault Refusal :=
  s.sigOp (.sigLog x) x (fun bk b _ d => s.sigQueue bk b x (sigEntry 5 d))

/-- The fault of a selector of `sig.read` (R295): trap 0x09, or the number of trap 0x02. -/
def sigSelector (b : Bundle) (sel : DWord) (t : Tid) (d : SigDesc) : Option (Nat × Bool) :=
  let w := sel.toNat
  let nc := w / 2 ^ 24 % 128
  let g := (nc * t.f.container + 31) / 32
  let lev := w / 2 ^ 60
  if w / 2 ^ 56 % 16 ≠ 0 ∨ w / 2 ^ 31 % 2 ≠ 0 ∨ w / 2 ^ 8 % 2 ^ 16 ≠ 0 ∨ nc = 0 ∨ 64 < nc ∨ d.n < lev ∨
      d.size lev ≤ w / 2 ^ 32 % 2 ^ 24 then some (0, true)
  else if b.allot < w % 256 + g then some (max (w % 256) b.allot, false)
  else none

/-- `sig.read` (R295). -/
def execSigRead (x : Enc) (s : State) : Host.Outcome State Fault Refusal :=
  s.sigOp (.sigRead x) x (fun bk b ck d =>
    let n := x.w2.toNat / 2 ^ 24
    let v := FMap.look (s.core ck).tid 0 n
    let t := tidOf v
    let sel := b.sreg x.a.toNat
    if !t.valid then s.trapSync bk 0x09 n
    else match sigSelector b sel t d with
      | some (_, true) => s.trapSync bk 0x09 n
      | some (r, false) => s.trapSync bk 0x02 r
      | none => s.sigReads bk b x { sigEntry 6 d with tid := v, ra := sel, rnd := b.modeForTid x.rnd.toNat t.f.rnd })

/-- `sig.stat` (R291). -/
def execSigStat (x : Enc) (s : State) : Host.Outcome State Fault Refusal :=
  s.sigOp (.sigStat x) x (fun bk b _ d => s.sigReads bk b x { sigEntry 7 d with d := x.d.toNat })

/-! ### Dispatch -/

/-- The results of `sig.read` (R295); unspecified codes in a race. -/
def State.sigRows (s : State) (ck : Nat) (e : SigEntry) (l0 : Bool) : List WB :=
  let f := (tidOf e.tid).f
  let w := e.ra.toNat
  let nc := w / 2 ^ 24 % 128
  let lev := w / 2 ^ 60
  let first := w / 2 ^ 32 % 2 ^ 24
  let d := e.dx
  let code (k : Nat) : Nat × DWord :=
    if d.size lev ≤ k then (0, 0)
    else if lev = 0 then f.write e.rnd (intVal (if l0 then 1 else 0)) 1
    else if racesOn e.raced (d.tileOf lev k) then (natOfBytes (s.freeBytes (1048576 + 4 * k) 4), 0)
    else f.write e.rnd (if ((s.core ck).status (d.tileOf lev k)).getLsbD 18 then .nan
      else atWindow (d.win lev) (s.sigElem ck d lev k)) 1
  ((bitsOf e.ex).filter (fun i => first + i * nc < d.size lev)).map (fun i =>
    { t := i, ws := rowRegs (w % 256) ((nc * f.container + 31) / 32)
        ((List.range nc).map (fun j => code (first + i * nc + j))) f.container })

/-- The increments of a step: captured, or read from the scratchpad. -/
def State.increments (s : State) (ck : Nat) (e : SigEntry) : List FVal :=
  if e.scratch then (List.range e.dx.dim).map (fun j => fmtF32.decode (natOfBytes
    (s.mixOld e.old (e.ra.toNat + 4 * j) (s.spRead ck (e.ra.toNat + 4 * j) 4))))
  else e.delta.map (fun w => fmtF32.decode w.toNat)

/-- The work of an entry on the tiles and L0 (R285 to R287, R292, R293). -/
def State.sigWork (s : State) (ck : Nat) (e : SigEntry) : State :=
  let l0 (k : Nat) : Bool := ((s.core ck).sd k).l0
  match e.op with
  | 0 => s.setL0 ck e.k true
  | 1 => (s.sigOne ck e.dx).setL0 ck e.k true
  | 2 => s.sigStep ck e.dx (l0 e.k) (s.increments ck e)
  | 3 => (s.sigJoin ck e.dx e.dy (l0 e.k) (l0 e.y) false).setL0 ck e.k (l0 e.k && l0 e.y)
  | 4 => (s.sigJoin ck e.dx e.dy (l0 e.k) (l0 e.y) true).setL0 ck e.k (l0 e.k && l0 e.y)
  | 5 => (s.sigLog ck e.dx).setL0 ck e.k false
  | _ => s

/-- The lowest tile in which an entry set OVF; one that races raises no trap (R270). -/
def sigOverflow (before after : Core) (e : SigEntry) : Option Nat :=
  e.dx.tileList.find? (fun t => !racesOn e.raced t && !(before.status t).getLsbD 16 && (after.status t).getLsbD 16)

/-- A completed entry that names a barrier arrives on it; one of an ordered join ends a pairing (R350). -/
def State.sigArrive (s : State) (ck : Nat) (e : SigEntry) : State :=
  match e.bar with
  | none => match e.coll with
    | none => s
    | some l => s.setLaunch l { s.launch l with joins := (s.launch l).joins + 1, joining := false }
  | some (k, p) =>
    { s.setCore ck { s.core ck with unseen := (s.core ck).unseen ++
        [{ touch := e.touch, bar := k, phase := p, sig := true, ser := e.ser }] } with
      ops := s.ops ++ [{ e.asOp with fin := .arrive k p }] }

/-- The frame offset of an uncorrectable error in what an entry reads. -/
def State.sigBad (s : State) (ck : Nat) (e : SigEntry) : Option Nat :=
  e.reads.findSome? (fun r => s.frameBad ck ((s.core ck).spBase + r.1) r.2)

/-- An entry that writes tiles runs and completes (R298). -/
def State.runSig (s : State) (ck : Nat) (e : SigEntry) : State :=
  match s.sigBad ck e with
  | some off => (s.report e.asOp 0x0F 3 e.ex (BitVec.ofNat 64 off)).sigArrive ck e
  | none =>
    let before := s.core ck
    let t := (s.correctSp ck e.reads).sigWork ck e
    let t := if e.consume then t.consumeLines ck e.reads else t
    let t := match (if e.coll.isSome then none else sigOverflow before (t.core ck) e) with
      | none => t
      | some n => t.overflowReport e.asOp 3 n false true
    (t.blurRaced ck e.touch e.raced).sigArrive ck e

/-- The entry that the engine dispatches next: the head of the queue while the core's engines go on; while its context does not
run, the next pairing of an ordered join, whose state the transfer engine holds (R351). -/
def State.sigNext (s : State) (ck : Nat) : Option SigEntry :=
  if s.enginesGo ck then (s.core ck).sq.head?
  else if s.coreRuns ck then none
  else (s.core ck).sq.find? (fun e => e.coll.isSome)

/-- SIG_DISPATCH (R296): the entry at the head of the queue runs to completion. -/
def execSigDispatch (core : Nat) (s : State) : Host.Outcome State Fault Refusal :=
  .next (
    let c := s.core core
    if c.sgo.isSome then s
    else match s.sigNext core with
      | none => s
      | some e =>
        if !s.linesPresent core e.reads then s
        else
          let l0 := (c.sd e.k).l0
          let s := s.setCore core { c with sq := c.sq.erase e, sgo := if e.op = 6 ∨ e.op = 7 then some e else none }
          let r := s.readAreas core e.readAreas e.asOp 3 false
          let s := r.1
          let e := if r.2 then e.race e.touch.all else e
          match e.op with
          | 6 => s.endReq e.opId 0 (s.sigRows core e l0)
          | 7 => s.endReq e.opId 0 [{ t := 64, ws := [.s e.d (s.sigStatusOf core e l0)] }]
          | _ => s.runSig core e)

end Sys2Proof.Machine
end

