-- ==== Sys2Proof/Machine/System.lean ====
section
/-! DEFINITION. Class 12, ops 00 to 05 (R155, R156, R226 to R230): special registers, tensor identifier entries, `clk`
and `snap`. -/

namespace Sys2Proof.Machine

/-! ### Special registers -/

/-- sr.pos of thread t of a bundle (R36). A firmware core has a package and no place in a partition. -/
def State.posOf (s : State) (bk t : Nat) : DWord :=
  if isFw bk then BitVec.ofNat 64 (pkgOfBundle bk * 2 ^ 50)
  else
    let ck := coreOfBundle bk
    let dl := s.denseDl ck
    BitVec.ofNat 64 (pkgOfBundle bk * 2 ^ 50 + dl / 4 * 2 ^ 48 + dl / 2 * 2 ^ 45 + dl * 2 ^ 41 +
      s.physDl ck % 2 * 2 ^ 40 + denseOfCore ck * 2 ^ 30 + laneOfBundle bk / 8 * 2 ^ 27 + laneOfBundle bk * 2 ^ 21 +
      slotOfBundle bk * 2 ^ 18 + t * 2 ^ 12)

/-- The instance of a level in which a core lies, by its physical die layer; cores and lane groups by their number. -/
def instanceOf (lvl dl core : Nat) : Nat :=
  match lvl with
  | 0 => core
  | 1 => core
  | 2 => dl
  | 3 => dl / 2
  | 4 => dl / 4
  | _ => 0

/-- LAT and FCOST of a level, the same for every partition (R39). -/
def discTable (lvl : Nat) : Nat × Nat :=
  match lvl with
  | 0 => (0, 2)
  | 1 => (0, 12)
  | 2 => (140, 60)
  | 3 => (140, 110)
  | 4 => (260, 240)
  | 5 => (260, 520)
  | 6 => (820, 1900)
  | _ => (1600, 3600)

/-- sr.discL (R38, R39): INST and CORES count the partition's own units. A firmware core has no partition: what it
reads is free (log 14). -/
def State.disc (s : State) (bk lvl : Nat) : DWord :=
  if isFw bk then Config.discovery lvl
  else
    let ck := coreOfBundle bk
    let ctx := ctxOfCore ck
    let n := s.coresOf (partOfCtx ctx)
    let place (c : Nat) : Nat := instanceOf lvl (s.physDl (ctx * 1024 + c)) c
    let all := (List.range n).map place
    let cores := if lvl = 0 then 1 else (all.filter (fun i => i == place (denseOfCore ck))).length
    let inst := if lvl = 0 then 8 * n else all.dedup.length
    let d := discTable lvl
    BitVec.ofNat 64 (d.1 * 2 ^ 48 + inst % 2 ^ 16 * 2 ^ 32 + cores % 2 ^ 16 * 2 ^ 16 + d.2)

/-- A special register as thread t of a bundle reads it (R226). -/
def State.readSpecial (s : State) (bk t n : Nat) : DWord :=
  let b := s.bundle bk
  match n with
  | 0 => b.status
  | 1 => b.trapReg
  | 2 => BitVec.ofNat 64 s.cycle
  | 3 => s.posOf bk t
  | 4 => if isFw bk then 0 else (s.core (coreOfBundle bk)).part
  | _ => s.disc bk (n - 8)

/-- The number of a special register in a field or in word 2 (R228). -/
def specialNumber (x : Enc) (field : BitVec 8) : Nat :=
  if x.form == .extended then x.w2.toNat / 2 ^ 16 else field.toNat

/-- Write a 64-bit value of each party: register pairs of the executing threads, or a uniform register (R229). -/
def Bundle.putValues (b : Bundle) (x : Enc) (v : Nat → DWord) : Bundle :=
  if x.u then b.setSreg x.d.toNat (v b.lead)
  else
    let c := (bitsOf (b.executing x)).foldl (fun c t => c.setVpair t x.d.toNat (v t)) b
    (bitsOf (b.zeroed x)).foldl (fun c t => c.setVpair t x.d.toNat 0) c

/-- `mfs` (R229). -/
def execMfs (x : Enc) (s : State) : Host.Outcome State Fault Refusal :=
  s.onUnit (.mfs x) x (fun bk b =>
    s.retire bk (b.putValues x (fun t => s.readSpecial bk t (specialNumber x x.a))) x)

/-- `mts` (R227, R229): sr.status is the one register that it writes. -/
def execMts (x : Enc) (s : State) : Host.Outcome State Fault Refusal :=
  s.onUnit (.mts x) x (fun bk b => s.retire bk { b with status := statusWrite (b.sreg x.a.toNat) } x)

/-- `clk` (R229). -/
def execClk (x : Enc) (s : State) : Host.Outcome State Fault Refusal :=
  s.onUnit (.clk x) x (fun bk b =>
    let v : DWord := BitVec.ofNat 64 (if x.b = 0 then s.cycle else s.activeCycles bk)
    s.retire bk (b.putValues x (fun _ => v)) x)

/-- `snap` (R229): it reaches the package's snapshot unit later. -/
def execSnap (x : Enc) (s : State) : Host.Outcome State Fault Refusal :=
  s.onLong (.snap x) x (fun bk b =>
    s.handOff bk b x { id := 0, bk := bk, ser := 0, cls := 12, opn := 5, flag := none, upc := 0, ex := b.active
                       reqs := [{ uid := 0, t := 64, stage := .home, act := .sys 6 0 0 x.d.toNat }] })

/-- `snap` is performed (R229, R445): it triggers, or joins a held snapshot; a kernel's trigger that is disabled
writes 0. -/
def State.performSnap (s : State) (o : Op) (r : Req) (d : Nat) : State :=
  let pkg := pkgOfBundle o.bk
  if (s.pkg pkg).snap.getLsbD 2 && !isFw o.bk then s.endReq o.id r.uid [{ t := 64, ws := [.s d 0] }]
  else
    let s := s.snapTrigger pkg 1
    s.endReq o.id r.uid [{ t := 64, ws := [.s d ((s.pkg pkg).snap >>> 16)] }]

/-! ### Tensor identifiers (R155, R156) -/

/-- `tid.wr` (R156). -/
def execTidWr (x : Enc) (s : State) : Host.Outcome State Fault Refusal :=
  s.onUnit (.tidWr x) x (fun bk b =>
    let k := x.w2.toNat % 256
    let e : BitVec 128 := (b.sreg (x.a.toNat + 1)).zeroExtend 128 <<< 64 ||| (b.sreg x.a.toNat).zeroExtend 128
    if !(tidOf e).valid then s.trapSync bk 0x09 k
    else
      let ck := coreOfBundle bk
      (s.setCore ck { s.core ck with tid := FMap.write (s.core ck).tid 0 k e }).retire bk b x)

/-- `tid.rd` (R156). -/
def execTidRd (x : Enc) (s : State) : Host.Outcome State Fault Refusal :=
  s.onUnit (.tidRd x) x (fun bk b =>
    let e := FMap.look (s.core (coreOfBundle bk)).tid 0 (x.w2.toNat % 256)
    s.retire bk ((b.setSreg x.d.toNat (e.truncate 64)).setSreg (x.d.toNat + 1) ((e >>> 64).truncate 64)) x)

end Sys2Proof.Machine
end

