-- ==== Sys2Proof/Machine/Fabric.lean ====
section
/-! DEFINITION. Arrival counters (R337 to R341), the packets of the fabric (R321, R322, R326, R329, R332) and the
expert queues they reach (R353, R354). -/

namespace Sys2Proof.Machine

/-! ### Arrival counters -/

/-- The key of the counter at scratchpad byte x of a core. -/
def ctrKey (ck x : Nat) : Nat := ck * 2 ^ 22 + x

/-- The value of a counter. -/
def State.ctrValue (s : State) (ck x : Nat) : DWord := BitVec.ofNat 64 (natOfBytes (s.spRead ck x 8))

/-- Whether a counter value has reached a target (R338). -/
def ctrReached (c t : DWord) : Bool := !(c - t).msb

/-- The armings of a bundle on a counter. -/
def State.armsOf (s : State) (ser key : Nat) : List Arming :=
  s.arms.filter (fun a => a.ser == ser && a.key == key && a.bar.isNone)

/-- Threads of a bundle parked in `ctr.wait` on a counter go on when every waiting arming of the bundle on it has
been reached; those armings are consumed (R341). -/
def State.wakeCounter (s : State) (bk ser key : Nat) : State :=
  let b := s.bundle bk
  let parked := b.maskWhere (fun th => match th.cond with
    | .counter k _ => k == key
    | _ => false)
  if b.ser ≠ ser ∨ parked = 0 ∨ (s.armsOf ser key).any (fun a => !a.reached) = true then s
  else
    let go (th : Thread) : Thread := match th.cond with
      | .counter _ len => { th.advance len with cond := .running }
      | _ => th
    let s := s.setBundle bk (b.mapThreads parked go).rechoose
    { s with arms := s.arms.filter (fun a => !(a.ser == ser && a.key == key && a.bar.isNone)) }

/-- An arming found reached performs its release (R338, R340): the enrolled barrier's engine arrival, or the waits
of its bundle. -/
def State.releaseArming (s : State) (a : Arming) : State :=
  match a.bar with
  | some (k, p) => ({ s with arms := s.arms.filter (fun x => x != a) }).engineArrival k p
  | none =>
    if (s.bundle a.bk).ser = a.ser then
      ({ s with arms := s.arms.map (fun (x : Arming) => if x = a then { x with reached := true } else x) }).wakeCounter
        a.bk a.ser a.key
    else { s with arms := s.arms.filter (fun x => x != a) }

/-- The armings of a counter are evaluated (R338); those of a context that does not run wait until it does (R342). -/
def State.evalArms (s : State) (ck x : Nat) : State :=
  if (s.ctx (ctxOfCore ck)).running then
    (s.arms.filter (fun a => a.key == ctrKey ck x && !a.reached && ctrReached (s.ctrValue ck x) a.target)).foldl
      (fun s a => s.releaseArming a) s
  else { s with arms := s.arms.map (fun a => if a.key == ctrKey ck x then { a with due := true } else a) }

/-- Store a counter and evaluate it. -/
def State.ctrPut (s : State) (ck x : Nat) (v : DWord) : State := (s.spWrite ck x (bytesOfNat 8 v.toNat)).evalArms ck x

/-- Add to a counter, which the bank reads and corrects, and evaluate it (R232, R332). -/
def State.ctrBump (s : State) (ck x n : Nat) : State :=
  (s.correctSp ck [(x, 8)]).ctrPut ck x (s.ctrValue ck x + BitVec.ofNat 64 n)

/-- Whether n bytes of a scratchpad that the transfer engine reads hold an uncorrectable error: the frame offset of the
word (R232). -/
def State.spBad (s : State) (ck x n : Nat) : Option Nat := s.frameBad ck ((s.core ck).spBase + x) n

/-! ### Packets -/

/-- The packet with a number. -/
def State.pkt? (s : State) (id : Nat) : Option Packet := s.pkts.find? (fun p => p.id == id)

/-- A packet leaves the fabric. -/
def State.dropPkt (s : State) (id : Nat) : State := { s with pkts := s.pkts.filter (fun p => p.id != id) }

/-- The operation and request that a packet belongs to. -/
def State.ownerOf (s : State) (p : Packet) : Option (Op × Req) :=
  match s.op? p.opId with
  | none => none
  | some o => (o.req? p.uid).map (fun r => (o, r))

/-- Whether a request packet stands behind an earlier one of its path: a path's requests are served in the order of their
numbers (R322). -/
def State.pathBehind (s : State) (p : Packet) : Bool :=
  p.asks && s.pkts.any (fun q => decide (q.id < p.id) && q.asks && q.path == p.path)

/-- Replace a packet by its answer: a reply with data, which of a copy carries its counter (R332), an acknowledgement, or a
notice. -/
def State.answer (s : State) (p : Packet) (op : Nat) (data : List Byte) : State :=
  (s.dropPkt p.id).launchPacket { p with op := op, data := data, escape := false, ctr := if op = 2 then p.ctr else none
                                         aop := 0, opnd := 0, len := data.length, leaves := p.goes, goes := p.leaves }

/-- Land results straight from a reply (R303). -/
def State.landNow (s : State) (o : Op) (t : Nat) (ws : List RegW) : State :=
  let b := s.bundle o.bk
  if b.ser = o.ser then s.setBundle o.bk (b.land { t := t, ws := ws }) else s

/-- The engine that reports a code of a request's own read: what lies in a pool is read for the transfer engine (R70,
R219). -/
def State.engineAt (s : State) (o : Op) (r : Req) (code : Nat) : Nat :=
  match s.target o.orig r.pa r.n with
  | .sp .. => if code = 0x0F then 5 else engineOf code
  | _ => engineOf code

/-- A request packet is served: the answer it gets. -/
def State.serveDone (s : State) (p : Packet) (o : Op) (r : Req) (d : Done) (op : Nat) : State :=
  match d with
  | .ok s l => s.answer p (if l.isEmpty then 5 else op) l
  | .dropped => s.answer p 6 []
  | .fault code detail => (s.dropPkt p.id).failReq o r code (s.engineAt o r code) detail

/-- READ_REQUEST (R321): a read request reaches its home and is served. -/
def State.readAtHome (s : State) (p : Packet) (o : Op) (r : Req) : State :=
  let s := match o.orig with
    | some c => s.charge c 1 (Config.hbmUnits s.tick)
    | none => s
  match r.act with
  | .bulk .. =>
    let t := s.targetOf o r
    (match t with
      | .drop => s.answer p 6 []
      | .out => (s.dropPkt p.id).failReq o r 0x05 6 r.addr
      | _ => match s.fetchBytes t r.pa r.n with
        | .error a => (s.dropPkt p.id).failReq o r 0x0F (s.engineAt o r 0x0F) a
        | .ok l => (s.correctAt t r.pa r.n).answer p 2 l)
  | _ => s.serveDone p o r (s.performReq o r) 2

/-- The replies to the parts of a copy's packet that have come back, with the scratchpad byte of each (R331). -/
def State.partsBack (s : State) (o : Op) (r : Req) : List (Nat × Packet) :=
  (o.reqs.filter r.samePacket).filterMap (fun q =>
    match q.act, s.pkts.find? (fun p => p.op == 2 && p.opId == o.id && p.uid == q.uid && s.onLink p) with
    | .bulk _ sp _, some p => some (sp, p)
    | _, _ => none)

/-- A packet that has landed at the core that copies is acknowledged to its source (R332). -/
def State.acknowledges (s : State) (p : Packet) : State :=
  s.launchPacket { p with op := 5, opId := 0, data := [], ctr := none, len := 0, leaves := p.goes, goes := p.leaves }

/-- The bytes of a packet land in the scratchpad once all its parts have come back, and then count; it is acknowledged to its
source (R332). -/
def State.copyReturns (s : State) (o : Op) (r : Req) (ctr : Option Nat) : State :=
  let ck := coreOfBundle o.bk
  let parts := s.partsBack o r
  let bad := ctr.bind (fun x => s.spBad ck x 8)
  if parts.length < (o.reqs.filter r.samePacket).length then s
  else if bad.isSome then (parts.foldl (fun s (e : Nat × Packet) => s.dropPkt e.2.id) s).copyFails o r 0x0F r.dest
  else
    let s := parts.foldl (fun s (e : Nat × Packet) => (s.dropPkt e.2.id).spWrite ck e.1 e.2.data) s
    let s := match ctr with
      | some x => s.ctrBump ck x ((parts.map (fun e => e.2.data.length)).foldl (· + ·) 0)
      | none => s
    parts.foldl (fun s (e : Nat × Packet) => (s.acknowledges e.2).endReq o.id e.2.uid []) s

/-- A read reply returns: a load's registers are written, a copy's bytes land and count (R323, R332). -/
def State.readReturns (s : State) (p : Packet) (o : Op) (r : Req) : State :=
  match r.act with
  | .bulk _ _ ctr => s.copyReturns o r ctr
  | _ =>
    let s := s.dropPkt p.id
    let ws := replyRegs r.act p.data
    if r.t = 65 then s.endReq o.id r.uid [{ t := 65, ws := ws }] else (s.landNow o r.t ws).endReq o.id r.uid []

/-- A write packet lands at its home (R332). A put's counter gains its bytes once they are performed; where the
counter answers nowhere, the bytes are not written (R334). -/
def State.writeLands (s : State) (p : Packet) (o : Op) (r : Req) : State :=
  let s := match o.orig with
    | some c => s.charge c 1 (Config.hbmUnits s.tick)
    | none => s
  match r.act with
  | .bulk .. =>
    let t := s.targetOf o r
    let c := p.ctr.map (fun a => s.target o.orig a 8)
    (match t, c with
      | .drop, _ => s.answer p 6 []
      | .out, _ => (s.dropPkt p.id).failReq o r 0x05 6 r.addr
      | _, some (.sp ck x) =>
        if (s.spBad ck x 8).isSome then (s.dropPkt p.id).failReq o r 0x0F 5 r.addr
        else (((s.storeBytes t p.dst agentContext p.data).ctrBump ck x p.data.length)).answer p 5 []
      | _, some _ => (s.dropPkt p.id).failReq o r 0x0B 5 r.addr
      | _, none => (s.storeBytes t p.dst agentContext p.data).answer p 5 [])
  | _ => s.serveDone p o r ((s.touchTarget o (s.targetOf o r) r.n).plainPerform o r) 5

/-! ### Expert queues (R353, R354) -/

/-- A field of an expert queue descriptor: n bytes at byte k of it. -/
def State.xqField (s : State) (ck d k n : Nat) : Nat := natOfBytes (s.spRead ck (d + k) n)

/-- Write a 64-bit field of a descriptor. -/
def State.xqSet (s : State) (ck d k v : Nat) : State := s.spWrite ck (d + k) (bytesOfNat 8 v)

/-- QBASE, ROWB16, CAPB, CTR. -/
def State.xqBase (s : State) (ck d : Nat) : Nat := s.xqField ck d 0 4
/-- Row bytes. -/
def State.xqRow (s : State) (ck d : Nat) : Nat := s.xqField ck d 4 2 % 512 * 16
/-- Capacity in batches. -/
def State.xqCap (s : State) (ck d : Nat) : Nat := s.xqField ck d 6 2
/-- Offset of the queue counter. -/
def State.xqCtr (s : State) (ck d : Nat) : Nat := s.xqField ck d 8 4
/-- Whether the queue is closed. -/
def State.xqClosed (s : State) (ck d : Nat) : Bool := s.xqField ck d 12 4 % 2 == 1
/-- TAIL. -/
def State.xqTail (s : State) (ck d : Nat) : Nat := s.xqField ck d 16 8
/-- CNT. -/
def State.xqCnt (s : State) (ck d : Nat) : Nat := s.xqField ck d 24 8
/-- TAKE. -/
def State.xqTake (s : State) (ck d : Nat) : Nat := s.xqField ck d 32 8
/-- FREE. -/
def State.xqFree (s : State) (ck d : Nat) : Nat := s.xqField ck d 40 8

/-- Whether a push of a length is accepted (R354). -/
def State.xqAccepts (s : State) (ck d len : Nat) : Bool :=
  !s.xqClosed ck d && s.xqRow ck d != 0 && s.xqRow ck d == len &&
    decide (s.xqBase ck d + 128 * s.xqCap ck d * s.xqRow ck d ≤ (s.core ck).spBytes)

/-- Rows of a queue's slots from lo to lo + n - 1 that have landed. -/
def State.landedRows (s : State) (ck d lo n : Nat) : Nat :=
  (s.rows.filter (fun (r : HeldRow) => r.core == ck && r.desc == d && r.landed && decide (lo ≤ r.slot) && decide (r.slot < lo + n))).length

/-- Count landed batches in batch order; after a close, the last partial batch (R354). `fuel` bounds the batches. -/
def State.xqCount (fuel : Nat) (s : State) (ck d : Nat) : State :=
  match fuel with
  | 0 => s
  | n + 1 =>
    let j := s.xqCnt ck d
    let gone (s : State) (k : Nat) : State :=
      { s with rows := s.rows.filter (fun (r : HeldRow) => !(r.core == ck && r.desc == d && decide (128 * j ≤ r.slot) &&
          decide (r.slot < 128 * j + k))) }
    let part := s.xqTail ck d % 128
    if s.landedRows ck d (128 * j) 128 = 128 then
      State.xqCount n ((gone (s.xqSet ck d 24 (j + 1)) 128).ctrBump ck (s.xqCtr ck d) 128) ck d
    else if s.xqClosed ck d && part != 0 && j == s.xqTail ck d / 128 && s.landedRows ck d (128 * j) part == part then
      (gone s part).ctrBump ck (s.xqCtr ck d) part
    else s

/-- The batches of a queue that have landed are counted: as many as there are rows for. -/
def State.countBatches (s : State) (ck d : Nat) : State := State.xqCount (s.rows.length / 128 + 2) s ck d

/-- A push arrives (R354): it takes a slot and is held, or it is refused. -/
def State.pushArrives (s : State) (p : Packet) (o : Op) (r : Req) : State :=
  match s.target o.orig p.dst 64 with
  | .sp ck d =>
    let s := s.correctSp ck [(d, 64)]
    if let some a := s.spBad ck d 64 then (s.dropPkt p.id).pushFails o r 0x0F a
    else if s.xqAccepts ck d p.data.length then
      let slot := s.xqTail ck d
      let row : HeldRow := { id := p.id, core := ck, desc := d, slot := slot, data := p.data, opId := p.opId, uid := p.uid
                             goes := p.leaves, dst := p.dst, tag := p.tag, path := p.path, srcEp := p.srcEp }
      let s := (s.dropPkt p.id).xqSet ck d 16 ((slot + 1) % 2 ^ 64)
      { s with rows := s.rows ++ [row] }
    else s.answer p 6 []
  | _ => s.answer p 6 []

/-- Whether a held row may land (R354). -/
def State.rowFits (s : State) (r : HeldRow) : Bool :=
  !r.landed && decide (r.slot < 128 * (s.xqFree r.core r.desc + s.xqCap r.core r.desc))

/-- A row whose queue's descriptor is found in uncorrectable error as it lands: its push ends in the fault (R220, R232; log 68). -/
def State.rowFails (s : State) (r : HeldRow) (a : Nat) : State :=
  let s := { s with rows := s.rows.filter (fun x => x.id != r.id) }
  match s.op? r.opId with
  | none => s
  | some o => match o.req? r.uid with
    | none => s
    | some q => s.pushFails o q 0x0F a

/-- A held row lands, batch counting advances, and its push is acknowledged; its descriptor is read (R232). -/
def State.rowLands (s : State) (r : HeldRow) : State :=
  let s := s.correctSp r.core [(r.desc, 64)]
  if let some a := s.spBad r.core r.desc 64 then s.rowFails r a
  else
  let at_ := s.xqBase r.core r.desc + r.slot % (128 * s.xqCap r.core r.desc) * s.xqRow r.core r.desc
  let s := s.spWrite r.core at_ r.data
  let s := { s with rows := s.rows.map (fun (x : HeldRow) => if x.id = r.id then { x with landed := true } else x) }
  (s.countBatches r.core r.desc).launchPacket
    { id := 0, op := 5, opId := r.opId, uid := r.uid, leaves := pkgOfCtx (ctxOfCore r.core), goes := r.goes, len := 0
      dst := r.dst, tag := r.tag, path := r.path, srcEp := r.srcEp }

/-! ### The events -/

/-- Whether the home agent that a request packet reaches takes it now (R16, R302). -/
def State.homeAdmits (s : State) (p : Packet) (o : Op) : Bool :=
  match placeOf (localOfPa p.dst) with
  | .hbm _ => !p.asks || s.inOrder (homeEngine p.dst) o.bk
  | _ => true

/-- A request packet enters the home agent that it reaches. -/
def State.entersHome (s : State) (p : Packet) (o : Op) : State :=
  match placeOf (localOfPa p.dst) with
  | .hbm _ => if p.asks then s.enters (homeEngine p.dst) o.bk else s
  | _ => s

/-- Act on a packet of an OP with the request it belongs to; a packet whose operation is gone leaves the fabric. -/
def State.onPacket (s : State) (id : Nat) (ops : List Nat) (f : State → Packet → Op → Req → State) : State :=
  match s.pkt? id with
  | none => s
  | some p =>
    if ops.contains p.op && s.onLink p && !s.pathBehind p then
      match s.ownerOf p with
      | none => s.dropPkt id
      | some (o, r) => if s.homeAdmits p o then f (s.entersHome p o) p o r else s
    else s

/-- READ_REQUEST (R321). -/
def execReadRequest (pkt : Nat) (s : State) : Host.Outcome State Fault Refusal :=
  .next (s.onPacket pkt [1] State.readAtHome)

/-- READ_REPLY (R321, R323). -/
def execReadReply (pkt : Nat) (s : State) : Host.Outcome State Fault Refusal :=
  .next (s.onPacket pkt [2] State.readReturns)

/-- WRITE_PACKET (R332). -/
def execWritePacket (pkt : Nat) (s : State) : Host.Outcome State Fault Refusal :=
  .next (s.onPacket pkt [0] (fun s p o r => if r.isPush then s else s.writeLands p o r))

/-- XQ_PUSH_ARRIVAL (R354). -/
def execXqPushArrival (pkt : Nat) (s : State) : Host.Outcome State Fault Refusal :=
  .next (s.onPacket pkt [0] (fun s p o r => if r.isPush then s.pushArrives p o r else s))

/-- XQ_ROW_LANDING (R354). -/
def execXqRowLanding (row : Nat) (s : State) : Host.Outcome State Fault Refusal :=
  .next (match s.rows.find? (fun r => r.id == row) with
    | none => s
    | some r => if s.rowFits r then s.rowLands r else s)

/-- A proposal of an outside master to the owner cell (R442; log 24): endpoint, package and value are packed in a
number from 2^40 on. -/
def State.masterProposal (s : State) (n : Nat) : State :=
  (s.ownerProp (n / 2 ^ 10 % 64) (n % 2 ^ 10) (BitVec.ofNat 64 (n / 2 ^ 16))).1

/-- ATOMIC_REQUEST (R302, R326, R442). -/
def execAtomicRequest (pkt : Nat) (s : State) : Host.Outcome State Fault Refusal :=
  .next (if 2 ^ 40 ≤ pkt then s.masterProposal (pkt - 2 ^ 40)
    else s.onPacket pkt [3] (fun s p o r => s.serveDone p o r (s.performReq o r) 4))

/-- ATOMIC_REPLY (R303, R318). -/
def execAtomicReply (pkt : Nat) (s : State) : Host.Outcome State Fault Refusal :=
  .next (s.onPacket pkt [4] (fun s p o r =>
    ((s.dropPkt p.id).landNow o r.t (replyRegs r.act p.data)).endReq o.id r.uid []))

/-- ACKNOWLEDGEMENT (R332). -/
def execAcknowledgement (pkt : Nat) (s : State) : Host.Outcome State Fault Refusal :=
  .next (s.onPacket pkt [5] (fun s p o r => (s.dropPkt p.id).endReq o.id r.uid []))

/-- DROP_NOTICE (R323, R329, R334): the request ends with a transfer error. -/
def execDropNotice (pkt : Nat) (s : State) : Host.Outcome State Fault Refusal :=
  .next (s.onPacket pkt [6] (fun s p o r => (s.dropPkt p.id).failReq o r 0x0E 5 r.pa))

/-- 64 microseconds in cycles of sr.cycle (R329). -/
def escapeWait : Nat := 115200

/-- Whether a packet waits on an ordinary channel; notices and acknowledgements never do (R329). -/
def Packet.waits (p : Packet) (now : Nat) (escape : Bool) : Bool :=
  p.op != 5 && p.op != 6 && p.escape == escape && decide (p.since + escapeWait ≤ now)

/-- Whether a message between slices waits on an ordinary channel: SHARD and SLICE are write packets (R370), and a SLICE that the
owner's slice holds has arrived (R376). -/
def Msg.waits (m : Msg) (now : Nat) (escape : Bool) : Bool :=
  m.isData && !m.held && m.escape == escape && decide (m.since + escapeWait ≤ now)

/-- ESCAPE_MOVE (R329). -/
def execEscapeMove (pkt : Nat) (s : State) : Host.Outcome State Fault Refusal :=
  .next { s with
    pkts := s.pkts.map (fun (p : Packet) =>
      if p.id == pkt && p.waits s.cycle false then { p with escape := true, since := s.cycle } else p)
    msgs := s.msgs.map (fun (m : Msg) =>
      if m.id == pkt && m.waits s.cycle false then { m with escape := true, since := s.cycle } else m) }

/-- ESCAPE_DROP (R329): the packet is dropped, and a notice goes to its source; of bytes between slices, nothing more comes
(log 86). -/
def execEscapeDrop (pkt : Nat) (s : State) : Host.Outcome State Fault Refusal :=
  .next (match s.pkt? pkt with
    | none =>
      let gone := s.msgs.filter (fun m => m.id == pkt && m.waits s.cycle true)
      gone.foldl (fun s m => s.setPkg (pkgOfCtx m.src) { s.pkg (pkgOfCtx m.src) with
        outbox := (s.pkg (pkgOfCtx m.src)).outbox.filter (fun f => f.pkt != m.id) })
        { s with msgs := s.msgs.filter (fun m => !(m.id == pkt && m.waits s.cycle true)) }
    | some p => if p.waits s.cycle true then (s.recall p).answer p 6 [] else s)

end Sys2Proof.Machine
end

