-- ==== Sys2Proof/Machine/Transfer.lean ====
section
/-! DEFINITION. Class 11 (R330 to R341, R355, R356): bulk copies, drains, arrival counters and expert queues at their
hand-off, and where counters and queue batches change. -/

namespace Sys2Proof.Machine

/-! ### Bulk copies (R330 to R333) -/

/-- The pieces of a copy: offset and size, cut where the destination crosses 4 KiB (R326). `fuel` bounds them. -/
def pieces (fuel dst off left : Nat) : List (Nat × Nat) :=
  match fuel with
  | 0 => []
  | k + 1 =>
    let n := min left (4096 - (dst + off) % 4096)
    if n = 0 then [] else (off, n) :: pieces k dst (off + n) (left - n)

/-- A piece in parts, cut where the source crosses a page of 8 KiB (R331), with its number: offset, size, number. -/
def sourceParts (src num : Nat) (p : Nat × Nat) : List (Nat × Nat × Nat) :=
  let room := 8192 - (src + p.1) % 8192
  if p.2 ≤ room then [(p.1, p.2, num)] else [(p.1, room, num), (p.1 + room, p.2 - room, num)]

/-- The parts of a copy's packets: those of a put are whole, since its pieces do not cross a page of their destination. -/
def copyParts (kind dst src len : Nat) : List (Nat × Nat × Nat) :=
  let ps := pieces (len / 4096 + 2) dst 0 len
  if kind = 0 then ps.mapIdx (fun i p => (p.1, p.2, i + 1))
  else (ps.mapIdx (fun i p => sourceParts src (i + 1) p)).flatten

/-- The length of a copy. -/
def Bundle.copyLength (b : Bundle) (x : Enc) : Nat :=
  if x.i then (imm24 x).toNat * 16 else (b.sreg x.b.toNat).toNat

/-- The counter operand of a copy: c = 0 and a register of all ones name none. -/
def Bundle.copyCounter (b : Bundle) (x : Enc) : Option Nat :=
  let v := b.sreg x.c.toNat
  if x.c = 0 ∨ v = 0xFFFFFFFFFFFFFFFF then none else some v.toNat

/-- The first failure of a copy's checks (R331): code and detail. `sp` is its scratchpad address, `spCtr` says that the
counter is a scratchpad offset. -/
def State.copyFault (s : State) (ck dst src len sp : Nat) (ctr : Option Nat) (spCtr : Bool) : Option (Nat × Nat) :=
  if dst % 16 ≠ 0 then some (0x03, dst)
  else if src % 16 ≠ 0 then some (0x03, src)
  else if len % 16 ≠ 0 then some (0x03, len)
  else if 2 ^ 28 < len then some (0x0E, dst)
  else if len ≠ 0 ∧ s.inSp ck sp len = false then some (0x05, sp)
  else match ctr with
    | none => none
    | some c =>
      if spCtr && !s.inSp ck c 8 then some (0x05, c)
      else if c % 8 ≠ 0 then some (0x03, c)
      else none

/-- A copy at hand-off: kind 0 `xf.put`, 1 `xf.get`, 2 `xf.cpy` (R330 to R332). -/
def State.copyOp (s : State) (i : Instr) (x : Enc) (kind : Nat) : Host.Outcome State Fault Refusal :=
  s.onMemory i x (fun bk b =>
    let ck := coreOfBundle bk
    let dst := (b.sreg x.d.toNat).toNat
    let src := (b.sreg x.a.toNat).toNat
    let len := b.copyLength x
    let ctr := b.copyCounter x
    match s.copyFault ck dst src len (if kind = 0 then src else dst) ctr (kind != 0) with
    | some f => s.trapSync bk f.1 f.2
    | none =>
      if len = 0 then s.handAccess bk b x 11 kind 0 0 [] []
      else
        let reqs : List Req := numbered ((copyParts kind dst src len).map (fun (p : Nat × Nat × Nat) =>
          { uid := 0, t := 64, stage := .walk, n := p.2.1, seq := p.2.2
            addr := (if kind = 0 then dst else src) + p.1
            act := .bulk kind ((if kind = 0 then src else dst) + p.1) ctr : Req }))
        let lo := dst / 256
        let hi := (dst + len - 1) / 256
        let s := if kind = 2 then s.setCore ck ((s.core ck).setTags lo hi true false false) else s
        s.handOff bk b x { id := 0, bk := bk, ser := 0, cls := 11, opn := kind, flag := none, upc := 0, ex := b.active
                           reqs := reqs, early := true, ord := 2, lvl := scopeOf x
                           fin := if kind = 2 then .setV ck lo hi else .none })

/-- `xf.put` (R330 to R335). -/
def execXfPut (x : Enc) (s : State) : Host.Outcome State Fault Refusal := s.copyOp (.xfPut x) x 0
/-- `xf.get` (R330 to R335). -/
def execXfGet (x : Enc) (s : State) : Host.Outcome State Fault Refusal := s.copyOp (.xfGet x) x 1
/-- `xf.cpy` (R330 to R335). -/
def execXfCpy (x : Enc) (s : State) : Host.Outcome State Fault Refusal := s.copyOp (.xfCpy x) x 2

/-- `xf.drain` (R336). -/
def execXfDrain (x : Enc) (s : State) : Host.Outcome State Fault Refusal :=
  s.onCharged (.xfDrain x) x (fun bk b =>
    s.handOff bk b x { id := 0, bk := bk, ser := 0, cls := 11, opn := 3, flag := none, upc := 0, ex := b.active
                       ord := 1, reqs := [{ uid := 0, t := 64, stage := .wait, act := .drain 1 }] })

/-- Whether bulk copies of a bundle handed off before an operation have not finished (R336). -/
def State.copiesBefore (s : State) (o : Op) : Bool :=
  s.ops.any (fun p => p.ser == o.ser && decide (p.id < o.id) && p.cls == 11 && decide (p.opn ≤ 2))

/-- `xf.drain` completes, an acquire, before which its threads' strong reads stand (R45): errors held are posted (R335, R336). -/
def State.drainCopies (s : State) (o : Op) (r : Req) : State :=
  if s.copiesBefore o || s.strongBefore o (o.affected r) then s else (s.endReq o.id r.uid []).postErrors o.bk o.ser (fun _ => true)

/-! ### Counters (R339 to R341) -/

/-- The fault of a counter offset at hand-off. -/
def State.counterFault (s : State) (ck a : Nat) : Option (Nat × Nat) :=
  if a % 8 ≠ 0 then some (0x03, a) else if s.inSp ck a 8 then none else some (0x05, a)

/-- A counter instruction that is handed off with one request. -/
def State.counterOp (s : State) (i : Instr) (x : Enc) (kind ord : Nat) : Host.Outcome State Fault Refusal :=
  s.onCharged i x (fun bk b =>
    let a := (b.sreg x.a.toNat).toNat
    match s.counterFault (coreOfBundle bk) a with
    | some f => s.trapSync bk f.1 f.2
    | none =>
      s.handOff bk b x { id := 0, bk := bk, ser := 0, cls := 11, opn := 4 + kind, flag := none, upc := 0
                         ex := b.active, ord := ord, lvl := scopeOf x
                         reqs := [{ uid := 0, t := 64, stage := .home, addr := a, n := 8
                                    act := .ctr kind (b.sreg x.d.toNat).toNat none (scopeOf x) }] })

/-- `ctr.set` (R339). -/
def execCtrSet (x : Enc) (s : State) : Host.Outcome State Fault Refusal := s.counterOp (.ctrSet x) x 0 2
/-- `ctr.add` (R339). -/
def execCtrAdd (x : Enc) (s : State) : Host.Outcome State Fault Refusal := s.counterOp (.ctrAdd x) x 1 2

/-- The chiplet whose table holds an arming. -/
def State.armChiplet (s : State) (key : Nat) : Nat := s.chipletOf (key / 2 ^ 22)

/-- Whether a chiplet's arming table is full: the armings of contexts that run, and those on their way; those of a context
that does not run are saved with it (R338, R342, R413). -/
def State.armsFull (s : State) (chip : Nat) : Bool :=
  decide (4096 ≤ (s.arms.filter (fun a => !a.reached && s.armChiplet a.key == chip &&
      (s.ctx (ctxOfCore (a.key / 2 ^ 22))).running)).length +
    (s.ops.filter (fun o => o.cls == 11 && o.opn == 6 && s.runs o.bk && s.chipOf o == chip)).length)

/-- The handle that `ctr.arm` carries (R339). -/
def armHandle (x : Enc) : Nat := if x.form == .extended then x.w2.toNat / 2 ^ 16 else 0

/-- `ctr.arm` (R339, R340). -/
def execCtrArm (x : Enc) (s : State) : Host.Outcome State Fault Refusal :=
  s.onCharged (.ctrArm x) x (fun bk b =>
    let ck := coreOfBundle bk
    let a := (b.sreg x.a.toNat).toNat
    let h := armHandle x
    let go (s : State) (bar : Option (Nat × Bool)) : State :=
      s.handOff bk b x { id := 0, bk := bk, ser := 0, cls := 11, opn := 6, flag := none, upc := 0
                         ex := b.active, lvl := scopeOf x
                         reqs := [{ uid := 0, t := 64, stage := .home, addr := a, n := 8
                                    act := .ctr 2 (b.sreg x.d.toNat).toNat bar (scopeOf x) }] }
    match s.counterFault ck a with
    | some f => s.trapSync bk f.1 f.2
    | none =>
      let full := s.armsFull (s.chipletOf ck)
      if h = 0 then (if full then s.stall else go s none)
      else match (if h / 2 ^ 14 = 1 then s.barKey ck h else none) with
        | none => s.trapSync bk 0x0A h
        | some key =>
          let y := s.bar key
          if full || y.eng y.p == 255 then s.stall else go (s.putBar key (y.enrol b.ser)) (some (key, y.p)))

/-- Whether an earlier counter instruction of the bundle on the same counter has not been performed. -/
def State.counterBehind (s : State) (o : Op) (r : Req) : Bool :=
  s.ops.any (fun p => p.ser == o.ser && decide (p.id < o.id) && p.cls == 11 && p.reqs.any (fun q =>
    q.addr == r.addr && (match q.act with
      | .ctr .. => true
      | _ => false)))

/-- A counter instruction is performed and evaluated (R338, R339). -/
def State.performCtr (s : State) (o : Op) (r : Req) : State :=
  let ck := coreOfBundle o.bk
  match r.act with
  | .ctr kind v bar lvl =>
    if s.blocked o r false || s.counterBehind o r || !s.inOrder (s.transferEngine o) o.bk then s
    else
      let s := s.enters (s.transferEngine o) o.bk
      match kind with
      | 0 => (s.ctrPut ck r.addr (BitVec.ofNat 64 v)).endReq o.id r.uid []
      | 1 => (match s.spBad ck r.addr 8 with
        | some a => s.failReq o r 0x0F 5 a
        | none => (s.ctrBump ck r.addr v).endReq o.id r.uid [])
      | _ =>
        let key := ctrKey ck r.addr
        let s := s.correctSp ck [(r.addr, 8)]
        if let some a := s.spBad ck r.addr 8 then s.failReq o r 0x0F 5 a
        else if 16 ≤ (s.arms.filter (fun a => a.key == key && !a.reached)).length then s.failReq o r 0x0B 5 r.addr
        else
          let arm : Arming := { key := key, bk := o.bk, ser := o.ser, target := BitVec.ofNat 64 v, bar := bar
                                lvl := lvl, opId := o.id }
          (({ s with arms := s.arms ++ [arm] }).evalArms ck r.addr).endReq o.id r.uid []
  | _ => s

/-- `ctr.wait` (R341): a fence or `acq.remote` holds it (R214, R218); it waits for its bundle's armings on the counter to be installed, then for them to be reached;
errors held are posted as it issues (R335). -/
def execCtrWait (x : Enc) (s : State) : Host.Outcome State Fault Refusal :=
  s.onUnit (.ctrWait x) x (fun bk b =>
    let ck := coreOfBundle bk
    let a := (b.sreg x.a.toNat).toNat
    let key := ctrKey ck a
    match s.counterFault ck a with
    | some f => s.trapSync bk f.1 f.2
    | none =>
      if s.fenced b 11 7 ||
          s.ops.any (fun p => p.ser == b.ser && p.opn == 6 && p.cls == 11 && p.reqs.any (fun q => q.addr == a)) then s.stall
      else
        let t := s.postErrors bk b.ser (fun _ => true)
        let b := t.bundle bk
        if t.xerrs.length < s.xerrs.length ∧ b.hidden.isNone = true ∧ b.pend ≠ [] then t.stall
        else if (t.armsOf b.ser key).all (fun y => y.reached) then
          ({ t.watchAcquire bk b.active with
             arms := t.arms.filter (fun y => !(y.ser == b.ser && y.key == key && y.bar.isNone)) }).retire bk b x
        else
          { (t.watchAcquire bk b.active).setBundle bk (b.mapThreads b.active (fun th => { th with cond := .counter key (unitLen x) })).rechoose
            with issuing := none })

/-! ### Expert queues (R355, R356) -/

/-- The pushes of `xq.push`: thread, queue address, source offset. -/
def Bundle.pushes (b : Bundle) (x : Enc) : List (Nat × Nat × Nat) :=
  (bitsOf (b.executing x)).map (fun t =>
    (t, (b.vpair t x.d.toNat).toNat, (b.sreg x.a.toNat + (b.vreg t x.b.toNat).zeroExtend 64).toNat))

/-- `xq.push` (R355). -/
def execXqPush (x : Enc) (s : State) : Host.Outcome State Fault Refusal :=
  s.onMemory (.xqPush x) x (fun bk b =>
    let ck := coreOfBundle bk
    let len := (imm24 x).toNat * 16
    let ps := b.pushes x
    let fault (p : Nat × Nat × Nat) : Option (Nat × Nat) :=
      if p.2.1 % 64 ≠ 0 then some (0x03, p.2.1) else if p.2.2 % 16 ≠ 0 then some (0x03, p.2.2) else none
    let beyond (p : Nat × Nat × Nat) : Option (Nat × Nat) :=
      if s.inSp ck p.2.2 len then none else some (0x05, p.2.2)
    if len = 0 ∨ 4096 < len then s.trapSync bk 0x0E ((ps.map (fun p => p.2.1)).headD 0)
    else match (ps.findSome? fault), (ps.findSome? beyond) with
      | some f, _ => s.trapSync bk f.1 f.2
      | none, some f => s.trapSync bk f.1 f.2
      | none, none =>
        let id := s.nextId
        (s.handOff bk b x { id := 0, bk := bk, ser := 0, cls := 11, opn := 0x0A, flag := none, upc := 0
                            ex := b.active, ord := 2, lvl := scopeOf x, early := true
                            reqs := numbered (ps.map (fun p =>
                              { uid := 0, t := p.1, stage := .walk, addr := p.2.1, n := len, act := .push p.2.2 : Req })) }).completeOp
          id)

/-- `xq.take` (R356): performed in one bank step. -/
def execXqTake (x : Enc) (s : State) : Host.Outcome State Fault Refusal :=
  s.onCharged (.xqTake x) x (fun bk b =>
    let a := (b.sreg x.a.toNat).toNat
    if a % 64 ≠ 0 then s.trapSync bk 0x03 a
    else if !s.inSp (coreOfBundle bk) a 64 then s.trapSync bk 0x05 a
    else s.handOff bk b x { id := 0, bk := bk, ser := 0, cls := 11, opn := 0x0B, flag := none, upc := 0, ex := b.active
                            reqs := [{ uid := 0, t := 64, stage := .home, addr := a, n := 64
                                       act := .sys 3 x.b.toNat (b.sreg x.d.toNat).toNat x.d.toNat }] })

/-- FREE advances over contiguous freed batches. `fuel` bounds them. -/
def State.advanceFree (fuel : Nat) (s : State) (ck d : Nat) : State :=
  match fuel with
  | 0 => s
  | n + 1 =>
    let j := s.xqFree ck d
    if s.freed.contains (ctrKey ck d, j) then
      State.advanceFree n ({ s with freed := s.freed.filter (fun e => e != (ctrKey ck d, j)) }.xqSet ck d 40 (j + 1)) ck d
    else s

/-- A mode of `xq.take` on a descriptor: the state and the value for the register, or trap 0x0B. -/
def State.takeBatch (s : State) (ck d m v : Nat) : Option (State × Nat) :=
  let key := ctrKey ck d
  if m = 0 then
    let j := s.xqTake ck d
    some (s.xqSet ck d 32 ((j + 1) % 2 ^ 64), j)
  else if m = 1 then
    if s.xqTake ck d ≤ v ∨ v < s.xqFree ck d ∨ s.freed.contains (key, v) = true then none
    else
      let s := State.advanceFree (s.freed.length + 2) { s with freed := s.freed ++ [(key, v)] } ck d
      some (s, s.xqFree ck d)
  else
    let w := s.xqField ck d 12 4
    let s := s.spWrite ck (d + 12) (bytesOfNat 4 (w / 2 * 2 + 1))
    some (s.countBatches ck d, s.xqTail ck d)

/-- `xq.take` is performed. -/
def State.performTake (s : State) (o : Op) (r : Req) : State :=
  match r.act with
  | .sys 3 m v d =>
    let s := s.correctSp (coreOfBundle o.bk) [(r.addr, 64)]
    if let some a := s.spBad (coreOfBundle o.bk) r.addr 64 then s.failReq o r 0x0F 5 a
    else match s.takeBatch (coreOfBundle o.bk) r.addr m v with
    | none => s.failReq o r 0x0B 5 r.addr
    | some (s, j) => s.endReq o.id r.uid [{ t := 64, ws := [.s d (BitVec.ofNat 64 j)] }]
  | _ => s

end Sys2Proof.Machine
end

