-- ==== Sys2Proof/Machine/Collective.lean ====
section
/-! DEFINITION. Collectives bound to launches (R343 to R352): the binding, posts, what a member receives, and
`coll.post`. -/

namespace Sys2Proof.Machine

/-! ### The binding (R343) -/

/-- Word k of the collective binding of a launch. -/
def Launch.col (x : Launch) (k : Nat) : Nat := (FMap.look x.lr 0 (8 + k)).toNat
/-- OP. -/
def Launch.collOp (x : Launch) : Nat := x.col 0 / 2 ^ 60
/-- ELEM. -/
def Launch.collElem (x : Launch) : Nat := x.col 0 / 2 ^ 57 % 8
/-- RTID. -/
def Launch.collRtid (x : Launch) : Nat := x.col 0 / 2 ^ 48 % 256
/-- GROUP. -/
def Launch.collGroup (x : Launch) : Nat := x.col 0 / 2 ^ 42 % 64
/-- Blocks per chunk. -/
def Launch.collBlocks (x : Launch) : Nat := 2 ^ (x.col 0 / 2 ^ 36 % 64)
/-- L. -/
def Launch.collL (x : Launch) : Int := toSigned 16 (x.col 0 / 2 ^ 20 % 2 ^ 16)
/-- CB: bytes of a chunk's source. -/
def Launch.collBytes (x : Launch) : Nat := (x.col 0 % 2 ^ 20 + 1) * 256
/-- SRC. -/
def Launch.collSrc (x : Launch) : Nat := x.col 1
/-- DST. -/
def Launch.collDst (x : Launch) : Nat := x.col 2
/-- JD. -/
def Launch.collJd (x : Launch) : Nat := x.col 3 / 2 ^ 14 % 4
/-- SD. -/
def Launch.collSd (x : Launch) : Nat := x.col 3 / 2 ^ 12 % 4
/-- The key of JCORE. -/
def Launch.collCore (x : Launch) : Nat := x.ctx * 1024 + x.col 3 % 2 ^ 10

/-- The blocks of a grid (R394). -/
def Launch.blocks (x : Launch) : Nat :=
  let w := (FMap.look x.lr 0 2).toNat
  w % 2 ^ 32 * (w / 2 ^ 32 % 2 ^ 16) * (w / 2 ^ 48)

/-- C: the chunks of a launch (R345). -/
def Launch.chunks (x : Launch) : Nat := (x.blocks + x.collBlocks - 1) / x.collBlocks

/-- The size of a contribution (R343). -/
def elemSize (elem : Nat) : Nat := if elem = 1 then 2 else if elem = 3 then 8 else if elem = 4 then 16 else 4

/-- The identifier of the results (R343): an entry that the kernel header declares (log 25). -/
def Launch.resultTid (x : Launch) : Tid :=
  tidOf (match x.tids.find? (fun e => e.1 == x.collRtid) with
    | none => 0
    | some e => e.2)

/-- What members' launches must share (R351). -/
def Launch.sameBinding (x y : Launch) : Bool :=
  x.collOp == y.collOp && x.collElem == y.collElem && x.collL == y.collL && x.collBytes == y.collBytes &&
    x.chunks == y.chunks

/-! ### Members (R344, R351) -/

/-- The members of a launch's group, by rank. -/
def State.collMembers (s : State) (x : Launch) : List Nat :=
  (List.range ((s.ctx x.ctx).groupN x.collGroup)).map (fun r => memberCtx ((s.ctx x.ctx).member x.collGroup r))

/-- The launch of a member that belongs to the collective of a launch. -/
def State.partner (s : State) (x : Launch) (m : Nat) : Option (Nat × Launch) :=
  s.launches.find? (fun e => e.2.ctx == m && e.2.collOp != 0 && e.2.status != 2 && e.2.collGroup == x.collGroup &&
    e.2.collSeq == x.collSeq)

/-- The launches of a collective by rank, when every member has placed one. -/
def State.partners (s : State) (x : Launch) : Option (List (Nat × Launch)) := (s.collMembers x).mapM (s.partner x)

/-- Whether a collective ends in an error (R351): bindings differ, or a member is down. -/
def State.collBroken (s : State) (x : Launch) : Bool :=
  (s.collMembers x).any (fun m => match s.partner x m with
    | none => false
    | some e => !x.sameBinding e.2) ||
  ((s.ctx x.ctx).ranks x.collGroup).any ((s.ctx x.ctx).down x.collGroup)

/-! ### Bytes of members -/

/-- The transfer engine reaches an address of a context. -/
def State.collReach (s : State) (c va : Nat) (u : Use) (n : Nat) : Reach :=
  match s.findLeaf c (shawmChiplet c) 0 va with
  | none => .fault
  | some (l, s) =>
    match s.judge c false u va n l with
    | .go pa => .ok pa s
    | .trap _ => .fault
    | .bad _ => .fault
    | .wait => .held s
    | .touch => .held (s.firstTouch c (leafGroup l.word) (pageOf va))

/-- Where pieces of a range stand: offset, size, and the physical address unless it faults; or the state in which the
range waits for a shard page. -/
def State.collPlaces (s : State) (c va : Nat) (u : Use) (l : List (Nat × Nat)) :
    Except State (State × List (Nat × Nat × Option Nat)) :=
  match l with
  | [] => .ok (s, [])
  | (o, n) :: r =>
    match s.collReach c (va + o) u n with
    | .held s => .error s
    | .fault => (s.collPlaces c va u r).map (fun q => (q.1, (o, n, none) :: q.2))
    | .ok pa s => (s.collPlaces c va u r).map (fun q => (q.1, (o, n, some pa) :: q.2))

/-- What answers the transfer engine at an address for a collective: register blocks serve it nothing (R70, R451). -/
def State.collTarget (s : State) (c pa n : Nat) : Target :=
  match s.target (some c) pa n with
  | .reg _ => .drop
  | t => t

/-- The bytes of one piece; what cannot be read is free (log 25). -/
def State.collPiece (s : State) (c o n : Nat) (pa : Option Nat) : List Byte :=
  match pa with
  | none => s.freeBytes o n
  | some pa => match s.fetchBytes (s.collTarget c pa n) pa n with
    | .ok l => if l.length = n then l else s.freeBytes o n
    | .error _ => s.freeBytes o n

/-- Read a range of a context's memory for the transfer engine, which corrects soft errors (R221). -/
def State.collRead (s : State) (c va n : Nat) : Except State (State × List Byte) :=
  (s.collPlaces c va .src (pieces (n / 4096 + 2) va 0 n)).map (fun q =>
    (q.2.foldl (fun s (p : Nat × Nat × Option Nat) => match p.2.2 with
      | none => s
      | some pa => s.correctAt (s.collTarget c pa p.2.1) pa p.2.1) q.1,
      q.2.flatMap (fun (p : Nat × Nat × Option Nat) => q.1.collPiece c p.1 p.2.1 p.2.2)))

/-- Whether a launch's collective is in progress at some member. -/
def State.collGoes (s : State) (y : Launch) : Bool :=
  !y.complete || (s.collMembers y).any (fun m => match s.partner y m with
    | none => true
    | some e => !e.2.complete)

/-- Where the sources of the collectives in progress stand, as physical ranges (R347), of members that are complete already
among them. -/
def State.collSources (s : State) : List (Nat × Nat) :=
  (s.launches.filter (fun e => e.2.collOp != 0 && e.2.collOp != 5 && e.2.status != 2 && s.collGoes e.2)).flatMap (fun e =>
    let y := e.2
    let n := y.chunks * y.collBytes
    (pieces (n / 4096 + 2) y.collSrc 0 n).filterMap (fun p => match s.collReach y.ctx (y.collSrc + p.1) .src p.2 with
      | .ok pa _ => some (pa, p.2)
      | _ => none))

/-- Result bytes that overlap a source are unspecified (R347). -/
def State.blurOverlap (s : State) (sources : List (Nat × Nat)) (pa : Nat) (l : List Byte) : List Byte :=
  if sources.any (fun r => decide (r.1 < pa + l.length) && decide (pa < r.1 + r.2)) then
    l.zipIdx.map (fun (b : Byte × Nat) =>
      if sources.any (fun r => decide (r.1 ≤ pa + b.2) && decide (pa + b.2 < r.1 + r.2)) then s.freeByteAt (0x80000000 + b.2)
      else b.1)
  else l

/-- Write a range of a context's memory for the transfer engine; what cannot be written is not (log 25). -/
def State.collWrite (s : State) (c va : Nat) (l : List Byte) : Except State State :=
  let sources := s.collSources
  (s.collPlaces c va .dst (pieces (l.length / 4096 + 2) va 0 l.length)).map (fun q =>
    q.2.foldl (fun s (p : Nat × Nat × Option Nat) => match p.2.2 with
      | none => s
      | some pa => s.storeBytes (s.collTarget c pa p.2.1) pa agentContext
          (s.blurOverlap sources pa ((l.drop p.1).take p.2.1))) q.1)

/-! ### Posts (R345, R350) -/

/-- The images of a descriptor's tiles in level order (R277). -/
def State.segment (s : State) (ck : Nat) (d : SigDesc) : List Byte := d.tileList.flatMap (s.tileImage ck)

/-- An ordered join has posted: what engine instructions in progress share with its tiles ends unspecified (R350). -/
def State.joinStarts (s : State) (lid : Nat) : State :=
  let x := s.launch lid
  let t : Touch := { writes := (x.joinTilesOn (s.core x.collCore) x.collCore).map Area.whole }
  let c := s.core x.collCore
  let written := c.mxOpen.any (fun e => !(t.meets e.touch).isEmpty) || c.sq.any (fun g => !(t.meets g.touch).isEmpty)
  let s := s.meetEngines x.collCore t
  if written then s.setLaunch lid { s.launch lid with joinRaced := true } else s

/-- A chunk is posted: its source is read. -/
def State.postChunk (s : State) (lid k : Nat) : Except State State :=
  let x := s.launch lid
  let put (s : State) (data : List Byte) (l0 : Bool) : State :=
    { s.setLaunch lid { s.launch lid with posted := k :: (s.launch lid).posted } with
      posts := s.posts ++ [{ lid := lid, chunk := k, data := data, l0 := l0 }] }
  if x.collOp = 5 then
    let d := (s.core x.collCore).sd x.collJd
    .ok ((put s (s.segment x.collCore d) d.l0).joinStarts lid)
  else (s.collRead x.ctx (x.collSrc + k * x.collBytes) x.collBytes).map (fun q => put q.1 q.2 false)

/-- Either outcome of a step that may have to wait. -/
def settled (e : Except State State) : State :=
  match e with
  | .ok s => s
  | .error s => s

/-- The blocks of a chunk. -/
def Launch.chunkBlocks (x : Launch) (k : Nat) : List Nat :=
  (List.range' (k * x.collBlocks) x.collBlocks).filter (fun b => decide (b < x.blocks))

/-- Whether every block of a chunk has ended. -/
def Launch.chunkOver (x : Launch) (k : Nat) : Bool :=
  (x.chunkBlocks k).all (fun b => FMap.look x.ended false b)

/-- Whether writes of bundles of a launch that have ended are not performed yet (R345). -/
def State.lateWrites (s : State) (lid : Nat) : Bool :=
  s.ops.any (fun o => o.launch == lid && !isFw o.bk && (s.bundleOfSer o.ser).isNone && o.isData && o.reqs.any Req.writes)

/-- COLL_CHUNK_POST (R345): a chunk whose blocks have all ended is posted, when its context runs. -/
def execCollChunkPost (lid chunk : Nat) (s : State) : Host.Outcome State Fault Refusal :=
  .next (
    let x := s.launch lid
    if x.collOp = 0 || x.killed || x.complete || decide (x.chunks ≤ chunk) || x.posted.contains chunk ||
        !x.chunkOver chunk || !(s.ctx x.ctx).running || s.lateWrites lid then s
    else settled (s.postChunk lid chunk))

/-- `coll.post` (R352). -/
def execCollPost (x : Enc) (s : State) : Host.Outcome State Fault Refusal :=
  s.onMemory (.collPost x) x (fun bk b =>
    let l := s.launch b.launch
    let k := (b.sreg x.a.toNat).toNat
    if l.collOp = 0 ∨ l.chunks ≤ k then s.trapSync bk 0x0E (natOfBytes (s.freeBytes 0 8))
    else s.handOff bk b x { id := 0, bk := bk, ser := 0, cls := 11, opn := 8, flag := none, upc := 0, ex := b.active
                            ord := 2, lvl := scopeOf x
                            reqs := [{ uid := 0, t := 64, stage := .home, act := .sys 4 k 0 x.d.toNat }] })

/-- `coll.post` is performed: a release of what stands before it, then the post. -/
def State.performPost (s : State) (o : Op) (r : Req) (k d : Nat) : State :=
  let done (s : State) (v : DWord) : State := s.endReq o.id r.uid [{ t := 64, ws := [.s d v] }]
  if s.unperformed o.ser o.id (widthMask 64) then s
  else if (s.launch o.launch).posted.contains k then done s 1
  else match s.postChunk o.launch k with
    | .ok s => done s 0
    | .error s => s

/-! ### Sums (R348) -/

/-- One element of a chunk added into a slot; the flag says that an x96 contribution stands at another L. -/
def contribute (elem : Nat) (acc : Slot × Bool) (bytes : List Byte) : Slot × Bool :=
  if elem = 4 then
    let x := slotOf bytes
    let y := acc.1.addInt x.n
    ({ y with ovf := y.ovf || x.ovf, inx := y.inx || x.inx, nan := y.nan || x.nan }, acc.2 || x.l != acc.1.l)
  else (acc.1.add (x96Contribution elem (natOfBytes bytes)), acc.2)

/-- The code of a result element from the members' bytes: after an overflow either extreme that some order gives, and
where a slot stands at another L any code (log 25). -/
def State.sumCode (s : State) (x : Launch) (e : Nat) (l : List (List Byte)) : Nat :=
  let f := x.resultTid.f
  let add (l : List (List Byte)) : Slot × Bool := l.foldl (contribute x.collElem) ({ l := x.collL }, false)
  let r := if (s.freeByteAt (2 * e)).getLsbD 0 then add l else add l.reverse
  let mode := if f.rnd = 0 then 1 + (s.freeByteAt 0xFFFFFFFF).toNat % 6 else f.rnd
  if r.2 then natOfBytes (s.freeBytes (8 * e) 4) % 2 ^ f.codeBits
  else (f.write mode (if r.1.nan then .nan else r.1.value) 1).1

/-- Codes packed into their containers from a bit on, with the number of bits. -/
def packRow (k : Nat) (codes : List Nat) : Nat :=
  match codes with
  | [] => 0
  | c :: r => c + 2 ^ k * packRow k r

/-- The bytes that elements lo to hi - 1 of a row occupy: where they begin, and the bytes, other bits of the first
and the last taken from `old`. -/
def rowBytesOf (k lo hi : Nat) (codes : List Nat) (old : List Byte) : List Byte :=
  let first := lo * k / 8
  let n := (hi * k + 7) / 8 - first
  let skip := lo * k - 8 * first
  let bits := (hi - lo) * k
  let o := natOfBytes old
  bytesOfNat n (o % 2 ^ skip + packRow k codes * 2 ^ skip + o / 2 ^ (skip + bits) * 2 ^ (skip + bits))

/-! ### Combining (R346, R350) -/

/-- The post of a launch's chunk. -/
def State.post? (s : State) (lid k : Nat) : Option Post := s.posts.find? (fun p => p.lid == lid && p.chunk == k)

/-- The bytes of a source that a post carries: each as it was, or as it is now (R347). -/
def State.mixBytes (s : State) (old now : List Byte) : List Byte :=
  (List.zipWith (fun (a : Byte) (p : Byte × Nat) => if (s.freeByteAt p.2).getLsbD 0 then p.1 else a) old now.zipIdx)

/-- Decide which bytes of a member's chunk travel. -/
def State.fixPost (s : State) (lid k : Nat) : Except State State :=
  let x := s.launch lid
  match s.post? lid k with
  | none => .ok s
  | some p =>
    if p.fixed || x.collOp == 5 then .ok s
    else (s.collRead x.ctx (x.collSrc + k * x.collBytes) x.collBytes).map (fun q =>
      { q.1 with posts := q.1.posts.map (fun (y : Post) =>
          if y.lid == lid && y.chunk == k then { y with data := q.1.mixBytes p.data q.2, fixed := true } else y) })

/-- Where a result piece goes and its bytes. -/
abbrev Piece := Nat × List Byte

/-- The results of a chunk at member r (R346), for OP 1 to 4. -/
def State.collPieces (s : State) (x : Launch) (k r : Nat) (data : List (List Byte)) (old : List Byte) : List Piece :=
  let n := data.length
  let cb := x.collBytes
  let size := elemSize x.collElem
  let row (lo hi : Nat) : List Piece :=
    let w := x.resultTid.f.container
    let rowSize := (cb / size * w + 31) / 32 * 4
    let codes := (List.range' lo (hi - lo)).map (fun e => s.sumCode x e (data.map (fun d => (d.drop (e * size)).take size)))
    [(x.collDst + k * rowSize + lo * w / 8, rowBytesOf w lo hi codes old)]
  match x.collOp with
  | 1 => row 0 (cb / size)
  | 2 => row (r * (cb / size) / n) ((r + 1) * (cb / size) / n)
  | 3 => data.zipIdx.map (fun (p : List Byte × Nat) => (x.collDst + (k * n + p.2) * cb, p.1))
  | _ => data.zipIdx.map (fun (p : List Byte × Nat) =>
      (x.collDst + k * cb + p.2 * (cb / n), (p.1.drop (r * (cb / n))).take (cb / n)))

/-- The elements of a row that member r of n receives (R346). -/
def Launch.partElems (x : Launch) (r n : Nat) : Nat × Nat :=
  let e := x.collBytes / elemSize x.collElem
  if x.collOp = 1 then (0, e) else (r * e / n, (r + 1) * e / n)

/-- Where the part of a row that a member receives begins, and its bytes: what stands there now. -/
def Launch.rowPart (x : Launch) (k r n : Nat) : Nat × Nat :=
  let w := x.resultTid.f.container
  let e := x.collBytes / elemSize x.collElem
  let (lo, hi) := x.partElems r n
  (x.collDst + k * ((e * w + 31) / 32 * 4) + lo * w / 8, (hi * w + 7) / 8 - lo * w / 8)

/-- Write pieces one after another. -/
def State.writePieces (s : State) (c : Nat) (l : List Piece) : Except State State :=
  match l with
  | [] => .ok s
  | p :: r => match s.collWrite c p.1 p.2 with
    | .error s => .error s
    | .ok s => s.writePieces c r

/-- A chunk has landed at a member; its source goes when it has landed at every member. -/
def State.chunkLanded (s : State) (lid k : Nat) (all : List Nat) : State :=
  let s := s.setLaunch lid { s.launch lid with landed := k :: (s.launch lid).landed }
  if all.all (fun l => (s.launch l).landed.contains k) then
    { s with posts := s.posts.filter (fun p => !(all.contains p.lid && p.chunk == k)) }
  else s

/-- A segment's images are written into a descriptor's tiles. -/
def State.loadSegment (s : State) (ck : Nat) (d : SigDesc) (data : List Byte) : State :=
  d.tileList.zipIdx.foldl (fun s (p : Nat × Nat) => s.loadImage ck p.1 ((data.drop (49168 * p.2)).take 49168)) s

/-- The rounds in which rank r of n members receives a segment (R289, R350): those of the tree, and the ring applies the same
pairings. -/
def receives (r n : Nat) : List Nat := (List.range 7).filter (fun j => r % 2 ^ (j + 1) == 0 && decide (r + 2 ^ j < n))

/-- The segment that a member sends: what it posted, or what its pairings have made of it. -/
def State.sentSegment (s : State) (lid : Nat) (y : Launch) : List Byte × Bool :=
  let f := (s.core y.collCore).sd y.collJd
  match (if y.joins = 0 then s.post? lid 0 else none) with
  | some p => (p.data, p.l0)
  | none => (s.segment y.collCore f, f.l0)

/-- One pairing of the ordered join (R350): the receiver's scratch descriptor takes the segment and its L0, and the transfer
engine enters `sig.join` into JCORE's signature queue, once that has room. Descriptors that do not fit together leave JD's
tiles unspecified (log 25). -/
def State.joinStep (s : State) (lid : Nat) (x : Launch) (seg : List Byte × Bool) : State :=
  let ck := x.collCore
  let d := (s.core ck).sd x.collJd
  let e := (s.core ck).sd x.collSd
  if 8 ≤ (s.core ck).sq.length then s
  else
    let s := (s.loadSegment ck e seg.1).setL0 ck x.collSd seg.2
    if d.dim = e.dim ∧ d.n = e.n ∧ d.dim ≠ 0 then
      let g : SigEntry := { sigEntry 3 d with
        opId := s.nextId, bk := ck * 512, k := x.collJd, y := x.collSd, dy := e, launch := lid, coll := some lid }
      { (s.enqueueSig ck g).setLaunch lid { x with joining := true } with nextId := s.nextId + 1 }
    else (s.blurTiles ck d.tileList).setLaunch lid { x with joins := x.joins + 1 }

/-- ALG of the selection table's entry for a chunk (R349). -/
def State.collAlg (s : State) (x : Launch) (n : Nat) : Nat :=
  let log (v : Nat) : Nat := if v ≤ 1 then 0 else Nat.log2 (v - 1) + 1
  let size := if x.collBytes ≤ 1024 then 0 else min 15 (log x.collBytes - 10)
  let g := log n
  let reset : Nat := if size ≤ 3 then (if g ≤ 3 then 0xC4 else 0x44) else if size ≤ 9 then 0x84 else 0x08
  (FMap.look (s.part (partOfCtx x.ctx)).sel (BitVec.ofNat 8 reset) (7 * size + g)).toNat / 64

/-- Rank 0's result is what every other member loads. The scratch tiles end unspecified under the ring (log 25). -/
def State.joinLands (s : State) (lid : Nat) (x : Launch) (l : List (Nat × Launch)) : State :=
  let d := (s.core x.collCore).sd x.collJd
  let data := s.segment x.collCore d
  let s := { s with posts := s.posts.map (fun (p : Post) =>
    if p.lid == lid && p.chunk == 0 then { p with data := data, l0 := d.l0 } else p) }
  if s.collAlg x l.length = 0 ∧ 1 < l.length then
    l.foldl (fun s e => s.blurTiles e.2.collCore ((s.core e.2.collCore).sd e.2.collSd).tileList) s
  else s

/-- A result that another access has met meanwhile is unspecified (R350). -/
def State.joinBlurs (s : State) (x : Launch) : State :=
  if x.joinRaced then s.blurTiles x.collCore ((s.core x.collCore).sd x.collJd).tileList else s

/-- A member's next part in the ordered join (R350): its pairings one after another, each when the partner's own are done; then
rank 0 has the result, and the others load it. -/
def State.joinOn (s : State) (lid : Nat) (l : List (Nat × Launch)) : State :=
  let x := s.launch lid
  let ids := l.map (fun e => e.1)
  let r := (ids.findIdx? (fun i => i == lid)).getD 0
  if x.joining then s
  else match (receives r l.length)[x.joins]?, l.head? with
    | some j, _ =>
      (match l[r + 2 ^ j]? with
        | none => s
        | some y => if y.2.joining || decide (y.2.joins < (receives (r + 2 ^ j) l.length).length) then s
          else s.joinStep lid x (s.sentSegment y.1 y.2))
    | none, none => s
    | none, some z =>
      if r = 0 then ((s.joinBlurs x).joinLands lid x l).chunkLanded lid 0 ids
      else if !z.2.landed.contains 0 then s
      else
        let seg := s.sentSegment z.1 { z.2 with joins := 0 }
        (((s.loadSegment x.collCore ((s.core x.collCore).sd x.collJd) seg.1).setL0 x.collCore x.collJd seg.2).joinBlurs x).chunkLanded
          lid 0 ids

/-- What a member's part of a chunk's combination does. -/
def State.combine (s : State) (lid k : Nat) (l : List (Nat × Launch)) : Except State State :=
  let x := s.launch lid
  let ids := l.map (fun e => e.1)
  if x.collOp = 5 then .ok (s.joinOn lid l)
  else
    let fixed := l.foldl (fun (e : Except State State) m => match e with
      | .error s => .error s
      | .ok s => s.fixPost m.1 k) (.ok s)
    match fixed with
    | .error s => .error s
    | .ok s =>
      let r := (ids.findIdx? (fun i => i == lid)).getD 0
      let part := x.rowPart k r l.length
      let data := ids.map (fun i => match s.post? i k with
        | none => []
        | some p => p.data)
      match (if x.collOp ≤ 2 then s.collRead x.ctx part.1 part.2 else .ok (s, [])) with
      | .error s => .error s
      | .ok (s, old) =>
        match s.writePieces x.ctx ((s.collPieces x k r data old)) with
        | .error s => .error s
        | .ok s => .ok (((s.charge x.ctx 1 (Config.hbmUnits s.tick)).charge x.ctx 2 (Config.hbmUnits (s.tick + 2 ^ 40))).chunkLanded
            lid k ids)

/-- Free bytes for the results of a chunk that have not landed at a member (R351): what R346 would have written there. -/
def State.blurChunk (s : State) (x : Launch) (k : Nat) : Except State State :=
  let n := (s.ctx x.ctx).groupN x.collGroup
  let cb := x.collBytes
  let r := (s.rankIn x.ctx x.collGroup).getD 0
  let part := x.rowPart k r n
  let (lo, hi) := x.partElems r n
  let w := x.resultTid.f.container
  match x.collOp with
  | 3 => s.collWrite x.ctx (x.collDst + k * n * cb) (s.freeBytes (k * n * cb) (n * cb))
  | 4 => s.collWrite x.ctx (x.collDst + k * cb) (s.freeBytes (k * cb) cb)
  | 5 => .ok (s.blurTiles x.collCore ((s.core x.collCore).sd x.collJd).tileList)
  | _ => (s.collRead x.ctx part.1 part.2).bind (fun q =>
      q.1.collWrite x.ctx part.1 (rowBytesOf w lo hi ((List.range' lo (hi - lo)).map (fun e =>
        natOfBytes (q.1.freeBytes (8 * e) 4) % 2 ^ w)) q.2))

/-- A launch ends in a collective error (R351): its results that have landed stay, and the others are unspecified. One that is
over already stays as it ended. -/
def State.collError (s : State) (lid : Nat) : Except State State :=
  let x := s.launch lid
  (((List.range x.chunks).filter (fun k => !x.landed.contains k)).foldl (fun (e : Except State State) k =>
    e.bind (fun s => s.blurChunk x k)) (.ok s)).map (fun s => s.killLaunch lid 4 0 0 0)

/-- COLL_COMBINE (R346, R350, R351): a chunk that every member has posted lands at a member; a broken collective ends
in its error. -/
def execCollCombine (lid chunk : Nat) (s : State) : Host.Outcome State Fault Refusal :=
  .next (
    let x := s.launch lid
    if x.collOp = 0 || x.complete || x.killed then s
    else if s.collBroken x then settled (s.collError lid)
    else match s.partners x with
      | none => s
      | some l =>
        if x.landed.contains chunk || l.any (fun e => !e.2.posted.contains chunk) then s
        else settled (s.combine lid chunk l))

end Sys2Proof.Machine
end

