-- ==== Sys2Proof/Machine/Shard.lean ====
section
/-! DEFINITION. The shard unit: `sh.evict`, `sh.touch` and `pg.inval` (R377 to R379), and the messages between slices
(R370 to R376). -/

namespace Sys2Proof.Machine

/-! ### Instructions -/

/-- A shard instruction at hand-off, which takes a replay entry (R364): `kind` 7 evict, 8 touch. -/
def State.shardOp (s : State) (i : Instr) (x : Enc) (opn kind m : Nat) : Host.Outcome State Fault Refusal :=
  s.onLong i x (fun bk b =>
    if s.replaysFull bk then s.stall
    else s.handOff bk b x { id := 0, bk := bk, ser := 0, cls := 12, opn := opn, flag := none, upc := 0, ex := b.active
                            ord := if kind = 7 then 2 else 1
                            reqs := [{ uid := 0, t := 64, stage := .walk, addr := (b.sreg x.a.toNat).toNat, n := 1
                                       act := .sys kind m 0 0 }] })

/-- `sh.evict` (R376, R378). -/
def execShEvict (x : Enc) (s : State) : Host.Outcome State Fault Refusal := s.shardOp (.shEvict x) x 6 7 0

/-- `sh.touch` (R378). -/
def execShTouch (x : Enc) (s : State) : Host.Outcome State Fault Refusal :=
  s.shardOp (.shTouch x) x 7 8 x.d.toNat

/-- `pg.inval` (R379): an address that is not canonical traps at once. -/
def execPgInval (x : Enc) (s : State) : Host.Outcome State Fault Refusal :=
  s.onLong (.pgInval x) x (fun bk b =>
    let va := (b.sreg x.a.toNat).toNat
    if !canonical va then s.trapSync bk 0x04 va
    else s.handOff bk b x { id := 0, bk := bk, ser := 0, cls := 12, opn := 8, flag := none, upc := 0, ex := b.active
                            ord := 2
                            reqs := [{ uid := 0, t := 64, stage := .home, addr := va, n := 1
                                       act := .sys 9 x.b.toNat 0 0 }] })

/-- The eviction of a page in PARTIAL begins: its operation waits for the last SACK (R376). -/
def State.beginReduce (s : State) (o : Op) (r : Req) (c g p : Nat) : State :=
  (s.startReduce c g p).stageReq o { r with act := .sys 7 1 0 0 }

/-- Whether accesses of a context that have found a page are not performed (R372, R376). -/
def State.pageBusy (s : State) (c p : Nat) : Bool :=
  s.ops.any (fun o => !isFw o.bk && ctxOfBundle o.bk == c && o.reqs.any (fun r =>
    o.throughPage r && pageOf r.addr == p))

/-- `sh.evict` in the state it finds (R378): it waits in GATHERING and REDUCING, and gives a copy up only when every
proposal of the arming has its REPLY (R373). -/
def State.evictPage (s : State) (o : Op) (r : Req) (c g p sst : Nat) : State :=
  match sst with
  | 0 => s.endReq o.id r.uid []
  | 2 => if (s.ctx c).props.contains p then s else (s.giveUp c g p).endReq o.id r.uid []
  | 3 => if s.unperformed o.ser o.id (widthMask 64) || s.pageBusy c p then s else s.beginReduce o r c g p
  | 5 => (s.giveUp c g p).endReq o.id r.uid []
  | _ => s

/-- Every slot of a page becomes 0 at LG, and the page PARTIAL (R378). -/
def State.makePartial (s : State) (c g p : Nat) : State :=
  (s.setSlots (s.frameOf c p) (List.replicate 512 { l := (s.ctx c).groupLg g })).setSst c p 3

/-- `sh.touch` in the state it finds (R378). -/
def State.touchPage (s : State) (o : Op) (r : Req) (m c g p sst : Nat) : State :=
  let done (s : State) : State := s.endReq o.id r.uid []
  let bad : State := s.failReq o r 0x05 6 r.addr
  match sst with
  | 0 =>
    if m = 0 then (if s.unperformed o.ser o.id (widthMask 64) then s
      else (s.stageReq o { r with act := .sys 8 0 1 0 }).firstTouch c g p)
    else if s.stagingOpen c g p then s
    else if m = 1 then done (s.makePartial c g p) else done s
  | 2 => if m = 1 then bad else done s
  | 3 => if m = 2 then bad else done s
  | 5 => s.failReq o r 0x06 6 r.addr
  | _ => s

/-- A shard instruction is judged, or judged again, behind the accesses of its page that were held before it (R365, R377, R378);
an uncorrectable error that its walk meets is reported (R232, R364). -/
def State.performShard (s : State) (o : Op) (r : Req) : State :=
  let c := ctxOfBundle o.bk
  if !s.runs o.bk || s.heldBefore o r then s
  else if let some a := s.walkBad c (s.sliceOf o.bk) (microOf o.bk) r.addr then s.failReq o r 0x0F 6 a
  else match s.findLeaf c (s.sliceOf o.bk) (microOf o.bk) r.addr with
    | none => s.failReq o r 0x04 6 r.addr
    | some (l, t) =>
      let t := t.charge c 1 (Config.hbmUnits s.tick)
      if leafKind l.word ≠ 3 then t.failReq o r 0x05 6 r.addr
      else
        let p := pageOf r.addr
        let g := leafGroup l.word
        match r.act with
        | .sys 7 0 _ _ => t.evictPage o r c g p (leafSst l.word)
        | .sys 7 _ _ _ =>
          if leafSst l.word = 4 || (FMap.find (s.ctx c).sacks p).isSome then t else t.endReq o.id r.uid []
        | .sys 8 _ 2 _ => t.endReq o.id r.uid []
        | .sys 8 m _ _ =>
          if m = 1 && !l.grants .write then t.failReq o r 0x05 6 r.addr
          else t.touchPage o r m c g p (leafSst l.word)
        | _ => t

/-- Whether an access of a context was translated through an entry of a page at some level: `levels` is a mask, `cut`
bounds the operations (R379). -/
def State.stillThrough (s : State) (c va levels cut : Nat) (inScope : Nat → Bool) : Bool :=
  s.ops.any (fun o => !isFw o.bk && ctxOfBundle o.bk == c && decide (o.id < cut) && inScope (s.sliceOf o.bk) &&
    o.reqs.any (fun r => o.throughPage r && (List.range 4).any (fun l => levels / 2 ^ l % 2 == 1 &&
      r.addr / 2 ^ pageBits l == va / 2 ^ pageBits l)))

/-- `pg.inval` is performed (R379): after the writes before it, the entries in scope go; then it waits for what was
translated through them. -/
def State.performInval (s : State) (o : Op) (r : Req) : State :=
  let c := ctxOfBundle o.bk
  let home := s.sliceOf o.bk
  match r.act with
  | .sys 9 k 0 _ =>
    if s.unperformed o.ser o.id (widthMask 64) then s
    else
      let inScope (chip : Nat) : Bool := k == 1 || chip == home
      let gone := (s.ctx c).tlb.filter (fun e => e.page == r.addr / 2 ^ pageBits e.level && inScope e.chiplet)
      let levels := (List.range 4).foldl (fun n l => if gone.any (fun e => e.level == l) then n + 2 ^ l else n) 0
      (s.dropTlb c r.addr inScope).stageReq o { r with act := .sys 9 k (levels + 1) s.nextId }
  | .sys 9 k levels cut =>
    if s.stillThrough c r.addr (levels - 1) cut (fun chip => k == 1 || chip == home) then s else s.endReq o.id r.uid []
  | _ => s

/-! ### Messages -/

/-- Whether a message stands behind an earlier one between the same slices about the same page: they take one path, whose
order is kept (R322, R371; log 86). -/
def State.msgBehind (s : State) (m : Msg) : Bool :=
  s.msgs.any (fun q => decide (q.id < m.id) && q.src == m.src && q.dst == m.dst && q.group == m.group && q.page == m.page)

/-- Act on a message of a kind; `drop` is the state without it, its receiver's function charged for the records and page tables
that the shard unit reads and writes for it (R403), and soft errors in the record corrected (R221). -/
def State.onMsg (s : State) (id kind : Nat) (f : Msg → State → State) : State :=
  match s.msgs.find? (fun m => m.id == id && m.kind == kind) with
  | none => s
  | some m => if s.msgBehind m || !s.msgLeft m then s
    else
      let s := if kind = 8 then s else s.correctMem (s.recordAt m.dst m.group m.page) 64
      f m ({ s with msgs := s.msgs.filter (fun q => q.id != id) }.charge m.dst 1 (Config.hbmUnits s.tick))

/-- A notice takes effect on its receiver, or is kept until the receiver's context runs (R374). -/
def State.notice (s : State) (m : Msg) : State :=
  if (s.ctx m.dst).running then s.takeNotice m
  else s.setCtx m.dst { s.ctx m.dst with kept := (s.ctx m.dst).kept ++ [m] }

/-- The proposer id of a package's shard unit (R368). -/
def shardId (pkg : Nat) : Nat := 2 ^ 31 + pkg % 64 * 2 ^ 25

/-- PROP (R370, R371): a record that another page uses holds the proposal. -/
def execProp (msg : Nat) (s : State) : Host.Outcome State Fault Refusal :=
  .next (s.onMsg msg 0 (fun m drop =>
    let c := m.dst
    if !s.recordOpen c m.group m.page then s
    else
      let a := s.recordAt c m.group m.page
      let pid := shardId (pkgOfCtx m.src)
      let armed := cellState (BitVec.ofNat 64 (s.word (a + 8))) != 0
      let w0 : DWord := if armed then BitVec.ofNat 64 (s.word a) else 0
      let w1 : DWord := if armed then BitVec.ofNat 64 (s.word (a + 8)) else cellWord 0 0 1
      let r := cellProp w0 w1 (BitVec.ofNat 64 pid) pid
      let t := ((drop.setWord (a + 16) (tagFor m.page)).setWord a r.w0.toNat).setWord (a + 8) r.w1.toNat
      let t := t.ackDown c m.group m.page
      t.post { id := 0, kind := 1, src := c, dst := m.src, group := m.group, page := m.page, rank := m.rank
               won := r.status % 8 == 0, ackd := s.word (a + 24) / 2 ^ m.rank % 2 == 1, winner := r.value.toNat }))

/-- REPLY (R371, R374). -/
def execReply (msg : Nat) (s : State) : Host.Outcome State Fault Refusal :=
  .next (s.onMsg msg 1 (fun m drop => drop.notice m))

/-- Units of a rank have arrived on a member: its own bit stands for the SHARD messages sent. -/
def State.gotUnits (s : State) (c g p r : Nat) : State :=
  if s.sst c p = 2 ∨ s.sst c p = 5 then s
  else
    let x := s.ctx c
    (s.setCtx c { x with got := FMap.put x.got p (putBit (FMap.look x.got 0 p) r true) }).install c g p

/-- GSTART (R370, R376): the member sends its units once per gather; an open staging of the page holds it. -/
def execGstart (msg : Nat) (s : State) : Host.Outcome State Fault Refusal :=
  .next (s.onMsg msg 2 (fun m drop =>
    let c := m.dst
    let x := s.ctx c
    let me := (s.rankIn c m.group).getD 0
    if s.stagingOpen c m.group m.page then s
    else if hasBit (FMap.look x.got 0 m.page) me then drop
    else
      let t := (drop.correctUnits c m.group m.page me).gathering c m.page
      let t := ((x.ranks m.group).filter (fun r => r != me)).foldl (fun t r =>
        t.send 3 c (memberCtx (x.member m.group r)) m.group m.page me false false (s.unitBytes c m.group m.page me)) t
      (t.gotUnits c m.group m.page me).gatherDown c m.group m.page))

/-- SHARD (R370): another member's units land in the frame. -/
def execShard (msg : Nat) (s : State) : Host.Outcome State Fault Refusal :=
  .next (s.onMsg msg 3 (fun m drop =>
    let c := m.dst
    let t := (drop.charge c 1 (m.data.length / 64)).memWrite (s.frameOf c m.page + 256 * unitFrom ((s.ctx c).groupN m.group) m.rank) m.data
    ((t.gathering c m.page).gotUnits c m.group m.page m.rank).gatherDown c m.group m.page))

/-- EVACK (R370). -/
def execEvack (msg : Nat) (s : State) : Host.Outcome State Fault Refusal :=
  .next (s.onMsg msg 4 (fun m drop =>
    let a := s.recordAt m.dst m.group m.page
    if s.word (a + 16) = tagFor m.page then
      (drop.setWord (a + 24) ((BitVec.ofNat 64 (s.word (a + 24))) ||| bitMask m.rank).toNat).freeIfAcked m.dst m.group m.page
    else drop))

/-- FREE (R370, R371, R374): the waiters propose again; a descheduled member acts on it when it runs. -/
def execFree (msg : Nat) (s : State) : Host.Outcome State Fault Refusal :=
  .next (s.onMsg msg 5 (fun m drop => drop.notice m))

/-- SLICE (R376): it waits for a staging frame; its rank is the evicting member's. -/
def execSlice (msg : Nat) (s : State) : Host.Outcome State Fault Refusal :=
  .next (s.onMsg msg 6 (fun m drop =>
    match drop.addSlice m.dst m.group m.page m.rank m.data with
    | none => { s with msgs := s.msgs.map (fun q => if q.id = msg then { q with held := true } else q) }
    | some t =>
      let t := (t.charge m.dst 1 (m.data.length / 64)).stagingDown m.dst m.group m.page
      t.send 7 m.dst m.src m.group m.page ((s.rankIn m.dst m.group).getD 0) false false []))

/-- SACK (R376): a descheduled member's page table is not written. -/
def execSack (msg : Nat) (s : State) : Host.Outcome State Fault Refusal :=
  .next (s.onMsg msg 7 (fun m drop => drop.notice m))

/-- DOWN (R375): `page` is the package whose lease has lapsed. -/
def execDown (msg : Nat) (s : State) : Host.Outcome State Fault Refusal :=
  .next (s.onMsg msg 8 (fun m drop => drop.markDown m.dst m.page))

/-- PRESSURE_EVICTION (R374, R376): a gathered or partial page of a running member, of the shard unit's own accord. -/
def execPressureEviction (ctx va : Nat) (s : State) : Host.Outcome State Fault Refusal :=
  .next (
    let p := pageOf va
    match s.pageLeaf ctx p with
    | none => s
    | some l =>
      if leafKind l.word ≠ 3 ∨ (s.ctx ctx).running = false ∨ (s.ctx ctx).props.contains p = true ∨ s.pageBusy ctx p = true then s
      else if leafSst l.word = 2 then s.giveUp ctx (leafGroup l.word) p
      else if leafSst l.word = 3 then s.startReduce ctx (leafGroup l.word) p
      else s)

end Sys2Proof.Machine
end

