-- ==== Sys2Proof/Machine/Context.lean ====
section
/-! DEFINITION. Class 12, ops 09 to 0F (R415 to R424): `ctx.drain` and the portable save area; and the end of a slice
(R413). A save takes its record in the step of its hand-off, and a load installs its record in one step, once it has
read and checked all of it. -/

namespace Sys2Proof.Machine

/-! ### `ctx.drain` (R417) -/

/-- `ctx.drain` (R417). -/
def execCtxDrain (x : Enc) (s : State) : Host.Outcome State Fault Refusal :=
  s.onLong (.ctxDrain x) x (fun bk b =>
    s.handOff bk b x { id := 0, bk := bk, ser := 0, cls := 12, opn := 9, flag := none, upc := 0, ex := b.active
                       ord := 1, lvl := 1, reqs := [{ uid := 0, t := 64, stage := .wait, act := .drain 0 }] })

/-- Whether something that a bundle handed off before an operation is not complete: an operation, an engine entry
that has not arrived, or an arming that is not reached (R417). -/
def State.undrained (s : State) (o : Op) : Bool :=
  let c := s.core (coreOfBundle o.bk)
  s.ops.any (fun p => p.ser == o.ser && decide (p.id < o.id)) ||
    c.mxOpen.any (fun e => e.ser == o.ser && decide (e.opId < o.id)) ||
    c.sq.any (fun e => e.ser == o.ser && decide (e.opId < o.id)) ||
    s.arms.any (fun a => a.ser == o.ser && decide (a.opId < o.id) && !a.reached)

/-- `ctx.drain` completes when nothing is left before it, and its completion is an acquire of the engine writes (R417). -/
def State.performDrain (s : State) (o : Op) (r : Req) : State :=
  if s.undrained o then s else (s.endReq o.id r.uid []).observes o.bk (fun u => u.ser == o.ser)

/-! ### Records (R415) -/

/-- The 16-byte header of a record (R415). -/
def recordHeader (len typ w1 : Nat) : List Byte := bytesOfNat 8 (len * 2 ^ 32 + 2 ^ 8 + typ) ++ bytesOfNat 8 w1

/-- An 8-byte word of a record. -/
def recordWord (l : List Byte) (off : Nat) : DWord := BitVec.ofNat 64 (natOfBytes ((l.drop off).take 8))

/-- The length of a bundle record (R415). -/
def Bundle.recordLength (b : Bundle) : Nat := 0x2E0 + b.width * (48 + 4 * b.allot)

/-- The fields of header word 1 of a bundle record. -/
def Bundle.recordFields (b : Bundle) : Nat := b.width + b.allot * 2 ^ 16 + b.dmax * 2 ^ 32

/-- The state word of a thread block (R415). -/
def Thread.recordState (th : Thread) : Nat :=
  let cond := match th.cond with
    | .meet => 1
    | .dead => 2
    | _ => 0
  th.depth % 32 + cond * 2 ^ 8 + th.clo % 64 * 2 ^ 16

/-- The bitmap of the core sets of which a thread is a member (R415). -/
def State.coreSetsOf (s : State) (ck n : Nat) : Nat :=
  (List.range 256).foldl (fun m k => if (s.setRec (s.keyFor ck 1 k)).members.contains n then m + 2 ^ k else m) 0

/-- A thread block (R415). -/
def State.threadBlock (s : State) (bk : Nat) (b : Bundle) (t : Nat) : List Byte :=
  let th := b.thread t
  bytesOfNat 4 th.pc.toNat ++ bytesOfNat 4 th.meet.toNat ++ bytesOfNat 4 th.recordState ++
    (List.range 4).map (b.ireg t) ++ bytesOfNat 32 (s.coreSetsOf (coreOfBundle bk) (threadNo b.ser t)) ++
    (List.range b.allot).flatMap (fun n => bytesOfNat 4 (b.vreg t n).toNat)

/-- A bundle record (R415, R419): `b` is the bundle with the saving threads at the word after the unit. -/
def State.bundleRecord (s : State) (bk : Nat) (b : Bundle) (d : Nat) : List Byte :=
  recordHeader b.recordLength 1 b.recordFields ++
    (List.range 64).flatMap (fun n => bytesOfNat 8 (if n = d then 0 else (b.sreg n).toNat)) ++
    (List.range' 1 7).flatMap (fun k => bytesOfNat 8 (b.mreg k).toNat) ++
    bytesOfNat 8 b.status.toNat ++ bytesOfNat 8 (s.activeCycles bk) ++
    (List.range' 1 16).flatMap (fun k => bytesOfNat 8 (b.family k).toNat) ++
    bytesOfNat 8 b.live.toNat ++ (List.range b.width).flatMap (s.threadBlock bk b)

/-- A descriptor entry of a core record (R415). -/
def State.descEntry (s : State) (ck k : Nat) : List Byte :=
  let d := (s.core ck).sd k
  bytesOfNat 8 (s.sigStatus ck d d.l0).toNat ++ bytesOfNat 8 d.win1.toNat ++ bytesOfNat 8 d.win2.toNat ++
    bytesOfNat 8 0

/-- A barrier entry of a core record (R415). -/
def Bar.entry (x : Bar) : Nat :=
  (match x.bound with
    | none => 0xFFFF
    | some (h, _) => h) + bit x.p * 2 ^ 16

/-- The tags of four lines of a core record (R415). -/
def Core.tagByte (c : Core) (j : Nat) : Byte :=
  BitVec.ofNat 8 ((List.range 4).foldl (fun n i =>
    n + (bit (FMap.look c.tagV true (4 * j + i)) + 2 * bit (FMap.look c.tagC true (4 * j + i))) * 4 ^ i) 0)

/-- The core-set allocation bitmap (R423). -/
def State.allocBitmap (s : State) (ck : Nat) : Nat :=
  (List.range 256).foldl (fun m k =>
    let x := s.setRec (s.keyFor ck 1 k)
    if x.alloc || x.initial then m + 2 ^ k else m) 0

/-- The length of a core record (R415). -/
def Core.recordLength (c : Core) : Nat := 0x14B0 + 64 * c.spg

/-- A core record (R415, R420), taken in one step. -/
def State.coreRecord (s : State) (ck : Nat) : List Byte :=
  let c := s.core ck
  recordHeader c.recordLength 2 c.spg ++
    (List.range 256).flatMap (fun n => bytesOfNat 16 (FMap.look c.tid 0 n).toNat) ++
    (List.range 4).flatMap (s.descEntry ck) ++ bytesOfNat 32 (s.allocBitmap ck) ++
    (List.range 128).flatMap (fun n => bytesOfNat 8 (s.bar (s.keyFor ck 1 n)).entry) ++
    (List.range (64 * c.spg)).map c.tagByte

/-- Whether a class-9 or class-10 instruction writes a tile and its completion has not been observed (R421), or an ordered join
uses it (R350). -/
def State.tileBusy (s : State) (ck ser tile : Nat) : Bool :=
  let c := s.core ck
  let on (t : Touch) : Bool := t.writes.any (fun a => a.tile == tile)
  c.mxOpen.any (fun e => on e.touch) || c.sq.any (fun e => on e.touch) ||
    c.unseen.any (fun u => !u.seenBy ser true && on u.touch) || (s.joinTiles ck).contains tile

/-- A tile's image in a record; in a race its bytes are unspecified (R270, R277, R421). -/
def State.savedImage (s : State) (ck ser tile : Nat) : List Byte :=
  if s.tileBusy ck ser tile then s.freeBytes (0x10000 * tile) 0xC008 ++ List.replicate 8 0 else s.tileImage ck tile

/-- A tile record (R415, R421). -/
def State.tileRecord (s : State) (ck ser f c : Nat) : List Byte :=
  recordHeader (0x10 + c * 0xC010) 3 (f + c * 2 ^ 8) ++ (List.range' f c).flatMap (s.savedImage ck ser)

/-! ### Hand-off of saves and loads (R416, R418) -/

/-- Cut bytes into pieces of 8. `fuel` bounds them. -/
def wordsIn (fuel : Nat) (l : List Byte) : List (List Byte) :=
  match fuel with
  | 0 => []
  | n + 1 => if l.isEmpty then [] else l.take 8 :: wordsIn n (l.drop 8)

/-- The requests that store a record. -/
def storeRecord (va : Nat) (l : List Byte) : List Req :=
  (wordsIn (l.length / 8 + 1) l).zipIdx.map (fun (p : List Byte × Nat) =>
    { uid := p.2, t := 64, stage := .walk, act := .st (natOfBytes p.1), addr := (va + 8 * p.2) % 2 ^ 64, n := p.1.length : Req })

/-- The requests that read n bytes of a record from offset `off` on, numbered from `uid`. -/
def readRecord (va off n uid : Nat) : List Req :=
  (List.range ((n + 7) / 8)).map (fun i =>
    { uid := uid + i, t := 65, stage := .walk, act := .ld (off / 8 + i) true, addr := (va + off + 8 * i) % 2 ^ 64
      n := min 8 (n - 8 * i) : Req })

/-- A save or load instruction: it stalls until every flag of the bundle is zero (R418). -/
def State.ctxOp (s : State) (i : Instr) (x : Enc) (f : Nat → Bundle → Nat → State) : Host.Outcome State Fault Refusal :=
  s.onLong i x (fun bk b => if b.wf.isEmpty then f bk b (b.sreg x.a.toNat).toNat else s.stall)

/-- A save or load with a check at issue, before it stalls (R419): the trap and its detail. -/
def State.ctxChecked (s : State) (i : Instr) (x : Enc) (check : Nat → Bundle → Option (Nat × Nat))
    (f : Nat → Bundle → Nat → State) : Host.Outcome State Fault Refusal :=
  s.onUnit i x (fun bk b => match check bk b with
    | some (code, detail) => s.trapSync bk code detail
    | none =>
      if b.flagFull (b.flagFor x) || s.fenced b (rowOf i).cls (rowOf i).op || !b.wf.isEmpty then s.stall
      else f bk b (b.sreg x.a.toNat).toNat)

/-- Hand a save off: its stores, then the length for its register. -/
def State.handSave (s : State) (bk : Nat) (b : Bundle) (x : Enc) (opn va : Nat) (l : List Byte) (tiles : List Nat := []) : State :=
  let reqs := storeRecord va l
  s.handOff bk b x { id := 0, bk := bk, ser := 0, cls := 6, opn := opn, flag := none, upc := 0, ex := b.active, tiles := tiles
                     reqs := reqs ++ [{ uid := reqs.length, t := 64, stage := .wait
                                        act := .sys 12 0 l.length x.d.toNat, addr := va }] }

/-- Hand a load off: its header, then what follows from it. -/
def State.handLoad (s : State) (bk : Nat) (b : Bundle) (x : Enc) (opn va d : Nat) (tiles : List Nat := []) : State :=
  s.handOff bk b x { id := 0, bk := bk, ser := 0, cls := 6, opn := opn, flag := none, upc := 0, ex := b.active, tiles := tiles
                     reqs := readRecord va 0 16 0 ++
                       [{ uid := 2, t := 64, stage := .wait, act := .sys 12 1 0 d, addr := va }] }

/-- Whether a live thread outside the path is parked other than at its meeting address (R419). -/
def Bundle.strayPark (b : Bundle) : Bool :=
  (b.live &&& ~~~b.active &&& ~~~b.maskWhere (fun th => th.cond == .running || th.cond == .meet)) != 0

/-- The handle that a key of a set or barrier stands for (R81). -/
def handleOfKey (key : Nat) : Nat := key / 512 / 1024 % 4 * 2 ^ 14 + key % 512

/-- The handle of a barrier in an open phase of which a thread of a bundle has an arrival (R419). -/
def State.arrivedOn (s : State) (b : Bundle) : Option Nat :=
  (s.bars.find? (fun e => (List.range b.width).any (fun t =>
    e.2.arr0.contains (threadNo b.ser t) || e.2.arr1.contains (threadNo b.ser t)))).map (fun e => handleOfKey e.1)

/-- The bundle as a save records it: the saving threads stand at the word after the unit (R419). -/
def Bundle.captured (b : Bundle) (x : Enc) : Bundle := b.advance (unitLen x)

/-- What keeps a bundle from being saved at issue (R419): trap 0x01, or trap 0x0A with the barrier's handle. -/
def State.saveFault (s : State) (b : Bundle) (x : Enc) : Option (Nat × Nat) :=
  let th := b.thread b.lead
  if th.clo + unitLen x ≠ clauseSpan th.hdr ∨ b.hidden.isSome = true ∨ b.strayPark = true then some (0x01, 0)
  else (s.arrivedOn b).map (fun h => (0x0A, h))

/-- `ctx.svb` (R415, R418, R419). -/
def execCtxSvb (x : Enc) (s : State) : Host.Outcome State Fault Refusal :=
  s.ctxChecked (.ctxSvb x) x (fun _ b => s.saveFault b x) (fun bk b va =>
    if va % 16 ≠ 0 then s.trapSync bk 0x03 va
    else s.handSave bk b x 0x1A va (s.bundleRecord bk (b.captured x) x.d.toNat))

/-- `ctx.ldb` (R418, R419, R424). -/
def execCtxLdb (x : Enc) (s : State) : Host.Outcome State Fault Refusal :=
  s.ctxOp (.ctxLdb x) x (fun bk b va =>
    if va % 16 ≠ 0 then s.trapSync bk 0x03 va else s.handLoad bk b x 0x1B va 0)

/-- The handle of a core barrier that has an arrival or enrolment in an open phase (R420). -/
def State.coreBarUsed (s : State) (ck : Nat) : Option Nat :=
  ((List.range 128).find? (fun n => (s.bar (s.keyFor ck 1 n)).inUse)).map (fun n => 0x4000 + n)

/-- `ctx.svd` (R418, R420). -/
def execCtxSvd (x : Enc) (s : State) : Host.Outcome State Fault Refusal :=
  s.ctxOp (.ctxSvd x) x (fun bk b va =>
    if va % 16 ≠ 0 then s.trapSync bk 0x03 va
    else match s.coreBarUsed (coreOfBundle bk) with
      | some h => s.trapSync bk 0x0A h
      | none => s.handSave bk b x 0x1C va (s.coreRecord (coreOfBundle bk)))

/-- `ctx.ldd` (R418, R420). -/
def execCtxLdd (x : Enc) (s : State) : Host.Outcome State Fault Refusal :=
  s.ctxOp (.ctxLdd x) x (fun bk b va =>
    if va % 16 ≠ 0 then s.trapSync bk 0x03 va
    else match s.coreBarUsed (coreOfBundle bk) with
      | some h => s.trapSync bk 0x0A h
      | none => s.handLoad bk b x 0x1D va 0)

/-- `ctx.svx` (R418, R421). -/
def execCtxSvx (x : Enc) (s : State) : Host.Outcome State Fault Refusal :=
  s.ctxOp (.ctxSvx x) x (fun bk b va =>
    let ck := coreOfBundle bk
    let w := (b.sreg x.b.toNat).toNat
    let f := w % 64
    let c := w / 2 ^ 8 % 64
    if va % 16 ≠ 0 then s.trapSync bk 0x03 va
    else if w / 2 ^ 14 ≠ 0 ∨ w / 2 ^ 6 % 4 ≠ 0 ∨ c = 0 ∨ (s.core ck).tiles < f + c then s.trapSync bk 0x09 f
    else s.handSave bk b x 0x1E va (s.tileRecord ck b.ser f c) (List.range' f c))

/-- `ctx.ldx` (R418, R421). -/
def execCtxLdx (x : Enc) (s : State) : Host.Outcome State Fault Refusal :=
  s.ctxOp (.ctxLdx x) x (fun bk b va =>
    let w := (b.sreg x.b.toNat).toNat
    if va % 16 ≠ 0 then s.trapSync bk 0x03 va
    else if w / 2 ^ 6 ≠ 0 ∨ (s.core (coreOfBundle bk)).tiles ≤ w % 64 then s.trapSync bk 0x09 (w % 64)
    else s.handLoad bk b x 0x1F va (w % 64) (List.range' (w % 64) ((s.core (coreOfBundle bk)).tiles - w % 64)))

/-- A bundle hands off nothing while a save or load of it is not complete (R418). -/
def State.recording (s : State) (ser : Nat) : Bool := s.ops.any (fun o => o.ser == ser && o.records)

/-! ### The end of a load (R418 to R421) -/

/-- The bytes of a record that a load has read: its kept words in order. -/
def Op.record (o : Op) : List Byte :=
  let words : FMap DWord := o.ws.foldl (fun m w => w.ws.foldl (fun (m : FMap DWord) r => match r with
    | .s n x => FMap.put m n x
    | _ => m) m) []
  words.flatMap (fun e => bytesOfNat 8 e.2.toNat)

/-- The length that a record must have for a load, from its header word 1; none where a header field disagrees with
the running context (R415, R418). -/
def State.lengthWanted (s : State) (o : Op) (w1 d : Nat) : Option Nat :=
  let ck := coreOfBundle o.bk
  let b := s.bundle o.bk
  let c := s.core ck
  if o.opn = 0x1B then (if w1 = b.recordFields then some b.recordLength else none)
  else if o.opn = 0x1D then (if w1 = c.spg then some c.recordLength else none)
  else
    let n := w1 / 2 ^ 8 % 64
    if w1 / 2 ^ 14 ≠ 0 ∨ w1 / 2 ^ 6 % 4 ≠ 0 ∨ n = 0 ∨ c.tiles < d + n then none else some (0x10 + n * 0xC010)

/-- The record type that a load wants (R415). -/
def Op.recordType (o : Op) : Nat := if o.opn = 0x1B then 1 else if o.opn = 0x1D then 2 else 3

/-- The engine that reports a load's trap (R418): the bundle engine, the local pool, the matrix engine (log 21). -/
def Op.recordEngine (o : Op) : Nat := o.recordType - 1

/-- A load ends: its kept words go, its flag falls. -/
def State.endLoad (s : State) (o : Op) : State := (s.putOp { o with reqs := [], ws := [] }).completeOp o.id

/-- A load ends in a trap and changes nothing (R418). -/
def State.refuseLoad (s : State) (o : Op) (code detail : Nat) : State :=
  (s.report o code o.recordEngine o.ex (BitVec.ofNat 64 detail)).endLoad o

/-- The word that stands `clo` words before a PC, where it can be fetched (R194, R419). -/
def State.clauseHeaderAt (s : State) (bk : Nat) (b : Bundle) (pc clo : Nat) : Option Word :=
  match s.fetchAt bk ((s.launch b.launch).codeBase + 4 * ((pc + 2 ^ 32 - clo) % 2 ^ 32)) with
  | .ok pa _ => some (BitVec.ofNat 32 (natOfBytes (s.memRead pa 4)))
  | _ => none

/-- Whether a thread block is fit: reserved bits 0, a depth up to D, a condition that exists; and for a running thread
of the present mask inside a clause, the header that governs it can be fetched (R415, R418, R419). -/
def State.blockFit (s : State) (bk : Nat) (b : Bundle) (l : List Byte) (t : Nat) : Bool :=
  let at_ := 0x2E0 + t * (48 + 4 * b.allot)
  let w := (recordWord l (at_ + 8)).toNat % 2 ^ 32
  let pc := (recordWord l at_).toNat % 2 ^ 32
  let clo := w / 2 ^ 16 % 64
  w % 2 ^ 22 == w && w / 2 ^ 10 % 64 == 0 && w / 2 ^ 5 % 8 == 0 && decide (w % 32 ≤ b.dmax) &&
    decide (w / 2 ^ 8 % 4 ≤ 2) &&
    (if hasBit (recordWord l 0x2D8) t && w / 2 ^ 8 % 4 == 0 && clo != 0 then
      (match s.clauseHeaderAt bk b pc clo with
        | some h => h.toNat / 2 ^ 26 == 0
        | none => false)
    else true)

/-- Whether a bundle record is fit (R418). -/
def State.bundleFit (s : State) (bk : Nat) (b : Bundle) (l : List Byte) : Bool :=
  (recordWord l 0x2D8 &&& ~~~widthMask b.width) == 0 && (recordWord l 0x248 &&& ~~~(stWritable ||| 7)) == 0 &&
    (List.range b.width).all (s.blockFit bk b l)

/-- The header word of a restored thread's clause (R419). -/
def State.governing (s : State) (bk : Nat) (b : Bundle) (pc clo : Nat) : Word :=
  if clo = 0 then 0 else (s.clauseHeaderAt bk b pc clo).getD 0

/-- A thread from its block (R415, R419). -/
def State.threadOf (s : State) (bk : Nat) (b : Bundle) (l : List Byte) (at_ : Nat) : Thread :=
  let w := (recordWord l (at_ + 8)).toNat % 2 ^ 32
  let pc := (recordWord l at_).toNat % 2 ^ 32
  let clo := w / 2 ^ 16 % 64
  { pc := BitVec.ofNat 32 pc
    meet := (recordWord l (at_ + 4)).truncate 32
    depth := w % 32
    cond := if w / 2 ^ 8 % 4 = 0 then .running else if w / 2 ^ 8 % 4 = 1 then .meet else .dead
    clo := clo
    hdr := s.governing bk b pc clo }

/-- A bundle with one thread restored from its block. -/
def State.restoreThread (s : State) (bk : Nat) (l : List Byte) (b : Bundle) (t : Nat) : Bundle :=
  let at_ := 0x2E0 + t * (48 + 4 * b.allot)
  let c := { b with thr := FMap.put b.thr t (s.threadOf bk b l at_) }
  let c := (List.range 4).foldl (fun c k => c.setIreg t k ((recordWord l (at_ + 12 + k)).truncate 8)) c
  (List.range b.allot).foldl (fun c n => c.setVreg t n ((recordWord l (at_ + 48 + 4 * n)).truncate 32)) c

/-- A bundle with its recorded state (R419, R424): its priority stays. -/
def State.restoreBundle (s : State) (bk : Nat) (b : Bundle) (l : List Byte) : Bundle :=
  let present := recordWord l 0x2D8
  let c := (List.range 64).foldl (fun c n => c.setSreg n (recordWord l (0x10 + 8 * n))) b
  let c := (List.range' 1 7).foldl (fun c k => c.setMreg k (recordWord l (0x208 + 8 * k))) c
  let c := { c with status := statusWrite (recordWord l 0x248), wf := [] }
  let c := (List.range' 1 16).foldl (fun c k => c.setFamily k (recordWord l (0x250 + 8 * k) &&& present)) c
  (bitsOf (present &&& widthMask b.width)).foldl (s.restoreThread bk l) { c with fam := c.fam.filter (fun e => e.2 != 0) }

/-- The set memberships of a restored bundle take effect as `set.join` does (R419). -/
def State.rejoinSets (s : State) (ck ser : Nat) (l : List Byte) (allot : Nat) (m : DWord) : State :=
  (bitsOf m).foldl (fun s t =>
    (List.range 256).foldl (fun s k =>
      if natOfBytes ((l.drop (0x2E0 + t * (48 + 4 * allot) + 16)).take 32) / 2 ^ k % 2 = 1 then
        let key := s.keyFor ck 1 k
        let y := s.setRec key
        if y.members.contains (threadNo ser t) then s else s.putSet key { y with members := y.members ++ [threadNo ser t] }
      else s) s) s

/-- `ctx.ldb` installs its record (R419, R424): its completion decrements no flag. A bundle whose launch has been
killed stays dead (R223). -/
def State.installBundle (s : State) (o : Op) (l : List Byte) : State :=
  let b := s.bundle o.bk
  if b.ser ≠ o.ser ∨ (s.launch b.launch).killed = true then s.endLoad o
  else if !s.bundleFit o.bk b l then s.refuseLoad o 0x09 ((o.reqs.map (fun (r : Req) => r.addr)).headD 0)
  else
    let present := recordWord l 0x2D8
    let s := { s with ops := s.ops.filter (fun p => p.id != o.id) }
    let s := s.setBundle o.bk { s.restoreBundle o.bk b l with active := 0 }
    let s := s.rejoinSets (coreOfBundle o.bk) o.ser l b.allot present
    let gone := b.live &&& ~~~present
    let s := if gone = 0 then s.evalBars else s.killIn o.bk gone
    ((s.setBundle o.bk (s.bundle o.bk).choose).settle o.bk).endIfDone o.bk

/-- A descriptor from its entry (R291, R415, R420); none where it is not fit. -/
def Core.descOf (c : Core) (l : List Byte) (at_ : Nat) : Option SigDesc :=
  let w := (recordWord l at_).toNat
  let n := w / 2 ^ 20 % 16
  let dim := w / 2 ^ 13 % 128
  let d : SigDesc := { dim := dim, n := n, base := w / 2 ^ 24 % 64, win1 := keepLevels n (recordWord l (at_ + 8))
                       win2 := keepLevels (n - 4) (recordWord l (at_ + 16)), l0 := w / 8 % 2 == 1 }
  if w / 2 ^ 30 ≠ 0 ∨ w / 2 ^ 4 % 8 ≠ 0 ∨ recordWord l (at_ + 24) ≠ 0 then none
  else if dim = 0 ∧ n = 0 then some { d with win1 := 0, win2 := 0 }
  else if dim < 2 ∨ 64 < dim ∨ n < 1 ∨ 8 < n ∨ c.tiles < d.base + d.tiles then none
  else some d

/-- Whether a core record's tensor identifiers, descriptors and bindings are fit (R153, R208, R420). -/
def State.coreRecordFit (s : State) (ck : Nat) (l : List Byte) : Bool :=
  let tid (n : Nat) : BitVec 128 := BitVec.ofNat 128 (natOfBytes ((l.drop (0x10 + 16 * n)).take 16))
  (List.range 256).all (fun n => tid n == 0 || (tidOf (tid n)).valid) &&
    (List.range 4).all (fun k => ((s.core ck).descOf l (0x1010 + 32 * k)).isSome) &&
    (List.range 128).all (fun n =>
      let w := (recordWord l (0x10B0 + 8 * n)).toNat
      w / 2 ^ 17 == 0 && (s.bindTo ck 1 (w % 2 ^ 16)).isSome)

/-- A core with the identifiers, descriptors and tags of a record. -/
def Core.restore (c : Core) (l : List Byte) : Core :=
  let c := (List.range 256).foldl (fun c n =>
    { c with tid := FMap.write c.tid 0 n (BitVec.ofNat 128 (natOfBytes ((l.drop (0x10 + 16 * n)).take 16))) }) c
  let c := (List.range 4).foldl (fun c k =>
    { c with desc := FMap.write c.desc {} k ((c.descOf l (0x1010 + 32 * k)).getD {}) }) c
  (List.range (256 * c.spg)).foldl (fun c n =>
    let b := (l.getD (0x14B0 + n / 4) 0).toNat / 4 ^ (n % 4)
    { c with tagV := FMap.write c.tagV true n (b % 2 == 1), tagC := FMap.write c.tagC true n (b / 2 % 2 == 1) }) c

/-- The set allocation and the barrier bindings of a record take effect on a core (R420, R423). -/
def State.restoreShared (s : State) (ck : Nat) (l : List Byte) : State :=
  let s := (List.range 256).foldl (fun s k =>
    let key := s.keyFor ck 1 k
    let y := s.setRec key
    if (l.getD (0x1090 + k / 8) 0).toNat / 2 ^ (k % 8) % 2 = 0 then s.putSet key { y with alloc := false, initial := false }
    else s.putSet key { y with alloc := y.alloc || !y.initial }) s
  (List.range 128).foldl (fun s n =>
    let key := s.keyFor ck 1 n
    let w := (recordWord l (0x10B0 + 8 * n)).toNat
    s.putBar key { s.bar key with bound := (s.bindTo ck 1 (w % 2 ^ 16)).getD none, p := w / 2 ^ 16 % 2 == 1 }) s

/-- `ctx.ldd` installs its record (R420). -/
def State.installCore (s : State) (o : Op) (l : List Byte) : State :=
  let ck := coreOfBundle o.bk
  match s.coreBarUsed ck with
  | some h => s.refuseLoad o 0x0A h
  | none =>
    if s.coreRecordFit ck l then
      (((s.setCore ck ((s.core ck).restore l)).restoreShared ck l).releaseHeld ck).endLoad o
    else s.refuseLoad o 0x09 ((o.reqs.map (fun (r : Req) => r.addr)).headD 0)

/-- `ctx.ldx` installs its record (R277, R421): a tile that an engine instruction touches before the bundle has observed this
load's completion, or whose own completion the bundle has not observed, is unspecified. -/
def State.installTiles (s : State) (o : Op) (l : List Byte) (f : Nat) : State :=
  let ck := coreOfBundle o.bk
  let n := (recordWord l 8).toNat / 2 ^ 8 % 64
  ((List.range n).foldl (fun s i =>
    if s.tileBusy ck o.ser (f + i) || o.raced.contains (f + i) then s.blurTile ck (f + i)
    else s.loadImage ck (f + i) ((l.drop (0x10 + i * 0xC010)).take 0xC010))
    ((s.meetEngines ck { writes := (List.range' f n).map Area.whole }).meetJoins ck { writes := (List.range' f n).map Area.whole })).endLoad o

/-- The header of a record has been read: a fit one has the rest of the record read (R418). -/
def State.checkHeader (s : State) (o : Op) (r : Req) (d : Nat) : State :=
  let l := o.record
  let w0 := (recordWord l 0).toNat
  match s.lengthWanted o (recordWord l 8).toNat d with
  | none => s.refuseLoad o 0x09 r.addr
  | some n =>
    if w0 ≠ n * 2 ^ 32 + 2 ^ 8 + o.recordType then s.refuseLoad o 0x09 r.addr
    else s.putOp { o with tiles := if o.opn = 0x1F then o.tiles.take ((recordWord l 8).toNat / 2 ^ 8 % 64) else o.tiles
                          reqs := readRecord r.addr 16 (n - 16) 3 ++ [{ r with act := .sys 12 2 0 d }] }

/-- The last request of a save or load, once nothing else of it is left: a save writes the length to its register
unless it faulted, a load goes on with its record or installs it (R418, R419). -/
def State.performRecord (s : State) (o : Op) (r : Req) : State :=
  match r.act, o.reqs with
  | .sys 12 phase n d, [_] =>
    if phase = 0 then
      (if o.failed then s.endReq o.id r.uid [] else s.endReq o.id r.uid [{ t := 64, ws := [.s d (BitVec.ofNat 64 n)] }])
    else if o.failed then s.endLoad o
    else if phase = 1 then s.checkHeader o r d
    else if o.opn = 0x1B then s.installBundle o o.record
    else if o.opn = 0x1D then s.installCore o o.record
    else s.installTiles o o.record d
  | _, _ => s

/-! ### The end of a slice (R413, R414) -/

/-- Whether a request must be served before the frames are switched (R413). -/
def State.unsettledReq (s : State) (o : Op) (r : Req) : Bool :=
  (o.cls == 5 && r.stage == .queued) ||
    ((o.cls == 6 || o.cls == 7) && (r.stage == .fabric || (r.stage == .home && !s.blocked o r false)))

/-- Whether the work of a context has settled (R413): what the manual leaves to replay may be left. -/
def State.settled (s : State) (c : Nat) : Bool :=
  !s.ops.any (fun o => !isFw o.bk && ctxOfBundle o.bk == c &&
    (o.ws.any (fun w => w.t != 65) || o.reqs.any (s.unsettledReq o))) &&
  !s.cores.any (fun e => ctxOfCore e.1 == c && e.2.port.isSome) &&
    !s.reports.any (fun r => !isFw r.bk && ctxOfBundle r.bk == c)

/-- The context of a partition whose frames are active. -/
def State.current (s : State) (p : Nat) : Option Nat := (s.part p).cur.map (fun v => p * 16 + v)

/-- The held notice of a function is written (R407). -/
def State.deliverNote (s : State) (c : Nat) : State :=
  let f := s.fn c
  if f.heldNote then s.setFn c { f with notes := f.ltail :: f.notes, heldNote := false } else s

/-- The armings of a context that resumes are evaluated (R342). -/
def State.resumeArms (s : State) (c : Nat) : State :=
  (s.arms.filter (fun (a : Arming) => a.due && ctxOfCore (a.key / 2 ^ 22) == c)).foldl (fun (s : State) (a : Arming) =>
    { s with arms := s.arms.map (fun (b : Arming) => if b.key == a.key then { b with due := false } else b) }.evalArms
      (a.key / 2 ^ 22) (a.key % 2 ^ 22)) s

/-- Where the image of a dense core of a context stands (R412). -/
def State.imageAt (s : State) (c d : Nat) : Nat := globalPa (pkgOfCtx c) (s.saveArea c + d * 0x420000)

/-- The bytes of an image: they have no layout for anybody but the device, so they are free (R412; log 63). -/
def Image.bytes (x : Image) : List Byte :=
  (List.range 0x420000).map (fun k => Config.freeByte (x.tick * 2 ^ 32 + x.dense * 0x420000 + k))

/-- What an image of a core of a context holds now. -/
def State.imageOf (s : State) (c d : Nat) : Image :=
  let ck := c * 1024 + d
  { ctx := c, dense := d, tick := s.tick, core := s.core ck
    pool := (s.pool.filter (fun e => e.1 / 2 ^ 22 == ck)).map (fun e => (e.1 % 2 ^ 22, e.2))
    bundles := (s.bundles.filter (fun e => coreOfBundle e.1 == ck)).map (fun e => (e.1 % 512, e.2)) }

/-- A context leaves its frames: on every core its image is written to the device save area (R412, R413). -/
def State.streamOut (s : State) (c : Nat) : State :=
  (List.range (s.coresOf (partOfCtx c))).foldl (fun s d =>
    let x := s.imageOf c d
    { s.memWrite (s.imageAt c d) x.bytes with
      images := x :: s.images.map (fun y => if y.ctx = c ∧ y.dense = d then { y with latest := false } else y) }) s

/-- An image takes a core's frame and bank. -/
def State.loadFrame (s : State) (ck : Nat) (x : Image) : State :=
  { s with
    cores := FMap.put s.cores ck x.core
    pool := s.pool.filter (fun e => decide (e.1 / 2 ^ 22 < ck)) ++ x.pool.map (fun e => (2 ^ 22 * ck + e.1, e.2)) ++
      s.pool.filter (fun e => decide (ck < e.1 / 2 ^ 22))
    bundles := s.bundles.filter (fun e => decide (coreOfBundle e.1 < ck)) ++ x.bundles.map (fun e => (512 * ck + e.1, e.2)) ++
      s.bundles.filter (fun e => decide (ck < coreOfBundle e.1)) }

/-- A context that was streamed out becomes resident: on every core the image that stands in its save area is loaded (R412). Its own
latest image holds what State holds of it, landings meanwhile included (R342); the bytes of another image, which the monitor
has copied there whole, bring what that image holds; other bytes, which only a partial copy leaves, give an unspecified
scratchpad and accumulator region (log 63). -/
def State.streamIn (s : State) (c : Nat) : State :=
  (List.range (s.coresOf (partOfCtx c))).foldl (fun s d =>
    match s.images.find? (fun x => x.ctx == c && x.dense == d && x.latest) with
    | none => s
    | some own =>
      let l := s.memRead (s.imageAt c d) 0x420000
      let t := { s with images := s.images.map (fun y => if y.ctx = c ∧ y.dense = d then { y with latest := false } else y) }
      if l = own.bytes then t
      else match s.images.find? (fun x => x.bytes == l) with
        | some x => t.loadFrame (c * 1024 + d) x
        | none => t.frameFill (c * 1024 + d) 0 (s.freeBytes 0x50000000 0x400000)) s

/-- The functions in a partition's frames once its present one has become a shadow, the one that ran last first. -/
def Part.shadows (p : Part) : List Nat :=
  match p.cur with
  | none => p.frames
  | some u => u :: p.frames.filter (fun k => k != u)

/-- The context of a function takes the active frames (R20, R413): its own, where it is resident, or those of the shadow that
ran least recently, which is streamed out; then its own image is streamed in. -/
def State.takeFrames (s : State) (p v : Nat) : State :=
  let x := s.part p
  let l := x.shadows
  let rest := l.filter (fun k => k != v)
  let t := s.setPart p { x with frames := v :: rest.take 2 }
  let t := match rest[2]? with
    | none => t
    | some u => t.streamOut (p * 16 + u)
  if l.contains v then t else t.streamIn (p * 16 + v)

/-- The frames switch (R413, steps 3 and 4): the outgoing context stops, and the incoming one runs again. -/
def State.switchTo (s : State) (p : Nat) (vf : Option Nat) : State :=
  let s := match s.current p with
    | none => s
    | some c => s.setCtx c { s.ctx c with running := false }
  match vf with
  | none => s.setPart p { s.part p with cur := none, ending := none, frames := (s.part p).shadows }
  | some v =>
    let c := p * 16 + v
    let s := s.takeFrames p v
    let s := s.setPart p { s.part p with cur := some v, ending := none }
    (((s.setCtx c { s.ctx c with running := true }).catchUp c).deliverNote c).resumeArms c

/-- SLICE_END (R413): the slice of a partition ends and `vf` comes next (16: nothing). Issue stops; once the work in
flight has settled, the event happens again and the frames switch. -/
def execSliceEnd (part vf : Nat) (s : State) : Host.Outcome State Fault Refusal :=
  .next (
    let p := s.part part
    if p.layers = 0 ∨ (vf < 16 ∧ (FMap.find s.ctxs (part * 16 + vf)).isNone = true) then s
    else match p.ending with
      | none => (s.setPart part { p with ending := some vf }).setEvtAll (part / 16) (bitMask 3)
      | some v =>
        let ready := match s.current part with
          | none => true
          | some c => s.settled c
        if ready then s.switchTo part (if v < 16 then some v else none) else s)

end Sys2Proof.Machine
end

