-- ==== Sys2Proof/Machine/Manage.lean ====
section
/-! DEFINITION. The firmware complex (R427 to R447): `lease.cas`, `measure`, `wfe`, the events of the management
block, the lease watch, snapshots, attestation and power domains. -/

namespace Sys2Proof.Machine

/-! ### Instructions that only a firmware core executes (R18, R433, R436, R437) -/

/-- A firmware-only instruction: on a compute core it traps 0x01 at decode (R18, R112), before any stall of its hand-off. -/
def State.onFirmware (s : State) (i : Instr) (x : Enc) (f : Nat → Bundle → State) : Host.Outcome State Fault Refusal :=
  s.onUnit i x (fun bk b =>
    if !isFw bk then s.trapSync bk 0x01 0
    else if b.flagFull (b.flagFor x) || s.fenced b (rowOf i).cls (rowOf i).op then s.stall else f bk b)

/-- The address that names the lease (R433). -/
def leaseAddress : Nat := 0x3F0000000000

/-- `lease.cas` at hand-off (R433). -/
def execLeaseCas (x : Enc) (s : State) : Host.Outcome State Fault Refusal :=
  s.onFirmware (.leaseCas x) x (fun bk b =>
    let a := (b.sreg x.a.toNat).toNat
    if a ≠ leaseAddress then s.trapSync bk 0x05 a
    else s.handOff bk b x { id := 0, bk := bk, ser := 0, cls := 12, opn := 0x10, flag := none, upc := 0, ex := b.active
                            ord := 4, lvl := 5
                            reqs := [{ uid := 0, t := 64, stage := .home, addr := a, n := 8
                                       act := .sys 10 (b.sreg x.b.toNat).toNat 0 x.d.toNat }] })

/-- HOLDER of LEASE (R432). -/
def leaseHolder (w : DWord) : Nat := w.toNat / 2 ^ 59

/-- Whether the lease has lapsed at a count of LCYC (R432). -/
def leaseLapsed (w : DWord) (now : Nat) : Bool :=
  leaseHolder w == 31 || decide (0 ≤ toSigned 48 ((now + 2 ^ 48 - w.toNat % 2 ^ 48) % 2 ^ 48))

/-- LEASE of a core that takes or renews it: 8 ms (R431, R433). -/
def leaseWord (me now : Nat) : DWord := BitVec.ofNat 64 (me * 2 ^ 59 + (now + 14400000) % 2 ^ 48)

/-- `lease.cas` is performed at the lease, one step (R433), after everything that its core handed off before. -/
def State.performLease (s : State) (o : Op) (r : Req) (want d : Nat) : State :=
  if s.ops.any (fun p => p.ser == o.ser && decide (p.id < o.id)) then s
  else
    let pkg := pkgOfBundle o.bk
    let p := s.pkg pkg
    let me := (o.bk - fwBase) % 16
    let now := s.cycle % 2 ^ 48
    let ok := p.lease.toNat == want && (leaseLapsed p.lease now || leaseHolder p.lease == me)
    let w := if ok then leaseWord me now else p.lease
    (s.setPkg pkg { p with lease := w }).endReq o.id r.uid
      [{ t := 64, ws := [.s d w, .s (d + 1) (if ok then 1 else 0)] }]

/-- The target of `measure`: MEASn, or 16 + f for FMEASf (R436). -/
def measureTarget (x : Enc) : Nat :=
  let t := if x.form == .extended then x.w2.toNat / 2 ^ 16 else 0
  if t = 0 then x.d.toNat else 16 + t % 2 ^ 8

/-- `measure` at hand-off (R436); a length beyond 2^32 - 1 counts modulo 2^32 (log 28). -/
def execMeasure (x : Enc) (s : State) : Host.Outcome State Fault Refusal :=
  s.onFirmware (.measure x) x (fun bk b =>
    s.handOff bk b x { id := 0, bk := bk, ser := 0, cls := 12, opn := 0x11, flag := none, upc := 0, ex := b.active
                       reqs := [{ uid := 0, t := 64, stage := .home, addr := (b.sreg x.a.toNat).toNat, n := 1
                                  act := .sys 13 ((b.sreg x.b.toNat).toNat % 2 ^ 32) (measureTarget x) 0 }] })

/-- One byte that `measure` reads, or the trap and what it names (R429, R436). -/
def State.measuredByte (s : State) (o : Op) (a : Nat) : Except (Nat × Nat) Byte :=
  match s.fwFate o { uid := 0, t := 64, stage := .home, act := .ld 0 true, addr := a, n := 1 } .ld with
  | .go pa =>
    if sramPa ≤ pa then .ok ((s.sramRead o.bk (pa - sramPa) 1).headD 0)
    else match s.target none pa 1 with
      | .drop => .error (0x0E, pa)
      | .out => .error (0x05, a)
      | t => match s.fetchBytes t pa 1 with
        | .error e => .error (0x0F, e)
        | .ok l => .ok (l.headD 0)
  | .trap c => .error (c, a)
  | _ => .error (0x05, a)

/-- The bytes of a range, or its first fault. -/
def State.measuredBytes (s : State) (o : Op) (a n : Nat) : Except (Nat × Nat) (List Byte) :=
  match n with
  | 0 => .ok []
  | k + 1 => match s.measuredByte o a with
    | .error e => .error e
    | .ok b => match State.measuredBytes s o (a + 1) k with
      | .error e => .error e
      | .ok l => .ok (b :: l)

/-- The read of a byte for a measurement corrects the soft error that it meets (R221, R232). -/
def State.measureCorrects (s : State) (o : Op) (a : Nat) : State :=
  match s.fwFate o { uid := 0, t := 0, stage := .home, act := .prf, addr := a, n := 1 } .ld with
  | .go pa => if sramPa ≤ pa then s else s.correctAt (s.target none pa 1) pa 1
  | _ => s

/-- A measurement extended by bytes: T := SHA-384(T || SHA-384(bytes)); byte i of T stands in bits 8i on (R436). -/
def extendMeasure (t : BitVec 384) (l : List Byte) : BitVec 384 :=
  BitVec.ofNat 384 (natOfBytes (sha384 (bytesOfNat 48 t.toNat ++ sha384 l)))

/-- A package with a measurement register extended. -/
def Pkg.extend (p : Pkg) (n : Nat) (l : List Byte) : Pkg :=
  if n < 16 then { p with meas := FMap.write p.meas 0 n (extendMeasure (FMap.look p.meas 0 n) l) }
  else { p with fmeas := FMap.write p.fmeas 0 (n - 16) (extendMeasure (FMap.look p.fmeas 0 (n - 16)) l) }

/-- `measure` is performed (R436), after the writes that its core issued before: a fault leaves its target
unchanged. -/
def State.performMeasure (s : State) (o : Op) (r : Req) (n target : Nat) : State :=
  if s.unperformed o.ser o.id (widthMask 64) then s
  else match s.measuredBytes o r.addr n with
    | .error e => s.failReq o r e.1 (engineOf e.1) e.2
    | .ok l =>
      let s := (List.range n).foldl (fun s k => s.measureCorrects o (r.addr + k)) s
      (s.setPkg (pkgOfBundle o.bk) ((s.pkg (pkgOfBundle o.bk)).extend target l)).endReq o.id r.uid []

/-- `wfe` (R437): a mask of 0 traps 0x01; the core parks, and goes on at once when an event stands. -/
def execWfe (x : Enc) (s : State) : Host.Outcome State Fault Refusal :=
  s.onUnit (.wfe x) x (fun bk b =>
    let mask := b.sreg x.a.toNat
    if isFw bk = false ∨ mask = 0 then s.trapSync bk 0x01 0
    else
      let park (th : Thread) : Thread := { th with cond := .event x.d.toNat mask }
      let s := { s.setBundle bk ((b.advance (unitLen x)).mapThreads 1 park).choose with issuing := none }
      s.wakeEvent (pkgOfBundle bk) ((bk - fwBase) % 16))

/-! ### Events of firmware cores (R437, R438); a core is 16 * package + core -/

/-- Arithmetic cycles in 2 ms (R431). -/
def twoMs : Nat := 3600000

/-- Whether a core's timer has a 2 ms interval to count. -/
def State.timerDue (s : State) (core : Nat) : Bool :=
  (FMap.find s.pkgs (core / 16)).isSome && decide (FMap.look (s.pkg (core / 16)).timer 0 (core % 16) < s.cycle / twoMs)

/-- The packages whose ranks stand next to those of a package's own contexts in their groups (R434). -/
def State.nearPackages (s : State) (pkg : Nat) : List Nat :=
  ((s.ctxs.filter (fun e => pkgOfCtx e.1 == pkg)).flatMap (fun e => (List.range 64).flatMap (fun g =>
    match s.rankIn e.1 g with
    | none => []
    | some r =>
      let n := e.2.groupN g
      [e.2.member g ((r + 1) % n) % 64, e.2.member g ((r + n - 1) % n) % 64]))).dedup.filter (fun q => q != pkg)

/-- Whether a package's read of another's registers ends in a transfer error: that package is off, or no link leads out. -/
def State.unreachable (s : State) (pkg other : Nat) : Bool :=
  (FMap.find s.pkgs other).isNone || !((s.pkg pkg).links.any (fun e => e.2.inService))

/-- The leader's firmware reads the leases of the neighbours, which it does every 2 ms (R431, R434): the reads of each that have
failed one after another are counted. DESIGN CHOICE (log 99): it reads them at each timer of the core that holds the lease. -/
def State.readNeighbours (s : State) (pkg : Nat) : State :=
  let p := s.pkg pkg
  s.setPkg pkg { p with missed := (s.nearPackages pkg).foldl (fun m q =>
    FMap.put m q (if s.unreachable pkg q then min 2 (FMap.look m 0 q + 1) else 0)) p.missed }

/-- FW_TIMER (R437): every 2 ms the core's timer sets EVT bit 0, and the leader's firmware reads the neighbours' leases (R434). -/
def execFwTimer (core : Nat) (s : State) : Host.Outcome State Fault Refusal :=
  .next (
    if s.timerDue core then
      let p := s.pkg (core / 16)
      let s := (s.setPkg (core / 16) { p with timer := FMap.put p.timer (core % 16) (FMap.look p.timer 0 (core % 16) + 1) }).setEvt
        (core / 16) (core % 16) 1
      if leaseHolder p.lease = core % 16 then s.readNeighbours (core / 16) else s
    else s)

/-- DOOR (R437): an agent writes DOOR of a firmware core. -/
def execDoor (agent core : Nat) (s : State) : Host.Outcome State Fault Refusal :=
  .next (s.ringDoor (core / 16) agent (core % 16))

/-- EVT_CLEAR (R437): bits of EVT are cleared by a write of ones. -/
def execEvtClear (core mask : Nat) (s : State) : Host.Outcome State Fault Refusal :=
  .next (
    let p := s.pkg (core / 16)
    s.setPkg (core / 16) { p with
      evt := FMap.write p.evt 0 (core % 16) (FMap.look p.evt 0 (core % 16) &&& ~~~(BitVec.ofNat 64 mask)) })

/-- FWSTAT_RUN (R438): RUN is written 1 for a core. -/
def execFwstatRun (core : Nat) (s : State) : Host.Outcome State Fault Refusal :=
  .next (s.fwStart (core / 16) (core % 16))

/-! ### The lease watch (R434, R437) -/

/-- Whether a context is a neighbour of a package: its rank stands next to a rank that lists the package. -/
def State.neighbour (s : State) (pkg c : Nat) : Bool :=
  let x := s.ctx c
  (x.listing pkg).any (fun row =>
    let n := x.groupN row.1
    match s.rankIn c row.1 with
    | none => false
    | some me => me != row.2 && ((me + 1) % n == row.2 || (row.2 + 1) % n == me))

/-- The contexts whose group tables list a package and stand on a package that watches it, where some context is its
neighbour: the firmware of that package sets DN in every table of its own package (R434). -/
def State.watchers (s : State) (pkg : Nat) : List Nat :=
  let near := ((s.ctxs.map (fun e => e.1)).filter (s.neighbour pkg)).map pkgOfCtx
  (s.ctxs.filter (fun e => near.contains (pkgOfCtx e.1) && !(e.2.listing pkg).isEmpty)).map (fun e => e.1)

/-- A context tells every member of each group that lists a package that it is down (R375, R434). -/
def State.tellDown (s : State) (c pkg : Nat) : State :=
  let x := s.ctx c
  (((x.listing pkg).map (fun e => e.1)).dedup).foldl (fun s g =>
    (x.ranks g).foldl (fun s r => s.send 8 c (memberCtx (x.member g r)) g pkg r false false []) s) s

/-- Whether a package that is on has a lapsed lease. -/
def State.lapseSeen (s : State) (pkg : Nat) : Bool :=
  (FMap.find s.pkgs pkg).isSome && leaseLapsed (s.pkg pkg).lease (s.cycle % 2 ^ 48)

/-- The contexts of packages that take a package's lease for lapsed because two successive reads of it failed, and whose tables do
not have DN for it yet (R434). -/
def State.losers (s : State) (pkg : Nat) : List Nat :=
  (s.ctxs.filter (fun e => decide (2 ≤ FMap.look (s.pkg (pkgOfCtx e.1)).missed 0 pkg) &&
    (e.2.listing pkg).any (fun row => !e.2.down row.1 row.2))).map (fun e => e.1)

/-- LEASE_LAPSE (R434, R437): the hardware sees a package's lease lapsed and sets EVT bit 1 of its cores; the package's
neighbours in shard groups, which read it so or could not read it twice running, set DN for it in every table of theirs that lists
it and send DOWN to every member. -/
def execLeaseLapse (pkg : Nat) (s : State) : Host.Outcome State Fault Refusal :=
  .next (
    if s.lapseSeen pkg then
      let s := s.setEvtAll pkg 2
      (s.watchers pkg).foldl (fun s c => (s.markDown c pkg).tellDown c pkg) s
    else (s.losers pkg).foldl (fun s c => (s.markDown c pkg).tellDown c pkg) s)

/-! ### The owner cell (R442 to R444) -/

/-- The agent number of the owner cell's home, which performs a command that stands in OCTL. -/
def agentHome : Nat := 2 ^ 21

/-- A command of OCTL: an agent writes it, or the cell's home performs it once the writes of the package's firmware
cores before it are performed (R444: release order). -/
def State.octlEvent (s : State) (pkg agent cmd : Nat) : State :=
  let p := s.pkg pkg
  if agent = agentHome then
    (if p.octlBusy && p.octlCmd == cmd && !s.ops.any (fun o => isFw o.bk && pkgOfBundle o.bk == pkg &&
        decide (o.id < p.octlAt) && o.isData && o.reqs.any Req.writes) then s.octl pkg cmd else s)
  else s.mgmtWrite pkg agent 0x818 (BitVec.ofNat 64 cmd) 3

/-- OCTL_ARM (R444). -/
def execOctlArm (pkg agent : Nat) (s : State) : Host.Outcome State Fault Refusal := .next (s.octlEvent pkg agent 1)

/-- OCTL_RESET_FORCE (R444). -/
def execOctlResetForce (pkg agent : Nat) (s : State) : Host.Outcome State Fault Refusal := .next (s.octlEvent pkg agent 2)

/-- HANDO (R443): the owner names its successor. -/
def execHando (pkg agent value : Nat) (s : State) : Host.Outcome State Fault Refusal :=
  .next (s.mgmtWrite pkg agent 0x810 (BitVec.ofNat 64 value) (BitVec.ofNat 64 (2 ^ 64 - 1)))

/-! ### Snapshots and attestation (R441, R445) -/

/-- SNAPCTL_TRIG (R445). -/
def execSnapctlTrig (pkg agent : Nat) (s : State) : Host.Outcome State Fault Refusal :=
  .next (s.mgmtWrite pkg agent 0x1000 1 1)

/-- SNAPCTL_RELEASE (R445). -/
def execSnapctlRelease (pkg agent : Nat) (s : State) : Host.Outcome State Fault Refusal :=
  .next (s.mgmtWrite pkg agent 0x1000 2 2)

/-- SNAP_FABRIC_TRIGGER (R445). -/
def execSnapFabricTrigger (pkg : Nat) (s : State) : Host.Outcome State Fault Refusal := .next (s.snapTrigger pkg 2)

/-- GO (R441): a write of the GO word by any agent. -/
def execGo (pkg value : Nat) (s : State) : Host.Outcome State Fault Refusal :=
  .next (s.attest pkg (BitVec.ofNat 64 value))

/-! ### Power domains (R446, R447) -/

/-- PD_REQ_OFF (R447). -/
def execPdReqOff (pkg dom : Nat) (s : State) : Host.Outcome State Fault Refusal := .next (s.powerRequest pkg dom 0)
/-- PD_REQ_RETENTION (R447). -/
def execPdReqRetention (pkg dom : Nat) (s : State) : Host.Outcome State Fault Refusal :=
  .next (s.powerRequest pkg dom 1)
/-- PD_REQ_ON (R447). -/
def execPdReqOn (pkg dom : Nat) (s : State) : Host.Outcome State Fault Refusal := .next (s.powerRequest pkg dom 2)

/-- A tripped base die whose dies and stacks are off goes off itself. -/
def State.tripOn (s : State) (pkg base : Nat) : State :=
  let p := s.pkg pkg
  let x := p.domain base
  if x.tripped && (leavesOf base).all (fun l => (p.domain l).state == 0) then
    (s.setPkg pkg { p with pd := FMap.put p.pd base { x with tripped := false } }).powerRequest pkg base 0
  else s

/-- TRIP (R446): a snapshot, then the power-off order for the tripped domain: a base die's dies and stacks first. -/
def execTrip (pkg dom : Nat) (s : State) : Host.Outcome State Fault Refusal :=
  .next (
    let s := s.snapTrigger pkg 4
    if dom < 8 then
      let s := (leavesOf dom).foldl (fun s l => s.powerRequest pkg l 0) s
      let p := s.pkg pkg
      (s.setPkg pkg { p with pd := FMap.put p.pd dom { p.domain dom with tripped := true } }).tripOn pkg dom
    else s.powerRequest pkg dom 0)

/-- Whether a changing domain has waited for SETTLE. -/
def State.settleDue (s : State) (pkg dom : Nat) : Bool :=
  let x := (s.pkg pkg).domain dom
  x.state == 3 && decide (x.settle ≤ s.baseCycles x.since)

/-- SETTLE (R447): a changing power domain reaches the state requested of it. -/
def execSettle (pkg dom : Nat) (s : State) : Host.Outcome State Fault Refusal :=
  .next (
    if s.settleDue pkg dom then
      let p := s.pkg pkg
      let x := p.domain dom
      let s := s.setPkg pkg { p with pd := FMap.put p.pd dom { x with state := x.goal } }
      match baseOf dom with
      | none => s
      | some b => s.tripOn pkg b
    else s)

end Sys2Proof.Machine
end

