-- ==== Sys2Proof/Machine/Hardware.lean ====
section
/-! DEFINITION. What the hardware and the outside world do to a package: power-on (R439), memory and link training
(R448 to R450), the links' receivers and idle flits (R324 to R328), soft errors and scrubbing (R232, R405), and the
refill of the balances (R403). -/

namespace Sys2Proof.Machine

/-! ### Power-on (R427, R439) -/

/-- The bundle of a firmware core at power-on: core 0 runs the boot ROM at SRAM address 0, every other is halted. -/
def fwBundle (ser n : Nat) : Bundle :=
  { ser := ser, width := 1, allot := 0, thr := [(0, { cond := if n = 0 then .running else .halted })]
    active := if n = 0 then 1 else 0, fw := some n }

/-- The sixteen firmware cores of a package. -/
def State.placeFirmware (s : State) (pkg : Nat) : State :=
  (List.range 16).foldl (fun s n =>
    { s.setBundle (fwKey pkg n) (fwBundle s.nextSer n) with nextSer := s.nextSer + 1 }) s

/-- A package at power-on: core 0 runs and the others are halted (R439). -/
def Pkg.atPowerOn : Pkg := { fwstat := (List.range 16).map (fun n => (n, if n = 0 then 1 else 2)) }

/-- POWER_ON (R439): a package that is not on yet comes up with the boot ROM in core 0's SRAM. -/
def execPowerOn (pkg : Nat) (s : State) : Host.Outcome State Fault Refusal :=
  .next (
    if (FMap.find s.pkgs pkg).isSome then s
    else ((s.setPkg pkg Pkg.atPowerOn).placeFirmware pkg).sramWrite (fwKey pkg 0) 0 (Config.romImage.take 0x80000))

/-! ### Memory training (R449) -/

/-- MT_IEEE1500_RESET (R449). -/
def execMtIeee1500Reset (pkg stack : Nat) (s : State) : Host.Outcome State Fault Refusal := .next (s.mtPhase pkg stack 1)
/-- MT_IMPEDANCE_CAL (R449). -/
def execMtImpedanceCal (pkg stack : Nat) (s : State) : Host.Outcome State Fault Refusal := .next (s.mtPhase pkg stack 2)
/-- MT_CA_TRAINING (R449). -/
def execMtCaTraining (pkg stack : Nat) (s : State) : Host.Outcome State Fault Refusal := .next (s.mtPhase pkg stack 3)
/-- MT_READ_EYE (R449). -/
def execMtReadEye (pkg stack : Nat) (s : State) : Host.Outcome State Fault Refusal := .next (s.mtPhase pkg stack 4)
/-- MT_WRITE_EYE (R449). -/
def execMtWriteEye (pkg stack : Nat) (s : State) : Host.Outcome State Fault Refusal := .next (s.mtPhase pkg stack 5)
/-- MT_LANE_REPAIR (R449). -/
def execMtLaneRepair (pkg stack : Nat) (s : State) : Host.Outcome State Fault Refusal := .next (s.mtPhase pkg stack 6)
/-- MT_SCRUB_START (R449). -/
def execMtScrubStart (pkg stack : Nat) (s : State) : Host.Outcome State Fault Refusal := .next (s.mtPhase pkg stack 7)
/-- MT_REFRESH_ENABLE (R449). -/
def execMtRefreshEnable (pkg stack : Nat) (s : State) : Host.Outcome State Fault Refusal := .next (s.mtPhase pkg stack 8)

/-- Whether a failing phase leaves the stack failed: steps 4 and 5 go to lane repair first, once (R449). -/
def Stack.fails (x : Stack) : Bool := !((x.phase == 4 || x.phase == 5) && !x.repaired)

/-- A stack's training phase has ended (R448, R449). -/
def Stack.trained (x : Stack) (ok : Bool) (lane : Nat) : Stack :=
  if x.phase = 0 ∨ x.done = true ∨ x.fail = true then x
  else if ok then { x with done := true, inService := x.inService || (x.phase == 8 && !x.failed) }
  else { x with fail := true, lane := lane % 256, failed := x.failed || x.fails, inService := x.inService && !x.fails }

/-- MEMORY_TRAINING_DONE (R449): a phase ends well, or fails on a lane. -/
def execMemoryTrainingDone (pkg stack ok lane : Nat) (s : State) : Host.Outcome State Fault Refusal :=
  .next (
    let p := s.pkg pkg
    if (FMap.find p.hbm stack).isNone then s
    else s.setPkg pkg { p with hbm := FMap.put p.hbm stack ((FMap.look p.hbm {} stack).trained (ok != 0) lane) })

/-! ### Link training (R450) -/

/-- LT_RECEIVER_DETECT (R450). -/
def execLtReceiverDetect (pkg link : Nat) (s : State) : Host.Outcome State Fault Refusal := .next (s.ltPhase pkg link 1)
/-- LT_BIT_LOCK (R450). -/
def execLtBitLock (pkg link : Nat) (s : State) : Host.Outcome State Fault Refusal := .next (s.ltPhase pkg link 2)
/-- LT_FLIT_LOCK (R450). -/
def execLtFlitLock (pkg link : Nat) (s : State) : Host.Outcome State Fault Refusal := .next (s.ltPhase pkg link 3)
/-- LT_CREDIT_EXCHANGE (R450). -/
def execLtCreditExchange (pkg link : Nat) (s : State) : Host.Outcome State Fault Refusal := .next (s.ltPhase pkg link 4)
/-- LT_ACTIVE (R450). -/
def execLtActive (pkg link : Nat) (s : State) : Host.Outcome State Fault Refusal := .next (s.ltPhase pkg link 5)

/-- A link's training phase has ended (R450): a failure returns it to step 1 up to three times; a link that
recalibrates goes on from bit lock to flit lock and is active again. -/
def Link.trained (x : Link) (ok : Bool) : Link :=
  if x.phase = 0 ∨ x.done = true ∨ x.out = true then x
  else if ok then
    (if x.recal && x.phase == 2 then { x with phase := 3 }
     else if x.recal then { x with phase := 5, done := true, recal := false }
     else { x with done := true, fail := false, inService := x.inService || x.phase == 5 })
  else if x.tries < 3 then
    { x with fail := true, tries := x.tries + 1, phase := 1, inService := false, recal := false }
  else { x with fail := true, out := true, inService := false, recal := false }

/-- LINK_TRAINING_DONE (R450). -/
def execLinkTrainingDone (pkg link ok : Nat) (s : State) : Host.Outcome State Fault Refusal :=
  .next (
    let p := s.pkg pkg
    if (FMap.find p.links link).isNone then s
    else (s.setPkg pkg { p with links := FMap.put p.links link ((FMap.look p.links {} link).trained (ok != 0)) }).feedLinks pkg)

/-- LINK_RECALIBRATION (R405, R450): a link in service repeats steps 2 and 3, as many links per period and package as the budget
allows; its retry buffer holds its flits. -/
def execLinkRecalibration (pkg link : Nat) (s : State) : Host.Outcome State Fault Refusal :=
  .next (
    let p := s.pkg pkg
    let x := FMap.look p.links {} link
    if x.inService && !x.recal && decide (FMap.look p.used 0 useRecal < p.budget useRecal) then
      s.setPkg pkg { p with links := FMap.put p.links link { x with recal := true, phase := 2, done := false }
                            used := FMap.put p.used useRecal (FMap.look p.used 0 useRecal + 1) }
    else s)

/-! ### The link layer (R325 to R328); a link is 256 * package + link -/

/-- FLIT (R327): a flit is received whole on a link. -/
def execFlit (link kind vc fseq ack rvc rcnt rsnd crcOk body : Nat) (s : State) : Host.Outcome State Fault Refusal :=
  .next (
    let p := s.pkg (link / 256)
    let x := FMap.look p.links {} (link % 256)
    let y := x.receive kind vc fseq ack rvc rcnt rsnd (crcOk != 0) body
    (s.setPkg (link / 256) { p with links := FMap.put p.links (link % 256) { y with last := s.cycle } }).feedLinks (link / 256))

/-- Whether a link in service has carried no flit for 256 base-die cycles. -/
def State.linkIdle (s : State) (link : Nat) : Bool :=
  let x := FMap.look (s.pkg (link / 256)).links {} (link % 256)
  x.inService && !x.recal && decide (256 ≤ s.baseCycles x.last)

/-- IDLE_FLIT (R328). -/
def execIdleFlit (link : Nat) (s : State) : Host.Outcome State Fault Refusal :=
  .next (
    if s.linkIdle link then
      let p := s.pkg (link / 256)
      let x := FMap.look p.links {} (link % 256)
      let y := x.sendIdle
      s.setPkg (link / 256) { p with links := FMap.put p.links (link % 256) { y with last := s.cycle } }
    else s)

/-! ### Soft errors and scrubbing (R232, R405) -/

/-- SOFT_ERROR (R232): a word of the pool (space 0, by the frame key of a byte) or of memory (space 1, by a physical
address) is left with a correctable error, or with an uncorrectable one. -/
def execSoftError (space addr hard : Nat) (s : State) : Host.Outcome State Fault Refusal :=
  .next (
    let w := addr / 8 * 2 + space % 2
    let bytes := (List.range 8).map (fun j => (addr / 8 * 8 + j) * 2 + space % 2)
    if hard ≠ 0 then { s with poison := bytes.foldl (fun l e => l.insert e) s.poison, soft := s.soft.filter (fun e => e != w) }
    else if bytes.any s.poison.contains then s
    else { s with soft := s.soft.insert w })

/-- SCRUB (R405): the memory controller scrubs bytes of a stack, no more in a period than the budget allows, and corrects and
counts their soft errors (log 29: which bytes come next is not given). -/
def execScrub (pkg stack : Nat) (s : State) : Host.Outcome State Fault Refusal :=
  .next (
    let p := s.pkg pkg
    let x := FMap.look p.hbm {} stack
    let n := min (Config.scrubBytes s.tick) (p.budget useScrub - x.scrubbed)
    if x.inService then
      let here (e : Nat) : Bool := e % 2 == 1 && pkgOfPa (8 * (e / 2)) == pkg && localOfPa (8 * (e / 2)) / 2 ^ 36 == stack &&
        decide ((8 * (e / 2) + 2 ^ 36 - Config.scrubFrom s.tick % 2 ^ 36) % 2 ^ 36 < n)
      { s.setPkg pkg { p with hbm := FMap.put p.hbm stack { x with
          scrubbed := x.scrubbed + n, corrected := x.corrected + (s.soft.filter here).length } } with
        soft := s.soft.filter (fun e => !here e) }
    else s)

/-! ### The period (R403, R405) -/

/-- A balance at a period boundary: BAL := min(BAL, BUD) + BUD. -/
def refill (bud : Nat) (bal : Int) : Int := min bal bud + bud

/-- A function's balances at a period boundary; a budget of all ones limits nothing. -/
def Fn.refill (f : Fn) : Fn :=
  (List.range 4).foldl (fun f k =>
    let b := FMap.look f.bud 0xFFFFFFFF k
    if b = 0xFFFFFFFF then f
    else { f with bal := FMap.write f.bal 0 k (Sys2Proof.Machine.refill b (FMap.look f.bal 0 k)) }) f

/-- Arithmetic cycles of a period (R403). -/
def periodCycles : Nat := 18000

/-- Whether a period boundary of a package has passed whose refill is still to come. -/
def State.periodDue (s : State) (pkg : Nat) : Bool :=
  (FMap.find s.pkgs pkg).isSome && decide ((s.pkg pkg).period < s.cycle / periodCycles)

/-- A held snapshot's images are read out under their budget (R445): as many bytes in a period as it allows. -/
def Pkg.readOut (p : Pkg) : Pkg :=
  if p.snap.getLsbD 1 then { p with snapRead := min Config.snapshotBytes (p.snapRead + p.budget useReadout) } else p

/-- QOS_PERIOD (R403, R405): at a period boundary every balance of the package is refilled, and the internal budgets
start anew. -/
def execQosPeriod (pkg : Nat) (s : State) : Host.Outcome State Fault Refusal :=
  .next (
    if s.periodDue pkg then
      let p := s.pkg pkg
      let s := s.setPkg pkg { p.readOut with
        period := p.period + 1
        used := []
        hbm := p.hbm.map (fun e => (e.1, { e.2 with scrubbed := 0 })) }
      { s with fns := s.fns.map (fun e => if pkgOfCtx e.1 = pkg then (e.1, e.2.refill) else e) }
    else s)

end Sys2Proof.Machine
end

