-- ==== Sys2Proof/Machine/Launch.lean ====
section
/-! DEFINITION. Launches (R22, R58, R68, R69, R82, R83, R344, R394 to R400): the checks of the record and the kernel
header, the completion record, the block distributor and `fetchwk`. -/

namespace Sys2Proof.Machine

/-! ### The record and the header (R394, R395) -/

/-- Record word k. -/
def Launch.word (x : Launch) (k : Nat) : Nat := (FMap.look x.lr 0 k).toNat
/-- Header word k. -/
def Launch.head (x : Launch) (k : Nat) : Nat := (FMap.look x.kh 0 k).toNat
/-- Threads of a block. -/
def Launch.threads (x : Launch) : Nat := x.word 3 % 2 ^ 16 * (x.word 3 / 2 ^ 16 % 2 ^ 16) * (x.word 3 / 2 ^ 32 % 2 ^ 16)
/-- Bundle width. -/
def Launch.width (x : Launch) : Nat := 16 * 2 ^ (x.word 4 % 4)
/-- Allotment A. -/
def Launch.allot (x : Launch) : Nat := x.word 4 / 2 ^ 8 % 64 * 8
/-- Divergence depth D. -/
def Launch.depth (x : Launch) : Nat := x.word 4 / 2 ^ 16 % 32
/-- SPAN. -/
def Launch.span (x : Launch) : Bool := x.word 4 / 2 ^ 24 % 2 == 1
/-- Bundle priority. -/
def Launch.prio (x : Launch) : Nat := x.word 4 / 2 ^ 25 % 4
/-- Placement class. -/
def Launch.qos (x : Launch) : Nat := x.word 4 / 2 ^ 28 % 16
/-- The partition word. -/
def Launch.part (x : Launch) : Nat := x.word 4 / 2 ^ 32
/-- A count of record word 5: n bits from lo. -/
def Launch.count (x : Launch) (lo n : Nat) : Nat := x.word 5 / 2 ^ lo % 2 ^ n
/-- Core sets and barriers per block. -/
def Launch.coreCounts (x : Launch) : Nat × Nat := (x.count 8 9, x.count 0 8)
/-- Chiplet sets and barriers per block. -/
def Launch.chipCounts (x : Launch) : Nat × Nat := (x.count 27 10, x.count 17 10)
/-- Package sets and barriers per launch. -/
def Launch.pkgCounts (x : Launch) : Nat × Nat := (x.count 46 9, x.count 37 9)
/-- Bundles of a block (R62). -/
def Launch.bundles (x : Launch) : Nat := (x.threads + x.width - 1) / x.width
/-- Threads of each bundle of a block (R62). -/
def Launch.sizes (x : Launch) : List Nat :=
  (List.range x.bundles).map (fun j => min x.width (x.threads - j * x.width))

/-- Whether a partition word breaks R21 or R22. -/
def partBad (w : Nat) : Bool :=
  let rfg := w % 128
  let spg := w / 2 ^ 8 % 128
  let acg := w / 2 ^ 16 % 128
  w / 2 ^ 23 != 0 || w / 2 ^ 7 % 2 == 1 || w / 2 ^ 15 % 2 == 1 || rfg == 0 || acg % 3 != 0 || decide (36 < acg) ||
    decide (64 < rfg + spg + acg)

/-- Whether word 4 breaks R22, R58 or R394. -/
def Launch.word4Bad (x : Launch) : Bool :=
  let w := x.word 4
  w % 4 == 3 || w / 2 ^ 2 % 2 ^ 6 != 0 || w / 2 ^ 14 % 4 != 0 || w / 2 ^ 21 % 8 != 0 || w / 2 ^ 27 % 2 == 1 ||
    decide (x.allot < 16) || decide (256 < x.allot) || decide (16 < x.depth) || decide (x.allot < x.depth + 8) ||
    partBad x.part || decide (x.part % 128 * 65536 < x.threads * x.allot * 4)

/-- Whether word 5 breaks R394. -/
def Launch.word5Bad (x : Launch) : Bool :=
  x.word 5 / 2 ^ 55 != 0 || decide (255 < x.pkgCounts.1) || decide (256 < x.pkgCounts.2) ||
    decide (512 < x.chipCounts.1) || decide (512 < x.chipCounts.2) || decide (256 < x.coreCounts.1) ||
    decide (128 < x.coreCounts.2) || x.coreCounts.1 == 0 || x.coreCounts.2 == 0 ||
    (x.span && (x.chipCounts.1 == 0 || x.chipCounts.2 == 0))

/-- The failing words of a collective binding (R343, R344). -/
def State.bindingFaults (s : State) (x : Launch) : List Nat :=
  let c3 := x.col 3
  let n := (s.ctx x.ctx).groupN x.collGroup
  let bad (b : Bool) (k : Nat) : List Nat := if b then [k] else []
  if x.collOp = 0 then
    bad (x.col 0 / 2 ^ 56 % 2 == 1 || decide (4 < x.collElem) || decide (23 < x.col 0 / 2 ^ 36 % 64)) 8 ++ bad (x.col 1 != 0) 9 ++ bad (x.col 2 != 0) 10 ++
      bad (c3 != 0) 11
  else
    bad (decide (5 < x.collOp) || decide (4 < x.collElem) || x.col 0 / 2 ^ 56 % 2 == 1 ||
      decide (23 < x.col 0 / 2 ^ 36 % 64) || (s.rankIn x.ctx x.collGroup).isNone ||
      (decide (x.collOp ≤ 2) && (!x.resultTid.valid || x.resultTid.lay == 1 || x.collBytes % elemSize x.collElem != 0)) ||
      (x.collOp == 4 && x.collBytes % (16 * n) != 0) || (x.collOp == 5 && x.chunks != 1)) 8 ++
    bad (x.collSrc % 256 != 0) 9 ++ bad (x.collDst % 256 != 0) 10 ++
    bad (c3 / 2 ^ 16 != 0 || c3 / 2 ^ 10 % 4 != 0 ||
      (x.collOp == 5 && (x.collJd == x.collSd || decide (s.coresOf (partOfCtx x.ctx) ≤ c3 % 2 ^ 10)))) 11

/-- The failing words of a record that no header is needed for (R396). -/
def State.recordFaults (s : State) (x : Launch) : List Nat :=
  let bad (b : Bool) (k : Nat) : List Nat := if b then [k] else []
  bad (x.word 0 % 64 != 0) 0 ++ bad (x.word 1 / 2 ^ 32 != 0) 1 ++ bad (x.blocks == 0) 2 ++
    bad (x.word 3 / 2 ^ 48 != 0 || x.threads == 0 || decide (4096 < x.threads)) 3 ++ bad x.word4Bad 4 ++
    bad x.word5Bad 5 ++ s.bindingFaults x ++
    bad (x.word 13 != 0) 13 ++ bad (x.word 14 != 0) 14 ++ bad (x.word 15 != 0) 15

/-- A repeated identifier number, or an entry that is not valid. -/
def tidsBad (l : List (Nat × BitVec 128)) : Bool :=
  l.any (fun e => !(tidOf e.2).valid) || (l.map (fun e => e.1)).dedup.length != l.length

/-- The failing words that the header shows (R396). -/
def Launch.headerFaults (x : Launch) (recordBad : Bool) : List Nat :=
  let bad (b : Bool) (k : Nat) : List Nat := if b then [k] else []
  let clen := x.head 2 % 2 ^ 32
  let vec := x.head 1 % 2 ^ 32
  let h := x.head 0
  let same (w v : Nat) : Bool :=
    w / 2 ^ 32 == v / 2 ^ 32 && w / 2 ^ 16 % 32 == v / 2 ^ 16 % 32 && w / 2 ^ 8 % 64 == v / 2 ^ 8 % 64 && w % 4 == v % 4
  bad (!same (x.word 4) h) 4 ++ bad (decide (clen ≤ x.word 1 % 2 ^ 32)) 1 ++
    bad (h / 2 ^ 21 % 2 ^ 11 != 0 || h / 2 ^ 14 % 4 != 0 || h / 2 ^ 2 % 2 ^ 6 != 0) 16 ++
    bad (x.head 1 / 2 ^ 34 != 0 || (vec != 0xFFFFFFFF && decide (clen ≤ vec))) 17 ++
    bad (x.head 2 / 2 ^ 32 != 0) 18 ++ bad (x.head 3 / 2 ^ 9 != 0 || decide (256 < x.head 3 % 2 ^ 9)) 19 ++
    ([4, 5, 6, 7].filter (fun k => x.head k != 0)).map (fun k => 16 + k) ++
    bad (recordBad || tidsBad x.tids) 32

/-! ### Reading the header -/

/-- What reading bytes of a function's context for the Shawm gives. -/
inductive Bytes where
  | ok (l : List Byte) (s : State)
  | held (s : State)
  | fault (code : Nat)

/-- The Shawm reads the pieces of a range, correcting soft errors (R221); code 7 is an uncorrectable error (R386). -/
def State.shawmPieces (s : State) (c va : Nat) (l : List (Nat × Nat)) : Bytes :=
  match l with
  | [] => .ok [] s
  | (o, n) :: r =>
    match s.shawmReach c (va + o) .ld n with
    | .held s => .held s
    | .fault => .fault 3
    | .ok pa s =>
      if (s.memBad pa n).isSome then .fault 7
      else match s.shawmPieces c va r with
        | .ok m t => .ok (s.memRead pa n ++ m) ((t.correctMem pa n).charge c 1 (Config.hbmUnits s.tick))
        | e => e

/-- The Shawm reads n bytes at a virtual address. -/
def State.shawmBytes (s : State) (c va n : Nat) : Bytes := s.shawmPieces c va (pieces (n / 4096 + 2) va 0 n)

/-- An 8-byte word of a list of bytes. -/
def wordOf (l : List Byte) (k : Nat) : DWord := BitVec.ofNat 64 (natOfBytes ((l.drop (8 * k)).take 8))

/-- A launch with its header's words. -/
def Launch.withHeader (x : Launch) (l : List Byte) : Launch :=
  { x with kh := (List.range 8).map (fun k => (k, wordOf l k)) }

/-- The identifier records of a header; whether one of them has a reserved bit set (R395). -/
def tidRecords (l : List Byte) (n : Nat) : List (Nat × BitVec 128) × Bool :=
  let one (i : Nat) : List Byte := (l.drop (24 * i)).take 24
  ((List.range n).map (fun i => (natOfBytes ((one i).take 1), BitVec.ofNat 128 (natOfBytes ((one i).drop 8)))),
    (List.range n).any (fun i => natOfBytes (((one i).drop 1).take 7) != 0))

/-- A launch with header and records read: it, whether a record has a reserved bit, and whether both were readable;
`held` waits for a shard page. -/
def State.readHeader (s : State) (x : Launch) : Except State (Launch × Bool × Bool × State) :=
  if x.word 0 % 64 ≠ 0 then .ok (x, false, false, s)
  else match s.shawmBytes x.ctx (x.word 0) 64 with
    | .held s => .error s
    | .fault _ => .ok (x, false, false, s)
    | .ok l s =>
      let y := x.withHeader l
      let n := y.head 3 % 2 ^ 9
      if 256 < n ∨ n = 0 then .ok (y, false, true, s)
      else match s.shawmBytes x.ctx (x.word 0 + 64) (24 * n) with
        | .held s => .error s
        | .fault _ => .ok (y, false, false, s)
        | .ok m s => let r := tidRecords m n
          .ok ({ y with tids := r.1 }, r.2, true, s)

/-! ### Beginning and completing (R396, R397) -/

/-- The four words of a completion record (R397). -/
def Launch.completion (x : Launch) : List Byte :=
  let trap := x.status == 3
  bytesOfNat 8 ((if trap then x.core * 2 ^ 32 else 0) + x.detail % 256 * 2 ^ 8 + x.status) ++ bytesOfNat 8 (x.word 12) ++
    bytesOfNat 8 (if trap then x.s60.toNat else 0) ++ bytesOfNat 8 (if trap then x.s63.toNat else 0)

/-- Write a completion record at CPTR; a fault stops the queue (R386). -/
def State.writeCompletion (s : State) (x : Launch) : Except State State :=
  if x.word 7 = 0 then .ok s
  else match s.shawmReach x.ctx (x.word 7) .st 32 with
    | .held s => .error s
    | .fault => .ok (s.queueError x.ctx x.q 3 x.eoff)
    | .ok pa s => .ok ((s.memWrite pa x.completion).charge x.ctx 1 (Config.hbmUnits s.tick))

/-- A launch that is not rejected joins its queue's open ones; its place in the order of its group entry's collectives
counts those before it (R351). -/
def State.takeIn (s : State) (x : Launch) : State :=
  let seq := (s.launches.filter (fun e => e.2.ctx == x.ctx && e.2.collOp != 0 && e.2.collGroup == x.collGroup)).length
  let y := { x with collSeq := seq
                    codeBase := x.word 0 + (64 + 24 * (x.head 3 % 2 ^ 9) + 63) / 64 * 64 }
  let s := { s with nextId := s.nextId + 1 }.setLaunch s.nextId y
  let z := (s.fn x.ctx).queue x.q
  s.setQueue x.ctx x.q { z with open_ := z.open_ ++ [s.nextId - 1] }

/-- A LAUNCH begins (R394, R396): it is admitted, rejected with a completion record, or stops its queue where none can
be written; the error is the state in which it waits for a shard page. -/
def State.beginLaunch (s : State) (c q eoff : Nat) (ws : List DWord) : Except State State :=
  let x : Launch := { ctx := c, q := q, eoff := eoff, lr := ws.zipIdx.map (fun (e : DWord × Nat) => (e.2, e.1)) }
  let cptr := x.word 7
  if cptr % 32 ≠ 0 then .ok (s.queueError c q 2 eoff)
  else
    let reach : Reach := if cptr = 0 then .ok 0 s else s.shawmReach c cptr .st 32
    match reach with
    | .held s => .error s
    | .fault => .ok (s.queueError c q 3 eoff)
    | .ok _ s =>
      match s.readHeader x with
      | .error s => .error s
      | .ok (x, recordBad, readable, s) =>
        let faults := s.recordFaults x ++ (if readable then x.headerFaults recordBad else [0])
        if faults = [] then .ok (s.takeIn x)
        else s.writeCompletion { x with status := 2, detail := faults.foldl min 255 }

/-- Whether an engine entry of a launch has not completed (R223, R397). -/
def Core.engineBusy (c : Core) (lid : Nat) : Bool :=
  (c.mq ++ c.loop.toList ++ c.port.toList).any (fun e => e.launch == lid) ||
    (c.sq ++ c.sgo.toList).any (fun g => g.launch == lid)

/-- Whether work of a launch is not performed yet (R397): every write of it happens before its record. -/
def State.launchBusy (s : State) (lid : Nat) : Bool :=
  s.cores.any (fun e => ctxOfCore e.1 == (s.launch lid).ctx && e.2.engineBusy lid) ||
  s.ops.any (fun o => o.launch == lid && !isFw o.bk && (o.cls == 7 || o.cls == 11 || o.reqs.any Req.writes))

/-- Whether a launch may complete (R397). -/
def State.launchOver (s : State) (lid : Nat) : Bool :=
  let x := s.launch lid
  !x.complete && x.word 4 != 0 && x.live.isEmpty && x.drawn.isEmpty && (x.killed || decide (x.blocks ≤ x.next)) &&
    !(s.bundles.any (fun e => e.2.launch == lid && e.2.fw.isNone)) && !s.launchBusy lid &&
    (x.collOp == 0 || x.killed || (List.range x.chunks).all x.landed.contains)

/-- LAUNCH_COMPLETE (R397). -/
def execLaunchComplete (lid : Nat) (s : State) : Host.Outcome State Fault Refusal :=
  .next (
    if s.launchOver lid then
      match s.writeCompletion (s.launch lid) with
      | .error s => s
      | .ok s =>
        let s := s.setLaunch lid { s.launch lid with complete := true }
        let x := s.launch lid
        let z := (s.fn x.ctx).queue x.q
        s.setQueue x.ctx x.q { z with open_ := z.open_.filter (fun l => l != lid) }
    else s)

/-! ### The distributor (R68, R69, R398, R399) -/

/-- The bundles resident on a core. -/
def State.residents (s : State) (ck : Nat) : List (Nat × Bundle) :=
  s.bundles.filter (fun e => !isFw e.1 && coreOfBundle e.1 == ck)

/-- Whether a core may hold blocks of a launch beside its residents (R399). -/
def State.coreFit (s : State) (x : Launch) (ck : Nat) : Bool :=
  let others := ((s.residents ck).map (fun e => e.2.launch)).dedup.map s.launch
  others.isEmpty || ((s.core ck).part.toNat == x.part &&
    others.all (fun o => o.tids.all (fun e => x.tids.all (fun f => f.1 != e.1 || f.2 == e.2))))

/-- The lane and slot for one more bundle: the lane with the fewest, the lowest of them, and its lowest free slot. -/
def pickSlot (used : List Nat) : Option Nat :=
  let load (l : Nat) : Nat := (used.filter (fun u => u / 8 == l)).length
  let lane := (List.range 64).foldl (fun best l => if load l < load best then l else best) 0
  ((List.range 8).find? (fun k => !used.contains (lane * 8 + k))).map (fun k => lane * 8 + k)

/-- Slots for n bundles, in order. -/
def pickSlots (n : Nat) (used : List Nat) : Option (List Nat) :=
  match n with
  | 0 => some []
  | m + 1 => match pickSlot used with
    | none => none
    | some u => (pickSlots m (u :: used)).map (fun l => u :: l)

/-- Live blocks of a context with their launches. -/
def State.liveBlocks (s : State) (c : Nat) : List (Launch × Block) :=
  (s.launches.filter (fun e => e.2.ctx == c)).flatMap (fun e => e.2.live.map (fun k => (e.2, k.2)))

/-- Sums of two counts. -/
def sumCounts (l : List (Nat × Nat)) : Nat × Nat := l.foldl (fun a b => (a.1 + b.1, a.2 + b.2)) (0, 0)

/-- Whether counts fit. -/
def countsFit (used more : Nat × Nat) (sets bars : Nat) : Bool :=
  decide (used.1 + more.1 ≤ sets) && decide (used.2 + more.2 ≤ bars)

/-- Slots on a core for bundles of given sizes, when it has room for them (R68). -/
def State.roomOn (s : State) (x : Launch) (ck : Nat) (sizes : List Nat) : Option (List Nat) :=
  let res := s.residents ck
  let threads : Nat := res.foldl (fun (n : Nat) (e : Nat × Bundle) => n + e.2.thr.length) 0
  let regs : Nat := res.foldl (fun (n : Nat) (e : Nat × Bundle) => n + e.2.thr.length * e.2.allot) 0
  let more : Nat := sizes.foldl (fun a b => a + b) 0
  let used := sumCounts (((s.liveBlocks x.ctx).filter (fun k => k.2.cores.contains ck)).map (fun k => k.1.coreCounts))
  if s.coreFit x ck && decide (threads + more ≤ 8192) && decide ((regs + more * x.allot) * 4 ≤ x.part % 128 * 65536) &&
      countsFit used x.coreCounts 256 128 then
    pickSlots sizes.length (res.map (fun e => e.1 % 512))
  else none

/-- Whether the package can hold the launch's declared sets and barriers, the grid set among them (R82, R394). -/
def State.packageRoom (s : State) (x : Launch) : Bool :=
  x.gridSet.isSome ||
    countsFit (sumCounts ((s.launches.filter (fun e => e.2.ctx == x.ctx && e.2.gridSet.isSome && !e.2.complete)).map
      (fun e => (e.2.pkgCounts.1 + 1, e.2.pkgCounts.2)))) (x.pkgCounts.1 + 1, x.pkgCounts.2) 256 256

/-- The most bundles of a list that a core has room for. -/
def State.fill (s : State) (x : Launch) (ck : Nat) (sizes : List Nat) : List Nat :=
  match ((List.range (sizes.length + 1)).reverse.findSome? (fun n => s.roomOn x ck (sizes.take n))) with
  | none => []
  | some l => l

/-- Bundle keys for a block across cores: each takes what it has room for (R69). -/
def State.fillCores (s : State) (x : Launch) (cores sizes : List Nat) : List Nat :=
  match cores with
  | [] => []
  | ck :: r =>
    let l := s.fill x ck sizes
    l.map (fun u => ck * 512 + u) ++ s.fillCores x r (sizes.drop l.length)

/-- The cores of a context. -/
def State.coreKeys (s : State) (c : Nat) : List Nat := (List.range (s.coresOf (partOfCtx c))).map (fun n => c * 1024 + n)

/-- Whether some core can hold a block whole. -/
def State.someCore (s : State) (x : Launch) : Bool := (s.coreKeys x.ctx).any (fun ck => (s.roomOn x ck x.sizes).isSome)

/-- The bundle keys of a block across the cores of a chiplet, when 2 to 8 of them hold it (R69). -/
def State.spanPlan (s : State) (x : Launch) (chip : Nat) : Option (List Nat) :=
  let cores := (s.coreKeys x.ctx).filter (fun ck => s.chipletOf ck == chip)
  let used := sumCounts (((s.liveBlocks x.ctx).filter (fun k => k.2.lvl == 2 &&
    k.2.cores.any (fun ck => s.chipletOf ck == chip))).map (fun k => k.1.chipCounts))
  let l := s.fillCores x cores x.sizes
  let n := (l.map coreOfBundle).dedup.length
  if l.length = x.bundles ∧ 2 ≤ n ∧ n ≤ 8 ∧ countsFit used x.chipCounts 512 512 = true then some l else none

/-- The bundle keys for a block when the distributor tries a core. -/
def State.planAt (s : State) (x : Launch) (core : Nat) : Option (List Nat) :=
  let ck := x.ctx * 1024 + core
  if !s.packageRoom x then none
  else match s.roomOn x ck x.sizes with
    | some l => some (l.map (fun u => ck * 512 + u))
    | none => if x.span && !s.someCore x then s.spanPlan x (s.chipletOf ck) else none

/-- The highest index of a level that is neither an initial nor an allocated set (R203). -/
def State.topSet (s : State) (ck lvl : Nat) : Nat :=
  ((List.range (setLimit lvl)).reverse.find? (fun n =>
    let r := s.setRec (s.keyFor ck lvl n)
    !r.initial && !r.alloc)).getD 0

/-- The highest index of a level that is no block's barrier (R203). DESIGN CHOICE (log 103): one that a program has bound, or
that holds arrivals, is taken too. -/
def State.topBar (s : State) (ck lvl : Nat) : Nat :=
  ((List.range (barLimit lvl)).reverse.find? (fun n => !s.isBlockBar (s.keyFor ck lvl n))).getD 0

/-- A core takes a launch's partition word (R399). Where the register file gives bytes up, they hold what the registers of earlier
bundles left there, in no layout: free bytes (R453; log 90). -/
def State.partitionTo (s : State) (ck part : Nat) : State :=
  let old := s.core ck
  let c := { old with part := BitVec.ofNat 64 part }
  let s := s.setCore ck (if c.part = old.part then c else { c with stale := [] })
  if c.rfg < old.rfg then
    s.frameFill ck (c.rfg * 65536) ((List.range ((old.rfg - c.rfg) * 65536)).map (fun k => s.freeByteAt (0x40000000 + k)))
  else s

/-- A bundle that is placed has observed what the engines of its core have completed on phases that are over (DEDUCED, log 55). -/
def Core.welcomes (c : Core) (ser : Nat) : Core :=
  { c with unseen := c.unseen.map (fun u => if u.ended then { u with seen := u.seen.insert ser } else u) }

/-- The tables of a core as the first block of a launch is placed on it (R154, R281, R399). -/
def State.prepareCore (s : State) (lid ck : Nat) : State :=
  let x := s.launch lid
  let empty := (s.residents ck).isEmpty
  let s := if empty then s.partitionTo ck x.part else s
  let c := s.core ck
  if x.seen.contains ck then s.setCore ck c
  else
    let c := if empty then { c with tid := [], desc := [] } else c
    (s.setCore ck { c with tid := x.tids.foldl (fun m e => FMap.write m 0 e.1 e.2) c.tid }).setLaunch lid
      { x with seen := ck :: x.seen }

/-- A bundle as it starts (R61, R83). -/
def Launch.newBundle (x : Launch) (lid ser bk blk bno size handles : Nat) : Bundle :=
  let regs := [BitVec.ofNat 64 (x.word 6), BitVec.ofNat 64 (handles + bk % 512),
    BitVec.ofNat 64 (x.bundles * 2 ^ 48 + bno * 2 ^ 32 + blk % 2 ^ 32)]
  let b : Bundle :=
    { ser := ser, launch := lid, width := x.width, allot := x.allot, dmax := x.depth, prio := x.prio
      thr := (List.range size).map (fun t => (t, { pc := BitVec.ofNat 32 (x.word 1), cond := .running }))
      blk := blk, bno := bno, nb := x.bundles }
  (regs.zipIdx.foldl (fun (b : Bundle) (e : DWord × Nat) => b.setSreg e.2 e.1) b).choose

/-- A launch's grid set, taken when its first block is placed (R82). -/
def State.takeGrid (s : State) (lid ck : Nat) : State :=
  let x := s.launch lid
  if x.gridSet.isSome then s
  else
    let key := s.keyFor ck 3 (s.topSet ck 3)
    (s.putSet key { initial := true }).setLaunch lid { x with gridSet := some key }

/-- A block is placed: its sets, its barrier and its bundles (R68, R69, R82, R83). DESIGN CHOICE (log 103): the block's barrier starts
afresh, whatever a program had bound it to. -/
def State.placeBlock (s : State) (lid : Nat) (keys : List Nat) : State :=
  let cores := (keys.map coreOfBundle).dedup
  let first := cores.headD 0
  let s := s.takeGrid lid first
  let s := cores.foldl (fun s ck => s.prepareCore lid ck) s
  let x := s.launch lid
  let lvl := if cores.length = 1 then 1 else 2
  let si := s.topSet first lvl
  let bi := s.topBar first lvl
  let sk := s.keyFor first lvl si
  let bkey := s.keyFor first lvl bi
  let grid := x.gridSet.getD 0
  let handles := (lvl * 2 ^ 14 + bi) * 2 ^ 48 + (3 * 2 ^ 14 + grid % 512) * 2 ^ 32 + (lvl * 2 ^ 14 + si) * 2 ^ 16
  let names := (keys.zip x.sizes).zipIdx.flatMap (fun (e : (Nat × Nat) × Nat) =>
    (List.range e.1.2).map (fun t => threadNo (s.nextSer + e.2) t))
  let bundles := (keys.zip x.sizes).zipIdx.map (fun (e : (Nat × Nat) × Nat) =>
    (e.1.1, x.newBundle lid (s.nextSer + e.2) e.1.1 x.next e.2 e.1.2 handles))
  let block : Block := { left := keys.length, cores := cores, lvl := lvl, set := sk, bar := bkey }
  let s := (s.putSet sk { members := names, initial := true }).putBar bkey { bound := some (lvl * 2 ^ 14 + si, sk) }
  let s := s.putSet grid { s.setRec grid with members := (s.setRec grid).members ++ names }
  let s := { s with nextSer := s.nextSer + keys.length
                    bundles := bundles.foldl (fun (m : FMap Bundle) (e : Nat × Bundle) => FMap.put m e.1 e.2) s.bundles }
  let s := bundles.foldl (fun (s : State) (e : Nat × Bundle) => s.setCore (coreOfBundle e.1) ((s.core (coreOfBundle e.1)).welcomes e.2.ser)) s
  s.setLaunch lid { x with next := x.next + 1, waiting := false, live := FMap.put x.live x.next block }

/-- Whether a launch has a block left to place. -/
def Launch.hasBlock (x : Launch) : Bool := !x.killed && !x.complete && decide (x.next < x.blocks)

/-- The launch whose block the distributor takes next in a context (R68, R398): a waiting one, else the first of the
highest class. -/
def State.nextLaunch (s : State) (c : Nat) : Option Nat :=
  let l := s.launches.filter (fun e => e.2.ctx == c && e.2.hasBlock)
  match l.find? (fun e => e.2.waiting) with
  | some e => some e.1
  | none =>
    let top := l.foldl (fun n e => max n e.2.qos) 0
    (l.find? (fun e => e.2.qos == top)).map (fun e => e.1)

/-- Whether some core of a context can take the next block of a launch. -/
def State.anyPlan (s : State) (x : Launch) : Bool :=
  (List.range (s.coresOf (partOfCtx x.ctx))).any (fun n => (s.planAt x n).isSome)

/-- BLOCK_PLACEMENT (R68): the distributor places the block whose turn it is on a core that holds it, or lets it wait
when none does. -/
def execBlockPlacement (lid core : Nat) (s : State) : Host.Outcome State Fault Refusal :=
  .next (
    let x := s.launch lid
    if !(s.ctx x.ctx).running || s.nextLaunch x.ctx != some lid || decide (s.coresOf (partOfCtx x.ctx) ≤ core) then s
    else match s.planAt x core with
      | some keys => s.placeBlock lid keys
      | none => if s.anyPlan x then s else s.setLaunch lid { x with waiting := true })

/-! ### `fetchwk` (R400) -/

/-- Withdrawn blocks end: those that a block claimed. -/
def State.endClaims (s : State) (lid blk : Nat) : State :=
  let x := s.launch lid
  match FMap.find x.live blk with
  | none => s
  | some k => s.setLaunch lid { x with
      live := FMap.put x.live blk { k with claims := [] }
      ended := k.claims.foldl (fun m w => FMap.put m w true) x.ended
      drawn := x.drawn.filter (fun d => !k.claims.contains d) }

/-- `fetchwk` (R400). -/
def execFetchwk (x : Enc) (s : State) : Host.Outcome State Fault Refusal :=
  s.onMemory (.fetchwk x) x (fun bk b =>
    let ck := coreOfBundle bk
    let m := (b.sreg x.a.toNat).toNat
    if m % 16 ≠ 0 then s.trapSync bk 0x03 m
    else if !s.inSp ck m 16 then s.trapSync bk 0x05 m
    else
      let s := s.setCore ck ((s.core ck).setTags (m / 256) (m / 256) true false false)
      let s := s.endClaims b.launch b.blk
      s.handOff bk b x { id := 0, bk := bk, ser := 0, cls := 11, opn := 9, flag := none, upc := 0, ex := b.active
                         early := true, fin := .setV ck (m / 256) (m / 256)
                         reqs := [{ uid := 0, t := 64, stage := .home, addr := m, n := 16
                                    act := .sys 11 b.blk 0 0 }] })

/-- Block k of a grid: its index and its coordinates (R400). -/
def Launch.mailbox (x : Launch) (k : Nat) : List Byte :=
  let gx := x.word 2 % 2 ^ 32
  let gy := x.word 2 / 2 ^ 32 % 2 ^ 16
  bytesOfNat 8 k ++ bytesOfNat 8 (k / (gx * gy) * 2 ^ 48 + k / gx % gy * 2 ^ 32 + k % gx)

/-- The distributor accepts a `fetchwk`: a block is withdrawn, if one is left, and the flag falls. -/
def State.acceptFetchwk (s : State) (o : Op) (r : Req) (blk : Nat) : State :=
  let x := s.launch o.launch
  let take := x.hasBlock
  let y := if take then { x with next := x.next + 1, waiting := false } else x
  let y := if !take then y
    else match FMap.find y.live blk with
      | none => { y with ended := FMap.put y.ended x.next true }
      | some k => { y with live := FMap.put y.live blk { k with claims := k.claims ++ [x.next] }, drawn := y.drawn ++ [x.next] }
  let s := s.setLaunch o.launch y
  (s.stageReq o { r with stage := .fabric, act := .sys 11 blk 1 (if take then x.next + 1 else 0) }).earlyFall o.id

/-- The mailbox lands. -/
def State.landFetchwk (s : State) (o : Op) (r : Req) (k : Nat) : State :=
  let l := if k = 0 then List.replicate 8 0xFF ++ List.replicate 8 0 else (s.launch o.launch).mailbox (k - 1)
  (s.spWrite (coreOfBundle o.bk) r.addr l).endReq o.id r.uid []

/-- A `fetchwk` goes one step further. -/
def State.performFetchwk (s : State) (o : Op) (r : Req) : State :=
  match r.act with
  | .sys 11 blk 0 _ => s.acceptFetchwk o r blk
  | .sys 11 _ _ k => s.landFetchwk o r k
  | _ => s

end Sys2Proof.Machine
end

