-- ==== Sys2Proof/Machine/Shawm.lean ====
section
/-! DEFINITION. The Shawm (R383 to R393, R407 to R409): fetching, packets and their order, copies, predicates, loops,
levels, graphs and signals, and the writes of queue and function registers. -/

namespace Sys2Proof.Machine

/-! ### Where a queue stands -/

/-- The place of the next packet: whether it lies in the queue (a count) or at a virtual address, where it begins, and
where its object ends. -/
def Queue.here (x : Queue) : Bool × Nat × Option Nat :=
  match x.levels with
  | [] => (true, x.pos, none)
  | l :: _ => (l.inQueue, l.start + l.pos, some (l.start + l.len))

/-- Move the innermost level n bytes on. -/
def Queue.advanceBy (x : Queue) (n : Nat) : Queue :=
  match x.levels with
  | [] => { x with pos := x.pos + n }
  | l :: r => { x with levels := { l with pos := l.pos + n } :: r }

/-- The count that QHEAD stands at (R384): the levels from the outermost on; a LOOP body is held until its last pass
has begun. -/
def headCount (l : List Level) (at_ : Nat) : Nat :=
  match l with
  | [] => at_
  | y :: r => if y.kind = 0 && y.inQueue then (if 1 < y.left then y.start else headCount r (y.start + y.pos)) else at_

/-- QHEAD brought up to date. -/
def Queue.rehead (x : Queue) : Queue := { x with head := BitVec.ofNat 64 (headCount x.levels.reverse x.pos) }

/-- The virtual address of a place. -/
def Queue.va (x : Queue) (inQ : Bool) (a : Nat) : Nat := if inQ then x.base + a % x.bytes else a

/-- INDIRECT and GRAPH levels on a stack: the depth of the present level (R390). -/
def depthOf (l : List Level) : Nat := (l.filter (fun y => y.kind != 0)).length

/-- LOOPs around the present place in its object. -/
def loopsOf (l : List Level) : Nat := (l.takeWhile (fun y => y.kind == 0)).length

/-- The key of a fetched byte of a level. -/
def fetchKey (depth a : Nat) : Nat := 8 * a + depth

/-- EOFF: the count at which the present packet of level 0 begins, a packet of a LOOP body of the queue itself among them. -/
def Queue.origin (x : Queue) : Nat := if x.here.1 then x.here.2.1 else x.cur0

/-- What has been fetched of a level is forgotten. -/
def Queue.forget (x : Queue) (depth : Nat) : Queue :=
  { x with fetched := x.fetched.filter (fun e => e.1 % 8 != depth) }

/-- The graph object of a level whose replay has ended is noted with the launches still open, and whether its last packet
still polls or waits for its record (R393). -/
def State.endReplay (s : State) (c q : Nat) (l : Level) : State :=
  match l.desc with
  | none => s
  | some d =>
    let p := s.part (partOfCtx c)
    let x := (s.fn c).queue q
    s.setPart (partOfCtx c) { p with replays := p.replays.map (fun (r : Replay) =>
      if r.desc == d && r.ctx == c && r.q == q then
        { r with launches := x.open_, waits := x.polling.isSome || x.signal.isSome }
      else r) }

/-- Leave the levels whose last packet has begun, or begin the next pass of a LOOP (R390). `fuel` bounds the levels. -/
def State.unwind (fuel : Nat) (s : State) (c q : Nat) : State :=
  match fuel with
  | 0 => s
  | n + 1 =>
    let x := (s.fn c).queue q
    match x.levels with
    | [] => s
    | l :: r =>
      if l.pos < l.len ∨ x.skip ≠ 0 then s
      else if 1 < l.left then s.setQueue c q { x with levels := { l with pos := 0, left := l.left - 1 } :: r }.rehead
      else
        let y := if l.kind = 0 then x else x.forget (depthOf x.levels)
        State.unwind n ((s.endReplay c q l).setQueue c q { y with levels := r }.rehead) c q

/-! ### Fetching (R392) -/

/-- A word as a fetch finds it. -/
inductive Got where
  | ok (w : DWord) (s : State)
  | held (s : State)
  | fault (code : Nat)

/-- The Shawm reads a word of memory. -/
def State.readVa (s : State) (c va : Nat) : Got :=
  match s.shawmBytes c va 8 with
  | .ok l s => .ok (BitVec.ofNat 64 (natOfBytes l)) s
  | .held s => .held s
  | .fault k => .fault k

/-- A word at a place: as it was fetched, or fetched now; a patched word of a graph body is its patch (R393). -/
def State.fetchWord (s : State) (c q : Nat) (inQ : Bool) (a : Nat) : Got :=
  let x := (s.fn c).queue q
  let patch : Option DWord := if inQ then none else match x.levels with
    | [] => none
    | l :: _ => (l.patches.reverse.find? (fun p => p.1 == a)).map (fun p => p.2)
  let got : Got := match (List.range 8).mapM (fun i => FMap.find x.fetched (fetchKey (depthOf x.levels) (a + i))) with
    | some l => .ok (BitVec.ofNat 64 (natOfBytes l)) s
    | none => match s.readVa c (x.va inQ a) with
      | .ok w s => .ok w (s.charge c 3 8)
      | g => g
  match got, patch with
  | .ok _ s, some w => .ok w s
  | g, _ => g

/-- Words at a place. -/
inductive Words where
  | ok (l : List DWord) (s : State)
  | held (s : State)
  | fault (code : Nat)

/-- Fetch n words. -/
def State.fetchWords (s : State) (c q : Nat) (inQ : Bool) (a n : Nat) : Words :=
  match n with
  | 0 => .ok [] s
  | n + 1 => match s.fetchWord c q inQ a with
    | .held s => .held s
    | .fault k => .fault k
    | .ok w s => match s.fetchWords c q inQ (a + 8) n with
      | .ok l s => .ok (w :: l) s
      | e => e

/-- Fetch ahead n words of a level from a place; a word that cannot be fetched now ends it. -/
def State.fetchMore (s : State) (c q depth : Nat) (inQ : Bool) (a n : Nat) : State :=
  match n with
  | 0 => s
  | n + 1 =>
    let x := (s.fn c).queue q
    match s.readVa c (x.va inQ a) with
    | .held s => s
    | .fault _ => s
    | .ok w s =>
      let y := (s.fn c).queue q
      let m := (List.range 8).foldl (fun m i => FMap.put m (fetchKey depth (a + i)) ((w >>> (8 * i)).truncate 8)) y.fetched
      ((s.setQueue c q { y with fetched := m }).charge c 3 8).fetchMore c q depth inQ (a + 8) n

/-- Whether packets of a queue may begin (R387, R403, R408, R409). -/
def State.queueTurns (s : State) (c q : Nat) : Bool :=
  let f := s.fn c
  let x := f.queue q
  x.en && !x.err && (s.ctx c).running && !f.pause && !f.reset && s.admits c 3

/-- SHAWM_FETCH (R392): at most 4 KiB ahead of the packet that is beginning, at any level of the queue. A record that the
queue still owes is posted first. -/
def execShawmFetch (ctx q bytes : Nat) (s : State) : Host.Outcome State Fault Refusal :=
  .next (
    let x := (s.fn ctx).queue q
    if !x.owes.isEmpty then s.payRecord ctx q
    else if !s.queueTurns ctx q then s
    else
      let y := { x with levels := x.levels.drop (Config.fetchLevel s.tick % (x.levels.length + 1)) }
      let h := y.here
      let stop := if h.1 then min (x.tail.toNat) (h.2.2.getD x.tail.toNat) else h.2.2.getD 0
      s.fetchMore ctx q (depthOf y.levels) h.1 h.2.1 (min (min bytes 4096) (stop - h.2.1) / 8))

/-! ### Packets (R385, R386) -/

/-- KIND. -/
def pkKind (w : DWord) : Nat := w.toNat / 2 ^ 60
/-- FLAGS. -/
def pkFlags (w : DWord) : Nat := w.toNat / 2 ^ 56 % 16
/-- ARG. -/
def pkArg (w : DWord) : Nat := w.toNat % 2 ^ 48

/-- The words of a packet; none for an invalid kind. -/
def pkWords (w : DWord) : Option Nat :=
  match pkKind w with
  | 0 => some 1
  | 1 => some 17
  | 2 => some 3
  | 3 => some 2
  | 4 => some 4
  | 5 => some 2
  | 6 => some 1
  | 7 => some (2 + 2 * (pkArg w % 32))
  | 8 => some 3
  | _ => none

/-- The codes 1, 2, 4 and 5 that the fields of a packet break (R385, R386, R389, R390); `a` is where it begins and `stop`
where its object ends. -/
def packetFaults (x : Queue) (ws : List DWord) (a : Nat) (stop : Option Nat) : List Nat :=
  let w := ws.getD 0 0
  let fl := pkFlags w
  let arg := pkArg w
  let w1 := (ws.getD 1 0).toNat
  let w2 := (ws.getD 2 0).toNat
  let bad (b : Bool) (k : Nat) : List Nat := if b then [k] else []
  let past (e : Nat) : Bool := match stop with
    | none => false
    | some z => decide (z < e)
  bad (w.toNat / 2 ^ 48 % 2 ^ 8 != 0) 1 ++
  (match pkKind w with
    | 1 => bad (decide (1 < fl) || arg != 0) 1
    | 2 => bad (fl != 0 || decide (2 ^ 28 < arg)) 1 ++ bad (arg % 16 != 0 || w1 % 16 != 0 || w2 % 16 != 0) 2
    | 3 => bad (fl != 0 || decide (arg < 8)) 1 ++ bad (arg % 8 != 0 || w1 % 8 != 0) 2 ++ bad (decide (4 ≤ depthOf x.levels)) 4
    | 4 => bad (decide (1 < fl) || arg / 2 ^ 3 % 2 ^ 13 != 0 || decide (5 < arg % 8) || (fl == 0 && arg / 2 ^ 16 != 0)) 1 ++
        bad (w1 % 8 != 0) 2 ++ bad (fl == 1 && (arg / 2 ^ 16 % 8 != 0 || past (a + 32 + arg / 2 ^ 16))) 5
    | 5 => bad (fl != 0 || decide (arg < 8)) 1 ++ bad (arg % 8 != 0) 2 ++ bad (decide (4 ≤ loopsOf x.levels)) 4 ++
        bad (past (a + 16 + arg)) 5
    | 7 => bad (fl != 0 || arg / 2 ^ 5 != 0 || decide (16 < arg % 32)) 1 ++ 
        bad (w1 % 32 != 0 || (List.range (arg % 32)).any (fun i => (ws.getD (2 + 2 * i) 0).toNat % 8 != 0)) 2 ++
        bad (decide (4 ≤ depthOf x.levels)) 4
    | 8 => bad (decide (1 < fl) || arg / 2 ^ 16 != 0) 1 ++ bad (w1 % 8 != 0) 2
    | _ => bad (fl != 0 || arg != 0) 1)

/-- Whether an earlier packet of a queue is not complete (R387). -/
def State.queueBusy (s : State) (c q : Nat) : Bool :=
  let x := (s.fn c).queue q
  x.polling.isSome || x.signal.isSome || x.open_.any (fun l => !(s.launch l).complete)

/-- The fetched bytes of a packet are used up, unless a LOOP around it in its own object may run it again. -/
def Queue.useUp (x : Queue) (a n : Nat) : Queue :=
  if 0 < loopsOf x.levels then x
  else { x with fetched := x.fetched.filter (fun e =>
    !(e.1 % 8 == depthOf x.levels && decide (a ≤ e.1 / 8) && decide (e.1 / 8 < a + n))) }

/-- What the next packet is. -/
inductive Next where
  /-- its words; the state with what the fetch charged -/
  | packet (ws : List DWord) (s : State)
  /-- the queue stops with a code, once the packet may begin; `early` says that it is a LAUNCH with WAITPREV = 0 -/
  | error (code : Nat) (early : Bool)
  /-- nothing may begin now -/
  | wait (s : State)

/-- The next packet of a queue, with every rule of R386 that its fields break tested. -/
def State.nextPacket (s : State) (c q : Nat) : Next :=
  let x := (s.fn c).queue q
  let h := x.here
  let inQ := h.1
  let a := h.2.1
  let room := match h.2.2 with
    | none => 17 + 16 + 2
    | some z => (z - a) / 8
  let lacks (n : Nat) : Bool := inQ && decide (x.tail.toNat < a + 8 * n)
  if x.skip ≠ 0 ∨ lacks 1 = true then .wait s
  else if room = 0 then .error 5 false
  else match s.fetchWord c q inQ a with
    | .held s => .wait s
    | .fault k => .error k false
    | .ok w _ => match pkWords w with
      | none => .error 1 false
      | some n =>
        let early := pkKind w == 1 && pkFlags w == 0
        let m := min n room
        if lacks m then .wait s
        else match s.fetchWords c q inQ a m with
          | .held s => .wait s
          | .fault k => .error k early
          | .ok l t =>
            let ws := l ++ List.replicate (n - m) 0
            let codes := packetFaults x ws a h.2.2 ++ (if m < n then [5] else [])
            if codes = [] then .packet ws t else .error (codes.foldl min 9) early

/-- Whether the next packet of a queue can begin: a LAUNCH with WAITPREV = 0 beside one that has begun, any other once every
earlier one is complete (R387); a packet with an error stops its queue where it would begin. -/
def State.canBegin (s : State) (c q : Nat) : Bool :=
  s.queueTurns c q && (match (State.unwind 16 s c q).nextPacket c q with
    | .wait _ => false
    | .error _ early => early || !s.queueBusy c q
    | .packet ws _ => !s.queueBusy c q || (pkKind (ws.getD 0 0) == 1 && pkFlags (ws.getD 0 0) == 0))

/-- How far a queue of a partition stands from its turn (R387). -/
def State.queueTurn (s : State) (c q : Nat) : Nat := (8 * vfOfCtx c + q + 127 - (s.part (partOfCtx c)).turn) % 128

/-- Whether the turn is a queue's: those nearer it whose next packet cannot begin have lost theirs (R387). -/
def State.firstQueue (s : State) (c q : Nat) : Bool :=
  (s.fns.filter (fun e => partOfCtx e.1 == partOfCtx c)).all (fun e => (List.range 8).all (fun k =>
    decide (s.queueTurn c q ≤ s.queueTurn e.1 k) || !s.canBegin e.1 k))

/-- The Shawm has taken a queue. -/
def State.takeQueue (s : State) (c q : Nat) : State :=
  s.setPart (partOfCtx c) { s.part (partOfCtx c) with turn := 8 * vfOfCtx c + q }

/-- The replays of a queue that have ended with all their packets: those whose level it has left (R393). -/
def State.dropReplays (s : State) (c q : Nat) : State :=
  let p := s.part (partOfCtx c)
  s.setPart (partOfCtx c) { p with replays := p.replays.filter (fun (r : Replay) =>
    !(r.ctx == c && r.q == q) || ((s.fn c).queue q).levels.any (fun l => l.desc == some r.desc)) }

/-- A packet of a kind begins, if it is next and may, and the turn is its queue's (R387). `run` acts with the queue past the packet; its error is a
state in which the packet waits for a shard page or a replay. -/
def State.turn (s : State) (c q kind : Nat) (run : State → List DWord → Bool → Nat → Except State State) : State :=
  if !s.queueTurns c q || !s.firstQueue c q then s
  else
    let s := State.unwind 16 s c q
    match s.nextPacket c q with
    | .wait t => t
    | .error k early =>
      if early || !s.queueBusy c q then (s.takeQueue c q).queueError c q k ((s.fn c).queue q).origin else s
    | .packet ws t =>
      let w := ws.getD 0 0
      if pkKind w ≠ kind ∨ (s.queueBusy c q && !(kind == 1 && pkFlags w == 0)) = true then s
      else
        let t := (if s.queueBusy c q then t else t.dropReplays c q).takeQueue c q
        let x := (t.fn c).queue q
        let h := x.here
        let n := 8 * ws.length
        let y := ({ x with cur0 := x.origin }.useUp h.2.1 n).advanceBy n
        match run (t.setQueue c q y.rehead) ws h.1 h.2.1 with
        | .error t => { t with fns := FMap.put t.fns c { t.fn c with q := FMap.put (t.fn c).q q x } }
        | .ok t => State.unwind 16 (t.setQueue c q ((t.fn c).queue q).rehead) c q

/-- Whether an event's function has a queue of that number. -/
def State.packetEvent (s : State) (c q kind : Nat) (run : State → List DWord → Bool → Nat → Except State State) :
    Host.Outcome State Fault Refusal :=
  .next (if q < 8 then s.turn c q kind run else s)

/-- NOP_PACKET (R385). -/
def execNopPacket (ctx q : Nat) (s : State) : Host.Outcome State Fault Refusal :=
  s.packetEvent ctx q 0 (fun t _ _ _ => .ok t)

/-- LAUNCH (R394). -/
def execLaunch (ctx q : Nat) (s : State) : Host.Outcome State Fault Refusal :=
  s.packetEvent ctx q 1 (fun t ws _ _ => t.beginLaunch ctx q ((t.fn ctx).queue q).cur0 (ws.drop 1))

/-- FETCHFENCE (R392). -/
def execFetchfence (ctx q : Nat) (s : State) : Host.Outcome State Fault Refusal :=
  s.packetEvent ctx q 6 (fun t _ _ _ => .ok (t.setQueue ctx q { (t.fn ctx).queue q with fetched := [] }))

/-! ### COPY (R388) -/

/-- How the copying of a range ended. -/
inductive Copied where
  | ok (s : State)
  | held (s : State)
  | fault (s : State) (code : Nat)

/-- The flits that a context's package sends for a piece of a COPY (R403): a read request to another package, and the packet of
a write to another. -/
def copyFlits (c pa pd n : Nat) : Nat :=
  (if pkgOfPa pa = pkgOfCtx c then 0 else 1) + (if pkgOfPa pd = pkgOfCtx c then 0 else flitsOf n)

/-- Copy n bytes, cut where source or destination crosses 4 KiB. `fuel` bounds the pieces. -/
def State.copyBytes (fuel : Nat) (s : State) (c src dst n : Nat) : Copied :=
  match fuel with
  | 0 => .ok s
  | k + 1 =>
    if n = 0 then .ok s
    else
      let m := min n (min (4096 - src % 4096) (4096 - dst % 4096))
      match s.collReach c src .src m with
      | .held s => .held s
      | .fault => .fault s 3
      | .ok pa s =>
        match s.collTarget c pa m, s.fetchBytes (s.collTarget c pa m) pa m with
        | .drop, _ => .fault s 3
        | .out, _ => .fault s 3
        | _, .error _ => .fault s 7
        | _, .ok l =>
          let s := s.correctAt (s.collTarget c pa m) pa m
          match s.collReach c dst .dst m with
          | .held s => .held s
          | .fault => .fault s 3
          | .ok pd s =>
            match s.collTarget c pd m with
            | .drop => .fault s 3
            | .out => .fault s 3
            | t => State.copyBytes k (((s.storeBytes t pd agentContext l).charge c 1 (Config.hbmUnits s.tick)).charge c 2
                (copyFlits c pa pd m)) c (src + m) (dst + m) (n - m)

/-- COPY (R388): an error stops the queue, and what has landed stays. -/
def execCopy (ctx q : Nat) (s : State) : Host.Outcome State Fault Refusal :=
  s.packetEvent ctx q 2 (fun t ws _ _ =>
    match State.copyBytes (pkArg (ws.getD 0 0) / 2048 + 4) t ctx (ws.getD 1 0).toNat (ws.getD 2 0).toNat (pkArg (ws.getD 0 0)) with
    | .ok t => .ok t
    | .held t => .error t
    | .fault t k => .ok (t.queueError ctx q k ((t.fn ctx).queue q).cur0))

/-! ### Levels (R390, R393) -/

/-- INDIRECT (R390). -/
def execIndirect (ctx q : Nat) (s : State) : Host.Outcome State Fault Refusal :=
  s.packetEvent ctx q 3 (fun t ws _ _ =>
    let x := (t.fn ctx).queue q
    let l : Level := { kind := 1, inQueue := false, start := (ws.getD 1 0).toNat, len := pkArg (ws.getD 0 0) }
    .ok (t.setQueue ctx q { x with levels := l :: x.levels }))

/-- LOOP_PACKET (R390): with n = 0 the body is skipped. -/
def execLoopPacket (ctx q : Nat) (s : State) : Host.Outcome State Fault Refusal :=
  s.packetEvent ctx q 5 (fun t ws inQ a =>
    let x := (t.fn ctx).queue q
    let len := pkArg (ws.getD 0 0)
    let n := (ws.getD 1 0).toNat
    if n = 0 then .ok (t.setQueue ctx q { x with skip := len })
    else
      let patches := match x.levels with
        | [] => []
        | l :: _ => l.patches
      let l : Level := { kind := 0, inQueue := inQ, start := a + 16, len := len, left := n, patches := patches }
      let y := x.advanceBy len
      .ok (t.setQueue ctx q { y with levels := l :: y.levels }))

/-- Replays of a partition that have not completed (R393). -/
def State.activeReplays (s : State) (p : Nat) : List Replay :=
  (s.part p).replays.filter (fun r =>
    ((s.fn r.ctx).queue r.q).levels.any (fun l => l.desc == some r.desc) ||
      r.launches.any (fun l => !(s.launch l).complete) ||
      (r.waits && (((s.fn r.ctx).queue r.q).polling.isSome || ((s.fn r.ctx).queue r.q).signal.isSome)))

/-- The codes that a graph object breaks: descriptor words d0 to d3 and patch pairs (R386, R393). -/
def graphFaults (d : List DWord) (patches : List (Nat × DWord)) : List Nat :=
  let w (k : Nat) : Nat := (d.getD k 0).toNat
  let bad (b : Bool) (k : Nat) : List Nat := if b then [k] else []
  bad (decide (w 1 < 8) || w 2 / 2 != 0 || w 3 != 0) 1 ++
    bad (w 0 % 8 != 0 || w 1 % 8 != 0) 2 ++
    bad (patches.any (fun p => decide (w 1 ≤ p.1))) 5

/-- GRAPH (R393): it waits for an earlier replay of a non-reentrant object. -/
def execGraph (ctx q : Nat) (s : State) : Host.Outcome State Fault Refusal :=
  s.packetEvent ctx q 7 (fun t ws _ _ =>
    let va := (ws.getD 1 0).toNat
    let p := pkArg (ws.getD 0 0) % 32
    let patches := (List.range p).map (fun i => ((ws.getD (2 + 2 * i) 0).toNat, ws.getD (3 + 2 * i) 0))
    let fail (t : State) (k : Nat) : Except State State := .ok (t.queueError ctx q k ((t.fn ctx).queue q).cur0)
    match t.shawmBytes ctx va 32 with
    | .held t => .error t
    | .fault k => fail t k
    | .ok l t =>
      let d := (List.range 4).map (wordOf l)
      match graphFaults d patches with
      | k :: r => fail t (r.foldl min k)
      | [] =>
        let single := !(d.getD 2 0).getLsbD 0
        let live := t.activeReplays (partOfCtx ctx)
        if single && (live.any (fun r => r.desc == va) || decide (64 ≤ live.length)) then .error t
        else
          let x := (t.fn ctx).queue q
          let base := (d.getD 0 0).toNat
          let l : Level := { kind := 2, inQueue := false, start := base, len := (d.getD 1 0).toNat
                             patches := patches.map (fun e => (base + e.1, e.2)), desc := if single then some va else none }
          let t := t.setQueue ctx q { x with levels := l :: x.levels }
          let pt := t.part (partOfCtx ctx)
          .ok (if single then t.setPart (partOfCtx ctx) { pt with replays := live ++ [{ desc := va, ctx := ctx, q := q }] } else t))

/-! ### PRED (R389) -/

/-- The condition of a PRED. -/
def predHolds (cmp : Nat) (x v : DWord) : Bool :=
  match cmp with
  | 0 => x == v
  | 1 => x != v
  | 2 => v.ule x
  | 3 => x.ult v
  | 4 => v.sle x
  | _ => x.slt v

/-- A PRED that polls reads its word, or reads it again. -/
def State.pollRead (s : State) (c q : Nat) (p : Poll) : State :=
  let x := (s.fn c).queue q
  match s.readVa c p.va with
  | .held s => s
  | .fault k => (s.setQueue c q { x with polling := none }).queueError c q k p.origin
  | .ok w s =>
    let s := s.charge c 3 8
    let x := (s.fn c).queue q
    if predHolds p.cmp (w &&& p.mask) p.value then s.setQueue c q { x with polling := none }
    else s.setQueue c q { x with polling := some { p with since := s.cycle } }

/-- PRED (R389). -/
def execPred (ctx q : Nat) (s : State) : Host.Outcome State Fault Refusal :=
  s.packetEvent ctx q 4 (fun t ws _ _ =>
    let arg := pkArg (ws.getD 0 0)
    let at_ := ((t.fn ctx).queue q).cur0
    let p : Poll := { va := (ws.getD 1 0).toNat, value := ws.getD 2 0, mask := ws.getD 3 0, cmp := arg % 8, since := t.cycle, origin := at_ }
    if pkFlags (ws.getD 0 0) = 0 then
      .ok ((t.setQueue ctx q { (t.fn ctx).queue q with polling := some p }).pollRead ctx q p)
    else match t.readVa ctx p.va with
      | .held t => .error t
      | .fault k => .ok (t.queueError ctx q k ((t.fn ctx).queue q).cur0)
      | .ok w t =>
        let x := (t.fn ctx).queue q
        .ok ((if predHolds p.cmp (w &&& p.mask) p.value then t else t.setQueue ctx q { x with skip := arg / 2 ^ 16 }).charge ctx 3 8))

/-- Skip packets by their headers (R386, R389): an end inside a packet is code 5, an error of the packet that skips. An error
of a skipped packet's own fetch or kind names that packet (log 11). `fuel` bounds them. -/
def State.skipPackets (fuel : Nat) (s : State) (c q : Nat) : State :=
  match fuel with
  | 0 => s
  | k + 1 =>
    let x := (s.fn c).queue q
    if x.skip = 0 then s
    else
      let h := x.here
      match s.fetchWord c q h.1 h.2.1 with
      | .held s => s
      | .fault k => s.queueError c q k x.origin
      | .ok w s => match pkWords w with
        | none => s.queueError c q 1 x.origin
        | some n =>
          if x.skip < 8 * n then s.queueError c q 5 x.cur0
          else
            let x := (s.fn c).queue q
            let y := (x.useUp h.2.1 (8 * n)).advanceBy (8 * n)
            State.skipPackets k (s.setQueue c q { y with skip := x.skip - 8 * n }.rehead) c q

/-- Base-die cycles of R389 in arithmetic-clock cycles (R12): 256 of 2.0 GHz are 230.4 of 1.8 GHz. -/
def pollWait : Nat := 231

/-- Whether a PRED that polls may read its word: it runs on though its queue has stopped (R386). -/
def State.pollTurns (s : State) (c : Nat) : Bool := (s.ctx c).running && !(s.fn c).reset && s.admits c 3

/-- PRED_POLL (R389): a waiting PRED reads its word again; a skip is made once QTAIL covers it. -/
def execPredPoll (ctx q : Nat) (s : State) : Host.Outcome State Fault Refusal :=
  .next (
    let x := (s.fn ctx).queue q
    match x.polling with
    | some p => if s.pollTurns ctx && decide (p.since + pollWait ≤ s.cycle) then s.pollRead ctx q p else s
    | none =>
      if !s.queueTurns ctx q ∨ x.skip = 0 ∨ (x.here.1 && decide (x.tail.toNat < x.here.2.1 + x.skip)) = true then s
      else State.unwind 16 (State.skipPackets (x.skip / 8 + 1) s ctx q) ctx q)

/-! ### SIGNAL (R391, R407) -/

/-- The record of a SIGNAL is posted, or waits for space. -/
def State.paySignal (s : State) (c q : Nat) : State :=
  let x := (s.fn c).queue q
  match x.signal with
  | none => s
  | some (vec, v) =>
    let done (s : State) : State := s.setQueue c q { (s.fn c).queue q with signal := none }
    match s.postRecord c 0 vec q v with
    | .later s => s
    | .done s => done s
    | .fault s => (done s).queueError c q 3 x.sigAt

/-- SIGNAL (R391): the value is written, then the record is posted; the event posts a record that still waits. -/
def execSignal (ctx q : Nat) (s : State) : Host.Outcome State Fault Refusal :=
  if ((s.fn ctx).queue q).signal.isSome then .next (s.paySignal ctx q)
  else s.packetEvent ctx q 8 (fun t ws _ _ =>
    let x := (t.fn ctx).queue q
    match t.shawmReach ctx (ws.getD 1 0).toNat .st 8 with
    | .held t => .error t
    | .fault => .ok (t.queueError ctx q 3 x.cur0)
    | .ok pa t =>
      let t := (t.memWrite pa (bytesOfNat 8 (ws.getD 2 0).toNat)).charge ctx 1 (Config.hbmUnits t.tick)
      if pkFlags (ws.getD 0 0) = 0 then .ok t
      else .ok ((t.setQueue ctx q { (t.fn ctx).queue q with signal := some (pkArg (ws.getD 0 0), ws.getD 2 0),
                                                                    sigAt := x.cur0 }).paySignal ctx q))

/-! ### Register writes of the window (R383, R384, R408, R409) -/

/-- QTAIL_WRITE (R384). -/
def execQtailWrite (ctx q value : Nat) (s : State) : Host.Outcome State Fault Refusal :=
  .next (if q < 8 then s.qtailTo ctx q (BitVec.ofNat 64 value) else s)

/-- QUEUE_ENABLE (R383): a write of the queue's control word. -/
def execQueueEnable (ctx q value : Nat) (s : State) : Host.Outcome State Fault Refusal :=
  .next (if q < 8 then s.queueControl ctx q (BitVec.ofNat 64 value) (BitVec.allOnes 64) else s)

/-- PAUSE_WRITE (R408). -/
def execPauseWrite (ctx value : Nat) (s : State) : Host.Outcome State Fault Refusal :=
  .next (s.shawmWrite ctx 0x180 (BitVec.ofNat 64 value &&& 4) 4 true)

/-- Whether packets addressed to a function's frames, or shard packets from or to it (R370), are still on the fabric (R409,
step 3). -/
def State.addressed (s : State) (c : Nat) : Bool :=
  s.pkts.any (fun p => match p.orig, placeOf (localOfPa p.dst) with
    | some o, .pool _ _ => windowCtx o p.dst == c
    | _, _ => false) ||
  s.msgs.any (fun m => (m.kind == 3 || m.kind == 6) && (m.src == c || m.dst == c))

/-- FUNCTION_RESET (R409): it begins, and ends once everything has settled. -/
def execFunctionReset (ctx : Nat) (s : State) : Host.Outcome State Fault Refusal :=
  .next (
    if !(s.fn ctx).reset then s.beginReset ctx
    else if s.resetSettled ctx && !s.addressed ctx then s.endReset ctx else s)

end Sys2Proof.Machine
end

