-- ==== Sys2Proof/Machine/Events.lean ====
section
/-! DEFINITION. The events of the bundle engine and of requests on their way: what a lane starts next (R71, R222),
pending records and reports (R220 to R223), results that land (R107, R109), engine arrivals (R207), requests performed
at their homes (R302), walks (R364), the end of a `sleep` (R200), and writes of plain registers and of memory by
agents outside the cores (R383, R411, R430). -/

namespace Sys2Proof.Machine

/-! ### Lanes (R71, R72) -/

/-- Whether a bundle is runnable (R71): it has a path that may run and is not stalled at hand-off (R15), its context runs
and no slice end has stopped it, no read of it is held on a line tag, and no save or load of it is in progress (R239, R413,
R418). -/
def State.runnable (s : State) (bk : Nat) : Bool :=
  let b := s.bundle bk
  b.ser != 0 && b.candidates != 0 && !b.stalled && s.runs bk && !s.endingSlice bk && !s.recording b.ser &&
    !s.ops.any (fun o => o.ser == b.ser && o.cls == 5 && o.reqs.any Req.parks)

/-- How far a bundle stands from its turn at its level (R71). -/
def State.turnOf (s : State) (bk : Nat) : Nat :=
  (slotOfBundle bk + 8 - FMap.look (s.core (coreOfBundle bk)).rr 0 (8 * laneOfBundle bk + (s.bundle bk).prio)) % 8

/-- Whether one bundle gives way to another of its lane: a runnable one of a higher level, or of its own level and nearer
its turn (R71). -/
def State.givesWay (s : State) (bk other : Nat) : Bool :=
  let b := s.bundle bk
  let c := s.bundle other
  other != bk && other / 8 == bk / 8 && s.runnable other &&
    (decide (b.prio < c.prio) || (b.prio == c.prio && decide (s.turnOf other < s.turnOf bk)))

/-- Whether a lane may start a bundle now: the lane is free, it has not acted in this cycle, nor has one above it in the
core (R16), and no other bundle of it comes first. -/
def State.mayStart (s : State) (bk : Nat) : Bool :=
  s.issuing.isNone && s.runnable bk && !s.laneHeld bk && s.laneReady bk &&
    (isFw bk || !s.bundles.any (fun e => !isFw e.1 && s.givesWay bk e.1))

/-- Whether a pending record is taken before the bundle's next instruction (R222). -/
def Bundle.takesRecord (b : Bundle) : Bool := b.hidden.isNone && !b.pend.isEmpty

/-- The bundle with a path chosen where none runs (R74), or where its path had parked on a line tag (R195). -/
def Bundle.ready (b : Bundle) : Bundle := if b.active = 0 ∨ b.held = true then { b.choose with held := false } else b

/-- LANE_ISSUE (R71): a free lane starts the next instruction of a bundle. -/
def execLaneIssue (bk : Nat) (s : State) : Host.Outcome State Fault Refusal :=
  .next (
    if s.mayStart bk && !(s.bundle bk).takesRecord then
      { (s.laneActs bk).setBundle bk (s.bundle bk).ready with issuing := some bk }
    else s)

/-- TRAP_ENTRY (R222, R223): the pending record of the lowest code is taken in place of the next instruction; a firmware
core that it halts completes its outstanding operations first (R427, R438). -/
def execTrapEntry (bk : Nat) (s : State) : Host.Outcome State Fault Refusal :=
  .next (
    let b := (s.bundle bk).ready
    match lowestRec b.pend with
    | none => s
    | some r =>
      if s.mayStart bk && b.takesRecord && !(s.vector bk == 0xFFFFFFFF && s.haltWaits bk) then
        let th := b.thread b.lead
        let s := (s.laneActs bk).setBundle bk { b with pend := b.pend.filter (fun p => p.code != r.code) }
        s.takeTrap bk r.code 1 r.upc th.pc th.clo r.cnt r.eng r.threads r.detail
      else s)

/-- FAULT_REPORT (R220, R222): a report reaches its bundle. -/
def execFaultReport (rep : Nat) (s : State) : Host.Outcome State Fault Refusal :=
  .next (match s.reports.find? (fun r => r.id == rep) with
    | none => s
    | some r =>
      let s := { s with reports := s.reports.filter (fun q => q.id != rep) }
      let b := s.bundle r.bk
      if b.ser = r.ser then s.setBundle r.bk (b.receive r) else s)

/-- Whether a thread of a bundle has slept long enough (R200). -/
def State.sleepOver (s : State) (bk : Nat) : Bool :=
  s.runs bk && (s.bundle bk).thr.any (fun e => match e.2.cond with
    | .sleep till => decide (till ≤ s.activeCycles bk)
    | _ => false)

/-- SLEEP_EXPIRY (R200): threads whose count has ended run again. -/
def execSleepExpiry (bk : Nat) (s : State) : Host.Outcome State Fault Refusal :=
  .next (
    if s.sleepOver bk then
      let wake (th : Thread) : Thread := match th.cond with
        | .sleep till => if till ≤ s.activeCycles bk then { th with cond := .running } else th
        | _ => th
      let b := s.bundle bk
      s.setBundle bk { b with thr := b.thr.map (fun (e : Nat × Thread) => (e.1, wake e.2)) }.rechoose
    else s)

/-! ### Operations on their way -/

/-- RESULT_WRITEBACK (R107, R109): the results of one thread of an operation land; with the last of everything its flag
falls. -/
def execResultWriteback (op k : Nat) (s : State) : Host.Outcome State Fault Refusal := .next (s.landWB op k)

/-- ENGINE_ARRIVAL (R207): a finished engine operation arrives on its completion barrier. -/
def execEngineArrival (op : Nat) (s : State) : Host.Outcome State Fault Refusal := .next (s.completeOp op)

/-- Whether accesses that an operation's threads issued before it are not performed (R214). -/
def State.accessesBefore (s : State) (o : Op) : Bool := s.unperformed o.ser o.id o.ex

/-- A request that only waits for what stands before it (R205, R214, R336, R417, R418). -/
def State.performWait (s : State) (o : Op) (r : Req) : State :=
  match r.act with
  | .sys 1 key _ _ => if s.unperformed o.ser o.id o.ex then s else (s.endReq o.id r.uid []).evalBar key
  | .sys 12 .. => s.performRecord o r
  | .drain 0 => s.performDrain o r
  | .drain 1 => s.drainCopies o r
  | .drain 5 => if s.strongBefore o (o.affected r) then s else s.endReq o.id r.uid []
  | .drain _ => if s.accessesBefore o then s else s.endReq o.id r.uid []
  | _ => s

/-- A request reaches the agent that performs it. -/
def State.performHome (s : State) (o : Op) (r : Req) : State :=
  match r.act with
  | .ctr .. => s.performCtr o r
  | .sys 2 .. => s
  | .sys 3 .. => s.performTake o r
  | .sys 4 k _ d => s.performPost o r k d
  | .sys 6 _ _ d => s.performSnap o r d
  | .sys 9 .. => s.performInval o r
  | .sys 10 want _ d => s.performLease o r want d
  | .sys 11 .. => s.performFetchwk o r
  | .sys 13 n target _ => s.performMeasure o r n target
  | _ => s.moveReq o r

/-- Whether a request is a claimed block on its way to its mailbox, which lands although its context is away (R342,
R413). -/
def Req.claim (r : Req) : Bool :=
  r.stage == .fabric && (match r.act with
    | .sys 11 .. => true
    | _ => false)

/-- HOME_PERFORM (R302): a request of an operation is performed where it is served, or leaves on its path. -/
def execHomePerform (op k : Nat) (s : State) : Host.Outcome State Fault Refusal :=
  .next (match s.op? op with
    | none => s
    | some o => match o.req? k with
      | none => s
      | some r =>
        if r.claim then s.performFetchwk o r
        else if !s.runs o.bk then s
        else match r.stage with
          | .home => s.performHome o r
          | .wait => s.performWait o r
          | _ => s)

/-- PAGE_WALK_COMPLETE (R364, R365): a request's walk ends, or a held access is replayed or faulted. -/
def execPageWalkComplete (op k : Nat) (s : State) : Host.Outcome State Fault Refusal :=
  .next (match s.op? op with
    | none => s
    | some o => match o.req? k with
      | none => s
      | some r =>
        if o.cls = 12 ∧ r.stage = .shard then s.performShard o r else s.walkReq o r)

/-! ### Writes from outside the cores (R383, R411, R430) -/

/-- Where the monitor's own structures stand for REGISTER_WRITE (log 30): places of context descriptors, group tables, partition
layers and selection tables, in steps of 2^40 from 2^52 on. -/
def monitorBase : Nat := 2 ^ 52

/-- What the monitor tells the device of a context while it does not run (R411; log 30): word 0, the address of its descriptor, whose
eight words stand in the package's HBM, which makes the context known; word 2, that what runs in the frames next is a new
context (R453). -/
def State.writeDescriptor (s : State) (c w v : Nat) : State :=
  if (s.ctx c).running then s
  else if w = 0 then s.setCtx c { s.ctx c with desc := globalPa (pkgOfCtx c) (v / 64 % 2 ^ 40 * 64) }
  else if w = 2 then
    let s := s.startContext c
    let p := s.part (partOfCtx c)
    s.setPart (partOfCtx c) { p with frames := p.frames.filter (fun v => v != vfOfCtx c) }
  else s

/-- The monitor sets an internal budget, never below the limit of R405. -/
def Pkg.setBudget (p : Pkg) (k v : Nat) : Pkg :=
  if k ≤ 5 then { p with budgets := FMap.put p.budgets k (max v (lowestBudget k)) } else p

/-- What the monitor writes of a migrated function's log beside the registers of the window (R408; log 30): LTAIL, whose count
SEQ goes on from, LDROP and the held-notice bit, while PAUSE is 1. -/
def State.restoreLog (s : State) (c w v : Nat) : State :=
  let f := s.fn c
  if !f.pause then s
  else match w with
    | 0x110 => s.setFn c { f with ltail := BitVec.ofNat 64 v, seq := v / 16 }
    | 0x120 => s.setFn c { f with ldrop := v % 2 ^ 32 }
    | 0x128 => s.setFn c { f with heldNote := v % 2 == 1 }
    | _ => s

/-- A word of the monitor's structures (R349, R366, R401, R405, R408, R411). -/
def State.monitorWrite (s : State) (off v : Nat) : State :=
  let x := off % 2 ^ 40
  match off / 2 ^ 40 with
  | 0 => s.writeDescriptor (x / 64) (x % 64 / 8) v
  | 1 => s.setCtx (x / 2 ^ 16) { s.ctx (x / 2 ^ 16) with
      group := FMap.write (s.ctx (x / 2 ^ 16)).group 0 (x % 2 ^ 16 / 8) (BitVec.ofNat 64 v) }
  | 2 => s.setPart (x / 2 ^ 16) { s.part (x / 2 ^ 16) with layers := v % 17 }
  | 3 => s.setPart (x / 2 ^ 16) { s.part (x / 2 ^ 16) with
      sel := FMap.put (s.part (x / 2 ^ 16)).sel (x % 2 ^ 16) (BitVec.ofNat 8 v) }
  | 4 => s.restoreLog (x / 2 ^ 16) (x % 2 ^ 16) v
  | 5 => s.setPkg (x / 2 ^ 16) ((s.pkg (x / 2 ^ 16)).setBudget (x % 2 ^ 16) v)
  | _ => s

/-- REGISTER_WRITE (R383, R411, R430): an agent writes 8 bytes at a pod-global physical address: a register, or memory
that the host writes; the monitor writes its own structures too. -/
def execRegisterWrite (agent addr value : Nat) (s : State) : Host.Outcome State Fault Refusal :=
  .next (
    if monitorBase ≤ addr then (if isFwAgent agent then s.monitorWrite (addr - monitorBase) value else s)
    else if (FMap.find s.pkgs (pkgOfPa addr)).isNone then s
    else match s.place addr with
      | .hbm _ => s.memWrite addr (bytesOfNat 8 value)
      | .pool _ _ => s
      | .nowhere => s
      | p => s.registerWrite (pkgOfPa addr) agent p (bytesOfNat 8 value))

end Sys2Proof.Machine
end

