-- ==== Sys2Proof/Machine/Dispatch.lean ====
section
/-! DEFINITION. One arm per instruction and event: each calls its meaning. -/

namespace Sys2Proof.Machine

/-- What an instruction or event does to the machine. -/
def exec (i : Instr) (s : State) : Host.Outcome State Fault Refusal :=
  match i with
  | .clauseHeader w a b l => Sys2Proof.Machine.execClauseHeader w a b l s
  | .add x => Sys2Proof.Machine.execAdd x s
  | .sub x => Sys2Proof.Machine.execSub x s
  | .mul x => Sys2Proof.Machine.execMul x s
  | .mulhi x => Sys2Proof.Machine.execMulhi x s
  | .mad x => Sys2Proof.Machine.execMad x s
  | .min x => Sys2Proof.Machine.execMin x s
  | .max x => Sys2Proof.Machine.execMax x s
  | .abs x => Sys2Proof.Machine.execAbs x s
  | .neg x => Sys2Proof.Machine.execNeg x s
  | .and x => Sys2Proof.Machine.execAnd x s
  | .or x => Sys2Proof.Machine.execOr x s
  | .xor x => Sys2Proof.Machine.execXor x s
  | .andn x => Sys2Proof.Machine.execAndn x s
  | .not x => Sys2Proof.Machine.execNot x s
  | .shl x => Sys2Proof.Machine.execShl x s
  | .shr x => Sys2Proof.Machine.execShr x s
  | .sar x => Sys2Proof.Machine.execSar x s
  | .rot x => Sys2Proof.Machine.execRot x s
  | .clz x => Sys2Proof.Machine.execClz x s
  | .popc x => Sys2Proof.Machine.execPopc x s
  | .bfe x => Sys2Proof.Machine.execBfe x s
  | .bfi x => Sys2Proof.Machine.execBfi x s
  | .sel x => Sys2Proof.Machine.execSel x s
  | .cmpEq x => Sys2Proof.Machine.execCmpEq x s
  | .cmpNe x => Sys2Proof.Machine.execCmpNe x s
  | .cmpLt x => Sys2Proof.Machine.execCmpLt x s
  | .cmpLe x => Sys2Proof.Machine.execCmpLe x s
  | .cmpGt x => Sys2Proof.Machine.execCmpGt x s
  | .cmpGe x => Sys2Proof.Machine.execCmpGe x s
  | .mov x => Sys2Proof.Machine.execMov x s
  | .movi x => Sys2Proof.Machine.execMovi x s
  | .lea x => Sys2Proof.Machine.execLea x s
  | .shfl x => Sys2Proof.Machine.execShfl x s
  | .shflUp x => Sys2Proof.Machine.execShflUp x s
  | .shflDn x => Sys2Proof.Machine.execShflDn x s
  | .shflX x => Sys2Proof.Machine.execShflX x s
  | .voteAny x => Sys2Proof.Machine.execVoteAny x s
  | .voteAll x => Sys2Proof.Machine.execVoteAll x s
  | .ballot x => Sys2Proof.Machine.execBallot x s
  | .matchOp x => Sys2Proof.Machine.execMatchOp x s
  | .elect x => Sys2Proof.Machine.execElect x s
  | .reduxAdd x => Sys2Proof.Machine.execReduxAdd x s
  | .reduxMin x => Sys2Proof.Machine.execReduxMin x s
  | .reduxMax x => Sys2Proof.Machine.execReduxMax x s
  | .reduxAnd x => Sys2Proof.Machine.execReduxAnd x s
  | .reduxOr x => Sys2Proof.Machine.execReduxOr x s
  | .scanAdd x => Sys2Proof.Machine.execScanAdd x s
  | .scanXadd x => Sys2Proof.Machine.execScanXadd x s
  | .movr x => Sys2Proof.Machine.execMovr x s
  | .movw x => Sys2Proof.Machine.execMovw x s
  | .ixset x => Sys2Proof.Machine.execIxset x s
  | .tidx x => Sys2Proof.Machine.execTidx x s
  | .bcast x => Sys2Proof.Machine.execBcast x s
  | .pick x => Sys2Proof.Machine.execPick x s
  | .fadd x => Sys2Proof.Machine.execFadd x s
  | .fsub x => Sys2Proof.Machine.execFsub x s
  | .fmul x => Sys2Proof.Machine.execFmul x s
  | .fma x => Sys2Proof.Machine.execFma x s
  | .fmin x => Sys2Proof.Machine.execFmin x s
  | .fmax x => Sys2Proof.Machine.execFmax x s
  | .fabs x => Sys2Proof.Machine.execFabs x s
  | .fneg x => Sys2Proof.Machine.execFneg x s
  | .fcmpEq x => Sys2Proof.Machine.execFcmpEq x s
  | .fcmpNe x => Sys2Proof.Machine.execFcmpNe x s
  | .fcmpLt x => Sys2Proof.Machine.execFcmpLt x s
  | .fcmpLe x => Sys2Proof.Machine.execFcmpLe x s
  | .fcmpUn x => Sys2Proof.Machine.execFcmpUn x s
  | .fclass x => Sys2Proof.Machine.execFclass x s
  | .fscale x => Sys2Proof.Machine.execFscale x s
  | .frnd x => Sys2Proof.Machine.execFrnd x s
  | .fdot2 x => Sys2Proof.Machine.execFdot2 x s
  | .freduxAdd x => Sys2Proof.Machine.execFreduxAdd x s
  | .freduxMax x => Sys2Proof.Machine.execFreduxMax x s
  | .fscanAdd x => Sys2Proof.Machine.execFscanAdd x s
  | .fcopysign x => Sys2Proof.Machine.execFcopysign x s
  | .rcp x => Sys2Proof.Machine.execRcp x s
  | .rsq x => Sys2Proof.Machine.execRsq x s
  | .sqrt x => Sys2Proof.Machine.execSqrt x s
  | .exp2 x => Sys2Proof.Machine.execExp2 x s
  | .log2 x => Sys2Proof.Machine.execLog2 x s
  | .sin x => Sys2Proof.Machine.execSin x s
  | .cos x => Sys2Proof.Machine.execCos x s
  | .tanh x => Sys2Proof.Machine.execTanh x s
  | .erf x => Sys2Proof.Machine.execErf x s
  | .cvt x => Sys2Proof.Machine.execCvt x s
  | .qnt x => Sys2Proof.Machine.execQnt x s
  | .dqnt x => Sys2Proof.Machine.execDqnt x s
  | .pack x => Sys2Proof.Machine.execPack x s
  | .unpack x => Sys2Proof.Machine.execUnpack x s
  | .jmp x => Sys2Proof.Machine.execJmp x s
  | .br x => Sys2Proof.Machine.execBr x s
  | .bru x => Sys2Proof.Machine.execBru x s
  | .brx x => Sys2Proof.Machine.execBrx x s
  | .call x => Sys2Proof.Machine.execCall x s
  | .callx x => Sys2Proof.Machine.execCallx x s
  | .ret x => Sys2Proof.Machine.execRet x s
  | .rejoin x => Sys2Proof.Machine.execRejoin x s
  | .exit x => Sys2Proof.Machine.execExit x s
  | .kill x => Sys2Proof.Machine.execKill x s
  | .loop x => Sys2Proof.Machine.execLoop x s
  | .trap x => Sys2Proof.Machine.execTrap x s
  | .tret x => Sys2Proof.Machine.execTret x s
  | .yield x => Sys2Proof.Machine.execYield x s
  | .sleep x => Sys2Proof.Machine.execSleep x s
  | .nop x => Sys2Proof.Machine.execNop x s
  | .halt x => Sys2Proof.Machine.execHalt x s
  | .ldL x => Sys2Proof.Machine.execLdL x s
  | .stL x => Sys2Proof.Machine.execStL x s
  | .ldbL x => Sys2Proof.Machine.execLdbL x s
  | .stbL x => Sys2Proof.Machine.execStbL x s
  | .tagClr x => Sys2Proof.Machine.execTagClr x s
  | .tagSet x => Sys2Proof.Machine.execTagSet x s
  | .tagWc x => Sys2Proof.Machine.execTagWc x s
  | .plane x => Sys2Proof.Machine.execPlane x s
  | .unplane x => Sys2Proof.Machine.execUnplane x s
  | .zeroL x => Sys2Proof.Machine.execZeroL x s
  | .ldG x => Sys2Proof.Machine.execLdG x s
  | .stG x => Sys2Proof.Machine.execStG x s
  | .ldbG x => Sys2Proof.Machine.execLdbG x s
  | .stbG x => Sys2Proof.Machine.execStbG x s
  | .prfG x => Sys2Proof.Machine.execPrfG x s
  | .ldR x => Sys2Proof.Machine.execLdR x s
  | .stR x => Sys2Proof.Machine.execStR x s
  | .ldAcq x => Sys2Proof.Machine.execLdAcq x s
  | .stRel x => Sys2Proof.Machine.execStRel x s
  | .atomAdd x => Sys2Proof.Machine.execAtomAdd x s
  | .atomMin x => Sys2Proof.Machine.execAtomMin x s
  | .atomMax x => Sys2Proof.Machine.execAtomMax x s
  | .atomAnd x => Sys2Proof.Machine.execAtomAnd x s
  | .atomOr x => Sys2Proof.Machine.execAtomOr x s
  | .atomXor x => Sys2Proof.Machine.execAtomXor x s
  | .atomXchg x => Sys2Proof.Machine.execAtomXchg x s
  | .atomCas x => Sys2Proof.Machine.execAtomCas x s
  | .redAdd x => Sys2Proof.Machine.execRedAdd x s
  | .redMin x => Sys2Proof.Machine.execRedMin x s
  | .redMax x => Sys2Proof.Machine.execRedMax x s
  | .redX96 x => Sys2Proof.Machine.execRedX96 x s
  | .x96Ld x => Sys2Proof.Machine.execX96Ld x s
  | .x96Init x => Sys2Proof.Machine.execX96Init x s
  | .cellArm x => Sys2Proof.Machine.execCellArm x s
  | .cellProp x => Sys2Proof.Machine.execCellProp x s
  | .cellLd x => Sys2Proof.Machine.execCellLd x s
  | .cellReset x => Sys2Proof.Machine.execCellReset x s
  | .cellFlush x => Sys2Proof.Machine.execCellFlush x s
  | .barArv x => Sys2Proof.Machine.execBarArv x s
  | .barWait x => Sys2Proof.Machine.execBarWait x s
  | .barSync x => Sys2Proof.Machine.execBarSync x s
  | .barBind x => Sys2Proof.Machine.execBarBind x s
  | .setNew x => Sys2Proof.Machine.execSetNew x s
  | .setJoin x => Sys2Proof.Machine.execSetJoin x s
  | .setLeave x => Sys2Proof.Machine.execSetLeave x s
  | .setFree x => Sys2Proof.Machine.execSetFree x s
  | .fence x => Sys2Proof.Machine.execFence x s
  | .opfence x => Sys2Proof.Machine.execOpfence x s
  | .waitf x => Sys2Proof.Machine.execWaitf x s
  | .acqRemote x => Sys2Proof.Machine.execAcqRemote x s
  | .scopeof x => Sys2Proof.Machine.execScopeof x s
  | .barPoll x => Sys2Proof.Machine.execBarPoll x s
  | .mxLoop x => Sys2Proof.Machine.execMxLoop x s
  | .mxLoops x => Sys2Proof.Machine.execMxLoops x s
  | .mxZero x => Sys2Proof.Machine.execMxZero x s
  | .mxWin x => Sys2Proof.Machine.execMxWin x s
  | .mxRead x => Sys2Proof.Machine.execMxRead x s
  | .mxStore x => Sys2Proof.Machine.execMxStore x s
  | .mxLoad x => Sys2Proof.Machine.execMxLoad x s
  | .mxStat x => Sys2Proof.Machine.execMxStat x s
  | .mxMove x => Sys2Proof.Machine.execMxMove x s
  | .sigCfg x => Sys2Proof.Machine.execSigCfg x s
  | .sigOne x => Sys2Proof.Machine.execSigOne x s
  | .sigStepReg x => Sys2Proof.Machine.execSigStepReg x s
  | .sigStepScratch x => Sys2Proof.Machine.execSigStepScratch x s
  | .sigJoin x => Sys2Proof.Machine.execSigJoin x s
  | .sigJoinl x => Sys2Proof.Machine.execSigJoinl x s
  | .sigLog x => Sys2Proof.Machine.execSigLog x s
  | .sigRead x => Sys2Proof.Machine.execSigRead x s
  | .sigStat x => Sys2Proof.Machine.execSigStat x s
  | .xfPut x => Sys2Proof.Machine.execXfPut x s
  | .xfGet x => Sys2Proof.Machine.execXfGet x s
  | .xfCpy x => Sys2Proof.Machine.execXfCpy x s
  | .xfDrain x => Sys2Proof.Machine.execXfDrain x s
  | .ctrSet x => Sys2Proof.Machine.execCtrSet x s
  | .ctrAdd x => Sys2Proof.Machine.execCtrAdd x s
  | .ctrArm x => Sys2Proof.Machine.execCtrArm x s
  | .ctrWait x => Sys2Proof.Machine.execCtrWait x s
  | .collPost x => Sys2Proof.Machine.execCollPost x s
  | .fetchwk x => Sys2Proof.Machine.execFetchwk x s
  | .xqPush x => Sys2Proof.Machine.execXqPush x s
  | .xqTake x => Sys2Proof.Machine.execXqTake x s
  | .mfs x => Sys2Proof.Machine.execMfs x s
  | .mts x => Sys2Proof.Machine.execMts x s
  | .tidWr x => Sys2Proof.Machine.execTidWr x s
  | .tidRd x => Sys2Proof.Machine.execTidRd x s
  | .clk x => Sys2Proof.Machine.execClk x s
  | .snap x => Sys2Proof.Machine.execSnap x s
  | .shEvict x => Sys2Proof.Machine.execShEvict x s
  | .shTouch x => Sys2Proof.Machine.execShTouch x s
  | .pgInval x => Sys2Proof.Machine.execPgInval x s
  | .ctxDrain x => Sys2Proof.Machine.execCtxDrain x s
  | .ctxSvb x => Sys2Proof.Machine.execCtxSvb x s
  | .ctxLdb x => Sys2Proof.Machine.execCtxLdb x s
  | .ctxSvd x => Sys2Proof.Machine.execCtxSvd x s
  | .ctxLdd x => Sys2Proof.Machine.execCtxLdd x s
  | .ctxSvx x => Sys2Proof.Machine.execCtxSvx x s
  | .ctxLdx x => Sys2Proof.Machine.execCtxLdx x s
  | .leaseCas x => Sys2Proof.Machine.execLeaseCas x s
  | .measure x => Sys2Proof.Machine.execMeasure x s
  | .wfe x => Sys2Proof.Machine.execWfe x s
  | .trapEntry bk => Sys2Proof.Machine.execTrapEntry bk s
  | .faultReport rep => Sys2Proof.Machine.execFaultReport rep s
  | .laneIssue bk => Sys2Proof.Machine.execLaneIssue bk s
  | .sleepExpiry bk => Sys2Proof.Machine.execSleepExpiry bk s
  | .engineArrival op => Sys2Proof.Machine.execEngineArrival op s
  | .resultWriteback op k => Sys2Proof.Machine.execResultWriteback op k s
  | .bankService op k => Sys2Proof.Machine.execBankService op k s
  | .tilePortDispatch core => Sys2Proof.Machine.execTilePortDispatch core s
  | .loopStep core => Sys2Proof.Machine.execLoopStep core s
  | .surgeGrant chiplet => Sys2Proof.Machine.execSurgeGrant chiplet s
  | .sigDispatch core => Sys2Proof.Machine.execSigDispatch core s
  | .homePerform op k => Sys2Proof.Machine.execHomePerform op k s
  | .writePacket pkt => Sys2Proof.Machine.execWritePacket pkt s
  | .readRequest pkt => Sys2Proof.Machine.execReadRequest pkt s
  | .readReply pkt => Sys2Proof.Machine.execReadReply pkt s
  | .atomicRequest pkt => Sys2Proof.Machine.execAtomicRequest pkt s
  | .atomicReply pkt => Sys2Proof.Machine.execAtomicReply pkt s
  | .acknowledgement pkt => Sys2Proof.Machine.execAcknowledgement pkt s
  | .dropNotice pkt => Sys2Proof.Machine.execDropNotice pkt s
  | .flit link kind vc fseq ack rvc rcnt rsnd crcOk body => Sys2Proof.Machine.execFlit link kind vc fseq ack rvc rcnt rsnd crcOk body s
  | .idleFlit link => Sys2Proof.Machine.execIdleFlit link s
  | .escapeMove pkt => Sys2Proof.Machine.execEscapeMove pkt s
  | .escapeDrop pkt => Sys2Proof.Machine.execEscapeDrop pkt s
  | .xqPushArrival pkt => Sys2Proof.Machine.execXqPushArrival pkt s
  | .xqRowLanding row => Sys2Proof.Machine.execXqRowLanding row s
  | .collChunkPost lid chunk => Sys2Proof.Machine.execCollChunkPost lid chunk s
  | .collCombine lid chunk => Sys2Proof.Machine.execCollCombine lid chunk s
  | .pageWalkComplete op k => Sys2Proof.Machine.execPageWalkComplete op k s
  | .prop msg => Sys2Proof.Machine.execProp msg s
  | .reply msg => Sys2Proof.Machine.execReply msg s
  | .gstart msg => Sys2Proof.Machine.execGstart msg s
  | .shard msg => Sys2Proof.Machine.execShard msg s
  | .evack msg => Sys2Proof.Machine.execEvack msg s
  | .free msg => Sys2Proof.Machine.execFree msg s
  | .slice msg => Sys2Proof.Machine.execSlice msg s
  | .sack msg => Sys2Proof.Machine.execSack msg s
  | .down msg => Sys2Proof.Machine.execDown msg s
  | .qtailWrite ctx q value => Sys2Proof.Machine.execQtailWrite ctx q value s
  | .queueEnable ctx q value => Sys2Proof.Machine.execQueueEnable ctx q value s
  | .shawmFetch ctx q bytes => Sys2Proof.Machine.execShawmFetch ctx q bytes s
  | .nopPacket ctx q => Sys2Proof.Machine.execNopPacket ctx q s
  | .launch ctx q => Sys2Proof.Machine.execLaunch ctx q s
  | .copy ctx q => Sys2Proof.Machine.execCopy ctx q s
  | .indirect ctx q => Sys2Proof.Machine.execIndirect ctx q s
  | .pred ctx q => Sys2Proof.Machine.execPred ctx q s
  | .predPoll ctx q => Sys2Proof.Machine.execPredPoll ctx q s
  | .loopPacket ctx q => Sys2Proof.Machine.execLoopPacket ctx q s
  | .fetchfence ctx q => Sys2Proof.Machine.execFetchfence ctx q s
  | .graph ctx q => Sys2Proof.Machine.execGraph ctx q s
  | .signal ctx q => Sys2Proof.Machine.execSignal ctx q s
  | .launchComplete lid => Sys2Proof.Machine.execLaunchComplete lid s
  | .blockPlacement lid core => Sys2Proof.Machine.execBlockPlacement lid core s
  | .qosPeriod pkg => Sys2Proof.Machine.execQosPeriod pkg s
  | .pauseWrite ctx value => Sys2Proof.Machine.execPauseWrite ctx value s
  | .functionReset ctx => Sys2Proof.Machine.execFunctionReset ctx s
  | .registerWrite agent addr value => Sys2Proof.Machine.execRegisterWrite agent addr value s
  | .sliceEnd part vf => Sys2Proof.Machine.execSliceEnd part vf s
  | .fwTimer core => Sys2Proof.Machine.execFwTimer core s
  | .leaseLapse pkg => Sys2Proof.Machine.execLeaseLapse pkg s
  | .door agent core => Sys2Proof.Machine.execDoor agent core s
  | .evtClear core mask => Sys2Proof.Machine.execEvtClear core mask s
  | .fwstatRun core => Sys2Proof.Machine.execFwstatRun core s
  | .octlArm pkg agent => Sys2Proof.Machine.execOctlArm pkg agent s
  | .octlResetForce pkg agent => Sys2Proof.Machine.execOctlResetForce pkg agent s
  | .hando pkg agent value => Sys2Proof.Machine.execHando pkg agent value s
  | .snapctlTrig pkg agent => Sys2Proof.Machine.execSnapctlTrig pkg agent s
  | .snapctlRelease pkg agent => Sys2Proof.Machine.execSnapctlRelease pkg agent s
  | .snapFabricTrigger pkg => Sys2Proof.Machine.execSnapFabricTrigger pkg s
  | .trip pkg dom => Sys2Proof.Machine.execTrip pkg dom s
  | .pdReqOff pkg dom => Sys2Proof.Machine.execPdReqOff pkg dom s
  | .pdReqRetention pkg dom => Sys2Proof.Machine.execPdReqRetention pkg dom s
  | .pdReqOn pkg dom => Sys2Proof.Machine.execPdReqOn pkg dom s
  | .go pkg value => Sys2Proof.Machine.execGo pkg value s
  | .powerOn pkg => Sys2Proof.Machine.execPowerOn pkg s
  | .mtIeee1500Reset pkg stack => Sys2Proof.Machine.execMtIeee1500Reset pkg stack s
  | .mtImpedanceCal pkg stack => Sys2Proof.Machine.execMtImpedanceCal pkg stack s
  | .mtCaTraining pkg stack => Sys2Proof.Machine.execMtCaTraining pkg stack s
  | .mtReadEye pkg stack => Sys2Proof.Machine.execMtReadEye pkg stack s
  | .mtWriteEye pkg stack => Sys2Proof.Machine.execMtWriteEye pkg stack s
  | .mtLaneRepair pkg stack => Sys2Proof.Machine.execMtLaneRepair pkg stack s
  | .mtScrubStart pkg stack => Sys2Proof.Machine.execMtScrubStart pkg stack s
  | .mtRefreshEnable pkg stack => Sys2Proof.Machine.execMtRefreshEnable pkg stack s
  | .ltReceiverDetect pkg link => Sys2Proof.Machine.execLtReceiverDetect pkg link s
  | .ltBitLock pkg link => Sys2Proof.Machine.execLtBitLock pkg link s
  | .ltFlitLock pkg link => Sys2Proof.Machine.execLtFlitLock pkg link s
  | .ltCreditExchange pkg link => Sys2Proof.Machine.execLtCreditExchange pkg link s
  | .ltActive pkg link => Sys2Proof.Machine.execLtActive pkg link s
  | .softError space addr hard => Sys2Proof.Machine.execSoftError space addr hard s
  | .pressureEviction ctx va => Sys2Proof.Machine.execPressureEviction ctx va s
  | .scrub pkg stack => Sys2Proof.Machine.execScrub pkg stack s
  | .linkRecalibration pkg link => Sys2Proof.Machine.execLinkRecalibration pkg link s
  | .settle pkg dom => Sys2Proof.Machine.execSettle pkg dom s
  | .memoryTrainingDone pkg stack ok lane => Sys2Proof.Machine.execMemoryTrainingDone pkg stack ok lane s
  | .linkTrainingDone pkg link ok => Sys2Proof.Machine.execLinkTrainingDone pkg link ok s
  | .acqRemoteRequest op => Sys2Proof.Machine.execAcqRemoteRequest op s
  | .acqRemoteAnswer op => Sys2Proof.Machine.execAcqRemoteAnswer op s

end Sys2Proof.Machine
end

