-- ==== Sys2Proof/Machine/Fetch.lean ====
section
/-! DEFINITION. Fetching and starting an instruction (R14, R76, R85, R104 to R106, R112, R194, R427, R428); which
events may happen next; how time passes; and a state in which a given instruction is the next to be fetched. -/

namespace Sys2Proof.Machine

/-! ### Firmware cores (R18, R428) -/

/-- The class-1 ops that a firmware core does not execute: `bcast`, `pick`, `tidx`. -/
def fwClass1 (i : Instr) : Bool :=
  match i with
  | .bcast _ => false
  | .pick _ => false
  | .tidx _ => false
  | _ => true

/-- The class-4 instructions of a firmware core. -/
def fwClass4 (i : Instr) : Bool :=
  match i with
  | .jmp _ => true
  | .bru _ => true
  | .loop _ => true
  | .call _ => true
  | .ret _ => true
  | .trap _ => true
  | .tret _ => true
  | .yield _ => true
  | .sleep _ => true
  | .nop _ => true
  | .halt _ => true
  | _ => false

/-- The class-6 and class-12 instructions of a firmware core. -/
def fwOther (i : Instr) : Bool :=
  match i with
  | .ldG _ => true
  | .stG _ => true
  | .prfG _ => true
  | .ldR _ => true
  | .stR _ => true
  | .ldAcq _ => true
  | .stRel _ => true
  | .mfs _ => true
  | .mts _ => true
  | .clk _ => true
  | .snap _ => true
  | .leaseCas _ => true
  | .measure _ => true
  | .wfe _ => true
  | _ => false

/-- Whether a firmware core executes an instruction (R18, R428). -/
def fwExecutes (i : Instr) : Bool :=
  match i.parts with
  | none => (match i with
    | .clauseHeader .. => true
    | _ => false)
  | some (r, x) => x.u && (if r.cls = 1 then fwClass1 i else if r.cls = 4 then fwClass4 i else fwOther i)

/-- Whether only a firmware core executes an instruction (R18). -/
def firmwareOnly (i : Instr) : Bool := (rowOf i).fw

/-- Whether a bundle's core executes an instruction at all (R18, R428). -/
def startsOn (bk : Nat) (i : Instr) : Bool := if isFw bk then fwExecutes i else !firmwareOnly i

/-! ### The words at a PC -/

/-- What fetching a word ends in. -/
inductive Fetched where
  | word (w : Word) (s : State)
  | trap (code detail : Nat)
  /-- the page must be gathered first -/
  | wait (s : State)

/-- The virtual address of a word of a kernel's code. -/
def State.codeVa (s : State) (bk : Nat) (pc : Word) : Nat :=
  ((s.launch (s.bundle bk).launch).codeBase + 4 * pc.toNat) % 2 ^ 64

/-- Fetch one word for a bundle (R194, R427). A kernel's code lies in memory; a firmware core's in its SRAM, beyond
which there is nothing to translate to (log 20). -/
def State.fetchWordAt (s : State) (bk : Nat) (pc : Word) : Fetched :=
  if isFw bk then
    (if 0x20000 ≤ pc.toNat then .trap 0x04 (4 * pc.toNat)
     else .word (BitVec.ofNat 32 (natOfBytes (s.sramRead bk (4 * pc.toNat) 4))) s)
  else
    let va := s.codeVa bk pc
    match s.fetchAt bk va with
    | .trap c => .trap c va
    | .bad a => .trap 0x0F a
    | .wait va =>
      let c := ctxOfBundle bk
      let g := match s.pageLeaf c (pageOf va) with
        | none => 0
        | some l => leafGroup l.word
      let b := s.bundle bk
      .wait (if s.sst c (pageOf va) = 0 && !s.unperformed b.ser s.nextId b.active then s.firstTouch c g (pageOf va) else s)
    | .ok pa t => 
      let s := if (s.cached (ctxOfBundle bk) (s.sliceOf bk) (microOf bk) va).isEmpty then t.walkPage bk va else t
      match s.memBad pa 4 with
      | some a => .trap 0x0F a
      | none => .word (BitVec.ofNat 32 (natOfBytes (s.memRead pa 4))) 
        ((s.correctMem pa 4).charge (ctxOfBundle bk) 1 (Config.hbmUnits s.tick))

/-- What fetching a unit ends in. -/
inductive Unit where
  | words (l : List Word) (s : State)
  | trap (code detail : Nat)
  | wait (s : State)

/-- Fetch n words from a PC on. -/
def State.fetchUnit (s : State) (bk : Nat) (pc : Word) (n : Nat) : Unit :=
  match n with
  | 0 => .words [] s
  | k + 1 => match s.fetchWordAt bk pc with
    | .trap c d => .trap c d
    | .wait s => .wait s
    | .word w s => match State.fetchUnit s bk (pc + 1) k with
      | .words l s => .words (w :: l) s
      | .trap c d => .trap c d
      | .wait s => .wait s

/-! ### Starting an instruction -/

/-- What a lane that starts a bundle's next instruction finds: the instruction and the state in which it executes,
or a state in which none does. -/
inductive Start where
  | run (i : Instr) (s : State)
  | done (s : State)

/-- The active threads that stand at their meeting address and begin no clause there (R76). A meeting register of
0xFFFF_FFFF names none. -/
def Bundle.arrived (b : Bundle) : DWord :=
  b.active &&& b.maskWhere (fun th => th.clo == 0 && th.pc == th.meet && !th.released && th.pc != 0xFFFFFFFF)

/-- Threads park at their meeting address (R76), and releases follow (R77, R79). -/
def State.parkMeeting (s : State) (bk : Nat) (m : DWord) : State :=
  let b := s.bundle bk
  (({ s with issuing := none }.setBundle bk (b.mapThreads m (fun th => { th with cond := .meet })).rechoose).settle bk).endIfDone bk

/-- A decoded unit starts unless a decode fate applies (R112): trap 0x01. A firmware core starts what it executes, a
compute core what is not firmware-only (R18, R428). -/
def State.startUnit (s : State) (bk : Nat) (d : Except DecodeFate (Instr × Nat)) : Start :=
  match d with
  | .error _ => .done (s.trapSync bk 0x01 0)
  | .ok (i, _) =>
    if i.wellFormed && startsOn bk i then .run i s else .done (s.trapSync bk 0x01 0)

/-- A fetch ends in a fault (R194, R219, R369): 0x04 and 0x05 are raised at the target; the others are reported by the engine
that finds them, once for each record, and the path stands at the word meanwhile. -/
def State.fetchFault (s : State) (bk code detail : Nat) : State :=
  if code = 0x04 ∨ code = 0x05 then s.trapSync bk code detail
  else
    let b := s.bundle bk
    if s.reports.any (fun r => r.ser == b.ser && r.code == code && r.upc == b.pc) ||
        b.pend.any (fun r => r.code == code && r.upc == b.pc) then { s with issuing := none }
    else { s with
      issuing := none
      nextId := s.nextId + 1
      reports := s.reports ++ [{ id := s.nextId, bk := bk, ser := b.ser, code := code, eng := engineOf code, upc := b.pc
                                 threads := b.active, detail := BitVec.ofNat 64 detail }] }

/-- The unit at a path's PC, inside a clause or at a header (R104, R105, R106): a header where one must stand, no header
inside a clause, and no unit past the clause's end. -/
def State.startAt (s : State) (bk : Nat) (th : Thread) : Start :=
  match s.fetchWordAt bk th.pc with
  | .trap c d => .done (s.fetchFault bk c d)
  | .wait s => .done { s with issuing := none }
  | .word w s =>
    let header := w.toNat / 2 ^ 26 == 0
    let n := unitWords w.toNat
    if th.clo = 0 then
      (if header then s.startUnit bk (decodeWords [w]) else .done (s.trapSync bk 0x01 0))
    else if header || decide (clauseSpan th.hdr < th.clo + n) then .done (s.trapSync bk 0x01 0)
    else match s.fetchUnit bk (th.pc + 1) (n - 1) with
      | .trap c d => .done (s.fetchFault bk c d)
      | .wait s => .done { s with issuing := none }
      | .words l s => s.startUnit bk (decodeWords (w :: l))

/-- A bundle that its lane has started (R14, R76). -/
def State.start (s : State) (bk : Nat) : Start :=
  let b := s.bundle bk
  if b.arrived ≠ 0 then .done (s.parkMeeting bk b.arrived) else s.startAt bk (b.thread b.lead)

/-! ### Stalls (R15, R71) -/

/-- Whether a bundle that stalled at hand-off would stall again now. -/
def State.stallsStill (s : State) (bk : Nat) : Bool :=
  let t := { s.setBundle bk { (s.bundle bk).ready with stalled := false } with issuing := some bk }
  match t.start bk with
  | .done _ => false
  | .run i u => match exec i u with
    | .next v => (v.bundle bk).stalled
    | _ => false

/-- Bundles whose stall has ended are runnable again (R15, R71). -/
def State.endStalls (s : State) : State :=
  (s.bundles.filter (fun e => e.2.stalled && s.runs e.1 && !s.stallsStill e.1)).foldl (fun s e =>
    s.setBundle e.1 { s.bundle e.1 with stalled := false }) s

/-- Whether a unit has issued: its bundle has not stalled, and is not parked at a clause header (R71). DEDUCED (log 101): a
clause header that begins takes a turn of its own at its level. -/
def issued (b c : Bundle) (i : Instr) : Bool :=
  !c.stalled && (match i with
    | .clauseHeader w .. => b.flagsZero w.toNat || (bitsOf b.active).any (fun t => (b.thread t).tested)
    | _ => true)

/-- What follows a bundle's unit: the turn at its level moves past the bundle where the unit has issued (R71). -/
def turned (s : State) (bk : Nat) (i : Instr) (o : Host.Outcome State Fault Refusal) : Host.Outcome State Fault Refusal :=
  match o with
  | .next t => .next (if issued (s.bundle bk) (t.bundle bk) i then t.turnAt bk (s.bundle bk).prio else t)
  | o => o

/-! ### What may happen next -/

/-- What an agent of the machine may do: an event with its arguments given, as `exec` performs it. -/
abbrev Move := State → Host.Outcome State Fault Refusal

/-- The events of an operation's requests. -/
def State.requestEvents (s : State) (o : Op) (r : Req) : List Move :=
  if o.cls = 8 ∧ o.opn = 0x0B then
    (if r.stage = .home then [execAcqRemoteRequest o.id] else [execAcqRemoteAnswer o.id])
  else match r.stage with
    | .pass => []
    | .queued => if s.mayServe o r then [execBankService o.id r.uid] else []
    | .held => if s.mayServe o r then [execBankService o.id r.uid] else []
    | .walk => if s.runs o.bk then [execPageWalkComplete o.id r.uid] else []
    | .shard => if s.runs o.bk && s.mayReplay o r then [execPageWalkComplete o.id r.uid] else []
    | .home => if s.runs o.bk then [execHomePerform o.id r.uid] else []
    | .wait => if s.runs o.bk then [execHomePerform o.id r.uid] else []
    | .fabric => if r.claim then [execHomePerform o.id r.uid] else []

/-- The events of an operation. -/
def State.opEvents (s : State) (o : Op) : List Move :=
  (if s.mayPass o then [passMove o.id] else []) ++ o.reqs.flatMap (s.requestEvents o) ++
    ((List.range o.ws.length).filter (fun k => (o.ws[k]?).any (fun w => w.t != 65))).map (fun k => execResultWriteback o.id k) ++
    (if o.reqs.isEmpty && o.ws.isEmpty then [execEngineArrival o.id] else [])

/-- The events of a packet. -/
def State.packetEvents (s : State) (p : Packet) : List Move :=
  (if !s.onLink p then [] else match p.op with
    | 0 => [execWritePacket p.id, execXqPushArrival p.id]
    | 1 => [execReadRequest p.id]
    | 2 => [execReadReply p.id]
    | 3 => [execAtomicRequest p.id]
    | 4 => [execAtomicReply p.id]
    | 5 => [execAcknowledgement p.id]
    | _ => [execDropNotice p.id]) ++
  (if p.waits s.cycle false then [execEscapeMove p.id] else []) ++ (if p.waits s.cycle true then [execEscapeDrop p.id] else [])

/-- The event of a message between slices. -/
def msgEvent (m : Msg) : Move :=
  match m.kind with
  | 0 => execProp m.id
  | 1 => execReply m.id
  | 2 => execGstart m.id
  | 3 => execShard m.id
  | 4 => execEvack m.id
  | 5 => execFree m.id
  | 6 => execSlice m.id
  | 7 => execSack m.id
  | _ => execDown m.id

/-- The events of a message between slices: it is received, or its channel gives it up (R329). -/
def State.msgEvents (s : State) (m : Msg) : List Move :=
  msgEvent m :: ((if m.waits s.cycle false then [execEscapeMove m.id] else []) ++
    (if m.waits s.cycle true then [execEscapeDrop m.id] else []))

/-- The events of a core's queues. -/
def coreEvents (e : Nat × Core) : List Move :=
  (if e.2.mxOpen.isEmpty then [] else [execTilePortDispatch e.1, execLoopStep e.1]) ++
    (if e.2.sq.isEmpty then [] else [execSigDispatch e.1])

/-- The event of the next packet of a queue. -/
def packetEventOf (c q : Nat) (w : DWord) : List Move :=
  match pkKind w with
  | 0 => [execNopPacket c q]
  | 1 => [execLaunch c q]
  | 2 => [execCopy c q]
  | 3 => [execIndirect c q]
  | 4 => [execPred c q]
  | 5 => [execLoopPacket c q]
  | 6 => [execFetchfence c q]
  | 7 => [execGraph c q]
  | 8 => [execSignal c q]
  | _ => []

/-- The events of a queue: what has begun goes on, the Shawm fetches ahead (R392), and the next packet begins where it may, or
stops the queue (R387). -/
def State.queueEvents (s : State) (c q : Nat) : List Move :=
  let x := (s.fn c).queue q
  (if x.owes.isEmpty then [] else [execShawmFetch c q 0]) ++
  (if x.signal.isSome then [execSignal c q] else if x.polling.isSome || x.skip != 0 then [execPredPoll c q] else []) ++
  (if s.queueTurns c q then
    execShawmFetch c q (8 * Config.fetchAhead s.tick) ::
      (if s.canBegin c q then (match (State.unwind 16 s c q).nextPacket c q with
        | .packet ws _ => packetEventOf c q (ws.getD 0 0)
        | .error _ _ => [execNopPacket c q]
        | .wait _ => [execShawmFetch c q 8])
      else [])
  else [])

/-- The events of a function. -/
def State.fnEvents (s : State) (e : Nat × Fn) : List Move :=
  (e.2.q.flatMap (fun q => s.queueEvents e.1 q.1)) ++ (if e.2.reset then [execFunctionReset e.1] else [])

/-- The events of a launch. -/
def State.launchEvents (s : State) (e : Nat × Launch) : List Move :=
  let x := e.2
  if x.complete then []
  else
    (if s.launchOver e.1 then [execLaunchComplete e.1] else []) ++
      (if s.nextLaunch x.ctx = some e.1 then
        (List.range (s.coresOf (partOfCtx x.ctx))).map (fun c => execBlockPlacement e.1 c) else []) ++
      (if x.collOp = 0 then [] else (List.range x.chunks).flatMap (fun k =>
        (if x.posted.contains k then [] else [execCollChunkPost e.1 k]) ++
          (if x.landed.contains k then [] else [execCollCombine e.1 k])))

/-- The events of a bundle. -/
def State.bundleEvents (s : State) (e : Nat × Bundle) : List Move :=
  (if s.mayStart e.1 then (if (s.bundle e.1).takesRecord then [execTrapEntry e.1] else [execLaneIssue e.1]) else []) ++
    (if s.sleepOver e.1 then [execSleepExpiry e.1] else [])

/-- The events of a package. -/
def State.pkgEvents (s : State) (e : Nat × Pkg) : List Move :=
  let p := e.2
  (p.surge.filter (fun x => !x.2.isEmpty)).map (fun x => execSurgeGrant (8 * e.1 + x.1)) ++
    ((List.range 48).filter (s.settleDue e.1)).map (fun d => execSettle e.1 d) ++
    ((List.range 16).filter (fun n => s.timerDue (16 * e.1 + n))).map (fun n => execFwTimer (16 * e.1 + n)) ++
    (if s.lapseSeen e.1 && (List.range 16).any (fun n => !(FMap.look p.evt 0 n).getLsbD 1) then [execLeaseLapse e.1] else []) ++
    (p.missed.filter (fun x => !(s.losers x.1).isEmpty)).map (fun x => execLeaseLapse x.1) ++
    (if p.octlBusy then [if p.octlCmd = 1 then execOctlArm e.1 agentHome else execOctlResetForce e.1 agentHome] else []) ++
    (p.links.filter (fun x => s.linkIdle (256 * e.1 + x.1))).map (fun x => execIdleFlit (256 * e.1 + x.1))

/-- The events of a partition. -/
def partEvents (e : Nat × Part) : List Move :=
  match e.2.ending with
  | none => []
  | some v => [execSliceEnd e.1 v]

/-- Every event that the machine's own agents may make happen next. -/
def State.ownEvents (s : State) : List Move :=
  s.bundles.flatMap s.bundleEvents ++ s.reports.map (fun r => execFaultReport r.id) ++ s.ops.flatMap s.opEvents ++
    s.pkts.flatMap s.packetEvents ++ s.rows.map (fun r => execXqRowLanding r.id) ++ s.msgs.flatMap s.msgEvents ++
    s.cores.flatMap coreEvents ++ s.fns.flatMap s.fnEvents ++ s.launches.flatMap s.launchEvents ++
    s.pkgs.flatMap s.pkgEvents ++ s.parts.flatMap partEvents

/-- Whether a syntax term is an event, not an instruction of a bundle. -/
def isEvent (i : Instr) : Bool :=
  match i with
  | .clauseHeader .. => false
  | i => i.parts.isNone

/-- The state once the outside world's next event has been taken. -/
def State.dropInput (s : State) : State := { s with inputs := s.inputs.drop 1 }

/-- The outside world's next event happens. -/
def takeInput (i : Instr) (s : State) : Host.Outcome State Fault Refusal := exec i s.dropInput

/-- What may happen next: the outside world's next event, or one of the machine's own. -/
def State.choices (s : State) : List Move := ((s.inputs.take 1).filter isEvent).map takeInput ++ s.ownEvents

/-- The one that happens: where several may, the choice is free (R31, R43; log 3). -/
def State.chosen (s : State) : Option Move :=
  match s.choices with
  | [] => none
  | [x] => some x
  | x :: l => ((x :: l)[Config.pick s.tick % (l.length + 1)]?)

/-! ### Time (R12, R229) -/

/-- Time passes: the step counter, the package clocks, and the active cycles of the contexts that run. -/
def State.advanceBy (s : State) (d : Nat) : State :=
  { s with
    tick := s.tick + 1
    cycle := s.cycle + d
    ctxs := s.ctxs.map (fun (e : Nat × Ctx) => if e.2.running then (e.1, { e.2 with active := e.2.active + d }) else e) }

/-- The time of one event passes (log 6). -/
def State.advance (s : State) : State := s.advanceBy (Config.elapsed s.tick)

/-- A package with a period boundary behind it whose refill is still to come (R403). -/
def State.duePeriod (s : State) : Option Nat := (s.pkgs.find? (fun e => s.periodDue e.1)).map (fun e => e.1)

/-! ### A state that fetches a given instruction next -/

/-- The bytes of the words of a numeral, five words at most. -/
def wordBytes (w : Nat) : List Byte := bytesOfNat 20 (w % 2 ^ 160)

/-- The page tables of a probe, whose context's descriptor stands at 0x1000: a root at 0x2000 and three tables below it, and one page that may be fetched, read and
written at 0xA000, for the virtual addresses below 8 KiB (R361, R362). -/
def State.probeTables (s : State) : State :=
  (((s.memWrite 0x2000 (bytesOfNat 8 0x4001)).memWrite 0x4000 (bytesOfNat 8 0x6001)).memWrite 0x6000
    (bytesOfNat 8 0x8001)).memWrite 0x8000 (bytesOfNat 8 0xA00F)

/-- The bundle of a probe: sixteen threads of which the first runs at a PC. -/
def probeBundle (pc : Word) (clo : Nat) : Bundle :=
  { ser := 1, launch := 1, width := 16, allot := 64, dmax := 8
    thr := (0, { cond := .running, pc := pc, meet := 0xFFFFFFFF, clo := clo, hdr := 0x3FFF }) ::
      (List.range' 1 15).map (fun t => (t, {}))
    active := 1 }

/-- A state whose next instruction is fetched by a compute core: one package, partition, context and launch, with the
code at virtual address 0. -/
def State.probeKernel (s : State) (header : Bool) (w : Nat) : State :=
  let p := s.pkg 0
  let s := s.setPkg 0 { p with hbm := FMap.put p.hbm 0 { FMap.look p.hbm {} 0 with inService := true } }
  let s := s.setPart 0 { s.part 0 with layers := 1, remap := FMap.put (s.part 0).remap 0 1, cur := some 0 }
  let s := (s.setCtx 0 { s.ctx 0 with desc := 0x1000, running := true, tlb := [] }).memWrite 0x1000 (bytesOfNat 8 0x2000)
  let s := s.setLaunch 1 { s.launch 1 with ctx := 0, codeBase := 0 }
  let s := (s.probeTables.memWrite (if header then 0xA000 else 0xA004) (wordBytes w))
  { s.setBundle 0 (if header then probeBundle 0 0 else probeBundle 1 1) with issuing := some 0 }

/-- A state whose next instruction is fetched by firmware core 0, from its SRAM. -/
def State.probeFirmware (s : State) (w : Nat) : State :=
  let b := { fwBundle 1 0 with thr := [(0, { cond := .running, pc := 1, clo := 1, hdr := 0x3FFF })] }
  let s := s.setPkg 0 (s.pkg 0)
  let s := s.sramWrite (fwKey 0 0) 4 (wordBytes w)
  { s.setBundle (fwKey 0 0) b with issuing := some (fwKey 0 0) }

/-- The state with an instruction stored where the next step fetches it; a bundle's lane has been given to it. -/
def State.probe (s : State) (nbits w : Nat) : State :=
  let v := w % 2 ^ nbits
  match decodeTableWord nbits w with
  | none => s.probeKernel (v % 2 ^ 32 / 2 ^ 26 == 0) v
  | some i => if firmwareOnly i then s.probeFirmware v else s.probeKernel (v % 2 ^ 32 / 2 ^ 26 == 0) v

end Sys2Proof.Machine
end

