-- ==== Sys2Proof/Machine/Step.lean ====
section
/-! DEFINITION. One step of the machine. -/

namespace Sys2Proof.Machine

/-- An outcome with the time that the step took: none between a lane's start of a bundle and the bundle's unit. -/
def timed (o : Host.Outcome State Fault Refusal) : Host.Outcome State Fault Refusal :=
  match o with
  | .next s => .next (if s.issuing.isSome then s.advanceBy 0 else s.advance)
  | .fault f => .fault f
  | .refused r => .refused r

/-- One step: a period boundary that is due comes first (R403); then the bundle that its lane has started executes
its unit (R14); otherwise one of the events that may happen does; where none may, only time passes, a cycle at least. -/
def step (s : State) : Host.Outcome State Fault Refusal :=
  match s.duePeriod with
  | some pkg => timed (execQosPeriod pkg s)
  | none => match s.issuing with
    | some bk => (match s.start bk with
      | .run i t => timed (turned t bk i (exec i t))
      | .done t => .next t.advance)
    | none => (match s.endStalls.chosen with
      | some f => timed (f s.endStalls)
      | none => .next (s.advanceBy (Config.elapsed s.tick + 1)))

/-- The state with an instruction stored where step fetches its next one: a lane has been given to a bundle whose first
running thread stands at it, inside a clause of 63 words, or at the header that a class-0 word is (log 31). -/
def State.withFetchWord (s : State) (nbits w : Nat) : State := s.probe nbits w

end Sys2Proof.Machine
end

