-- ==== Sys2Proof/Safety.lean ====
section
/-! DEFINITION. What statements say about a run, in one place: a safe step, the canonical form of memory, and, written
from the manual apart from the machine's own operations, the effect of an instruction on one thread's registers. -/

namespace Sys2Proof.Machine

/-- A step is safe when it answers a next state. -/
def Safe (o : Host.Outcome State Fault Refusal) : Prop := ∃ t, o = .next t

/-- The three byte spaces are in canonical form: HBM, the pool and the firmware cores' SRAM. -/
def State.canonical (s : State) : Prop :=
  Memory.wf s.mem = true ∧ FMap.canon s.pool 0 = true ∧ FMap.canon s.sram 0 = true

/-! ### A unit that passes -/

/-- A lane has started a bundle's unit, and no register number of it is out of bounds (R60). -/
def Passes (s : State) (bk : Nat) (r : Row) (x : Enc) : Prop :=
  s.issuing = some bk ∧ (s.bundle bk).regFault r x = none

/-- The state in which a bundle has its unit behind it: only that bundle has changed, and the lane is free. -/
def after (s : State) (bk : Nat) (b : Bundle) : State := { s with bundles := FMap.put s.bundles bk b, issuing := none }

/-- The threads of a bundle whose path has gone on by the words of a unit. -/
def pastUnit (b : Bundle) (x : Enc) : FMap Thread := (b.advance (unitLen x)).thr

/-! ### The registers of one thread -/

/-- One thread's vector registers by number. -/
abbrev Regs := Nat → Word

/-- The registers of a thread of a bundle. -/
def Bundle.regs (b : Bundle) (t : Nat) : Regs := fun n => b.vreg t n

/-- An operand in one register or, low half first, in a pair (R94). -/
def regGet (wide : Bool) (r : Regs) (n : Nat) : Nat := (r n).toNat + (if wide then 2 ^ 32 * (r (n + 1)).toNat else 0)

/-- The registers with one register or a pair written (R94). -/
def regPut (wide : Bool) (r : Regs) (n v : Nat) : Regs := fun k =>
  if k = n then BitVec.ofNat 32 v else if wide = true ∧ k = n + 1 then BitVec.ofNat 32 (v / 2 ^ 32) else r k

/-- The positions of a unit one after another, each seeing the registers that the ones before it left (R98): `dst` is
the destination's number, `val` the result at a position. -/
def blockRun (wide : Bool) (ks : List Nat) (dst : Nat) (val : Regs → Nat → Nat) (r : Regs) : Regs :=
  ks.foldl (fun r k => regPut wide r (dst + k) (val r k)) r

/-- Zeroing at the positions of a unit (R96), where the destination lies below the allotment. -/
def blockZero (wide : Bool) (ks : List Nat) (dst allot : Nat) (r : Regs) : Regs :=
  ks.foldl (fun r k => if dst + k < allot then regPut wide r (dst + k) 0 else r) r

/-- The registers that a vector form leaves: an executing thread's results, zeros for a thread that zeroing reaches,
and every other register of every thread as it was (R96, R98, R160). -/
def VectorResult (b : Bundle) (v : FMap Word) (x : Enc) (wide : Bool) (step : Nat) (val : Nat → Regs → Nat → Nat) : Prop :=
  ∀ t n, t < 64 → FMap.look v 0 (64 * n + t) =
    (if hasBit (b.executing x) t then blockRun wide (positions x step) (b.num x 3 x.d t) (val t) (b.regs t)
     else if hasBit (b.zeroed x) t then blockZero wide (positions x step) (b.num x 3 x.d t) b.allot (b.regs t)
     else b.regs t) n

/-! ### Integer results (R158, R162 to R167) -/

/-- The low n bits of a pattern as a number, signed or not (R158). -/
def readAs (sg : Bool) (n v : Nat) : Int :=
  if sg = true ∧ 2 ^ (n - 1) ≤ v % 2 ^ n then ((v % 2 ^ n : Nat) : Int) - (2 ^ n : Nat) else ((v % 2 ^ n : Nat) : Int)

/-- A number's pattern of n bits. -/
def patternOf (n : Nat) (v : Int) : Nat := (v % ((2 ^ n : Nat) : Int)).toNat

/-- The field that a control word of `bfe` and `bfi` names in n bits: its position and length (R164). -/
def fieldOf (n ctl : Nat) : Nat × Nat := (min (ctl % 256) n, min (ctl / 256 % 256) (n - min (ctl % 256) n))

/-- The exact result of an integer instruction on patterns of n bits, before it is reduced modulo 2^n; `c` is the
selector of `sel` (R162 to R165, R167). -/
def intValue (i : Instr) (sg : Bool) (n a b c : Nat) : Option Int :=
  let k := b % 256
  match i with
  | .add _ => some (readAs sg n a + readAs sg n b)
  | .sub _ => some (readAs sg n a - readAs sg n b)
  | .mul _ => some (readAs sg n a * readAs sg n b)
  | .mulhi _ => some (readAs sg n a * readAs sg n b / ((2 ^ n : Nat) : Int))
  | .mad _ => some (readAs sg n a * readAs sg n b + readAs sg n c)
  | .min _ => some (Min.min (readAs sg n a) (readAs sg n b))
  | .max _ => some (Max.max (readAs sg n a) (readAs sg n b))
  | .abs _ => some (if readAs sg n a < 0 then -readAs sg n a else readAs sg n a)
  | .neg _ => some (-readAs sg n a)
  | .and _ => some ((a % 2 ^ n &&& b % 2 ^ n : Nat) : Int)
  | .or _ => some ((a % 2 ^ n ||| b % 2 ^ n : Nat) : Int)
  | .xor _ => some ((a % 2 ^ n ^^^ b % 2 ^ n : Nat) : Int)
  | .andn _ => some ((a % 2 ^ n &&& (2 ^ n - 1 - b % 2 ^ n) : Nat) : Int)
  | .not _ => some ((2 ^ n - 1 - a % 2 ^ n : Nat) : Int)
  | .shl _ => some ((if k < n then a % 2 ^ n * 2 ^ k else 0 : Nat) : Int)
  | .shr _ => some ((if k < n then a % 2 ^ n / 2 ^ k else 0 : Nat) : Int)
  | .sar _ => some (readAs true n a / ((2 ^ min k (n - 1) : Nat) : Int))
  | .rot _ => some ((a % 2 ^ n * 2 ^ (k % n) + a % 2 ^ n / 2 ^ (n - k % n) : Nat) : Int)
  | .clz _ => some ((n - Nat.size (a % 2 ^ n) : Nat) : Int)
  | .popc _ => some ((((List.range n).filter (fun j => a.testBit j)).length : Nat) : Int)
  | .bfe _ => some (readAs sg (fieldOf n b).2 (a % 2 ^ n / 2 ^ (fieldOf n b).1))
  | .bfi _ => some ((a % 2 ^ n - a % 2 ^ n / 2 ^ (fieldOf n b).1 % 2 ^ (fieldOf n b).2 * 2 ^ (fieldOf n b).1 +
      c % 2 ^ (fieldOf n b).2 * 2 ^ (fieldOf n b).1 : Nat) : Int)
  | .sel _ => some (if c = 0 then readAs sg n b else readAs sg n a)
  | .mov _ => some (readAs sg n a)
  | .movi x => some (match constB x with
    | some v => (v.toNat : Int)
    | none => if sg then (imm24 x).toInt else ((imm24 x).toNat : Int))
  | _ => none

/-- Operand b where the unit gives it as a constant: the literal, the immediate, or the control word in imm24 (R92,
R95, R164). -/
def constOperand (i : Instr) (x : Enc) : Option Nat :=
  match i with
  | .bfe _ => if x.i then some (imm24 x).toNat else (constB x).map BitVec.toNat
  | .bfi _ => if x.i then some (imm24 x).toNat else (constB x).map BitVec.toNat
  | _ => (constB x).map BitVec.toNat

/-- The result of an integer instruction for a thread at a position, from its registers (R94, R98, R100). -/
def threadValue (i : Instr) (r : Row) (x : Enc) (b : Bundle) (t : Nat) (g : Regs) (k : Nat) : Nat :=
  let n := if r.wide x then 64 else 32
  let va := regGet (r.wide x) g (b.num x 1 x.a t + k)
  let vb := (constOperand i x).getD (regGet (1 < r.b.span r x) g (b.num x 2 x.b t + k))
  let vc := match i with
    | .sel _ => if hasBit (b.mreg x.c.toNat) t then 1 else 0
    | _ => regGet (r.wide x) g (x.c.toNat + k)
  patternOf n ((intValue i (x.ty.toNat % 2 == 0) n va vb vc).getD 0)

/-- The result of an integer instruction's U form: the N bits, extended by the signedness of the type (R94). -/
def uniformValue (i : Instr) (r : Row) (x : Enc) (b : Bundle) : DWord :=
  let n := if r.wide x then 64 else 32
  let va := (b.sreg x.a.toNat).toNat
  let vb := (constOperand i x).getD (b.sreg x.b.toNat).toNat
  let vc := (b.sreg x.c.toNat).toNat
  BitVec.ofInt 64 (readAs (x.ty.toNat % 2 == 0) n
    (patternOf n ((intValue i (x.ty.toNat % 2 == 0) n va vb vc).getD 0)))

/-! ### Taking a trap (R222 to R224) -/

/-- What entering a handler leaves of a bundle: the trap state in s60 to s63, the old ones and the priority in the hidden
save with the handler set, priority 4, and the set's threads at the vector clause; every other register and every thread
outside the set is as it was. -/
def Entered (b c : Bundle) (vec upc rpc : Word) (kind cnt eng code : Nat) (tmask detail : DWord) : Prop :=
  c.sreg 60 = BitVec.ofNat 64 (upc.toNat * 2 ^ 32 + kind * 2 ^ 26 + cnt * 2 ^ 16 + eng * 2 ^ 8 + code) ∧
  c.sreg 61 = rpc.zeroExtend 64 ∧ c.sreg 62 = tmask ∧ c.sreg 63 = detail ∧
  (∀ n, n ≠ 60 → n ≠ 61 → n ≠ 62 → n ≠ 63 → c.sreg n = b.sreg n) ∧
  c.prio = 4 ∧ c.trapReg = c.sreg 60 ∧
  (∃ h, c.hidden = some h ∧ h.s60 = b.sreg 60 ∧ h.s61 = b.sreg 61 ∧ h.s62 = b.sreg 62 ∧ h.s63 = b.sreg 63 ∧
    h.prio = b.prio ∧ h.hs = b.active) ∧
  c.thr = b.thr.map (fun (e : Nat × Thread) =>
    if hasBit b.active e.1 then (e.1, { e.2 with pc := vec, clo := 0, released := false, tested := false }) else e) ∧
  c = { b with s := c.s, prio := c.prio, trapReg := c.trapReg, hidden := c.hidden, thr := c.thr }

/-! ### Paths (R74, R194, R195) -/

/-- A bundle's active set is the path of R74: of the candidates the one of greatest depth, the lowest-indexed first, and
all that stand at its PC, at the same place of the same clause (notes/assumptions/79.md); none where there is no
candidate. -/
def Bundle.onChosenPath (b : Bundle) : Prop :=
  (b.candidates = 0 ∧ b.active = 0) ∨
  ∃ t, t < 64 ∧ hasBit b.candidates t = true ∧
    (∀ u, u < 64 → hasBit b.candidates u = true →
      (b.thread u).depth < (b.thread t).depth ∨ ((b.thread u).depth = (b.thread t).depth ∧ t ≤ u)) ∧
    b.active = b.candidates &&& b.maskWhere (fun th => th.pc == (b.thread t).pc && th.clo == (b.thread t).clo &&
      (th.clo == 0 || th.hdr == (b.thread t).hdr))

/-- Whether every flag of a wait mask is zero (R108). -/
def flagsClear (b : Bundle) (w : BitVec 12) : Bool := (List.range 12).all (fun k => !w.getLsbD k || b.flag k == 0)

/-- Where a control transfer takes a thread of the path, if it takes it: an offset counts from the unit's own PC, a
register gives the word itself (R194, R195). -/
def targetOf (i : Instr) (x : Enc) (b : Bundle) (t : Nat) : Option Word :=
  let there := b.pc + ctlOffset x
  match i with
  | .jmp _ => some there
  | .br _ => if hasBit (b.executing x) t && hasBit (b.mreg x.d.toNat) t then some there else none
  | .bru _ => if b.sreg x.d.toNat = 0 then none else some there
  | .brx _ => if hasBit (b.executing x) t then some (b.vreg t x.a.toNat) else none
  | .call _ => if x.u || hasBit (b.executing x) t then some there else none
  | .callx _ => if hasBit (b.executing x) t then some (b.vreg t x.a.toNat) else none
  | .ret _ => if x.u then some ((b.sreg x.a.toNat).truncate 32)
      else if hasBit (b.executing x) t then some (b.vreg t x.a.toNat) else none
  | .loop _ => if b.sreg x.d.toNat = 1 then none else some there
  | _ => none

/-- A thread of the path after a control unit: at its target, where a header must stand, or at the next unit. -/
def movedThread (i : Instr) (x : Enc) (b : Bundle) (e : Nat × Thread) : Nat × Thread :=
  if hasBit b.active e.1 then
    (match targetOf i x b e.1 with
      | some p => (e.1, { e.2 with pc := p, clo := 0, released := false, tested := false })
      | none => (e.1, e.2.advance (unitLen x)))
  else e

/-- The control transfers (R195). -/
def isTransfer (i : Instr) : Bool :=
  match i with
  | .jmp _ | .br _ | .bru _ | .brx _ | .call _ | .callx _ | .ret _ | .loop _ => true
  | _ => false

/-- The word after a unit, where `call` and `callx` return to. -/
def linkOf (b : Bundle) (x : Enc) : Word := b.pc + BitVec.ofNat 32 (unitLen x)

/-- Whether a unit writes the link register of each executing thread. -/
def linksThreads (i : Instr) (x : Enc) : Bool :=
  match i with
  | .call _ => !x.u
  | .callx _ => true
  | _ => false

/-- The uniform registers after a control transfer: the U-form `call` writes its link, `loop` counts down. -/
def sregAfter (i : Instr) (x : Enc) (b : Bundle) (n : Nat) : DWord :=
  match i with
  | .call _ => if x.u = true ∧ n = x.d.toNat then (linkOf b x).zeroExtend 64 else b.sreg n
  | .loop _ => if n = x.d.toNat then b.sreg n - 1 else b.sreg n
  | _ => b.sreg n

/-! ### Integer compares, addresses and index registers (R166, R168, R174) -/

/-- The relation of a compare on integers (R166). -/
def intRelation (i : Instr) (a b : Int) : Option Bool :=
  match i with
  | .cmpEq _ => some (decide (a = b))
  | .cmpNe _ => some (!decide (a = b))
  | .cmpLt _ => some (decide (a < b))
  | .cmpLe _ => some (decide (a ≤ b))
  | .cmpGt _ => some (decide (b < a))
  | .cmpGe _ => some (decide (b ≤ a))
  | _ => none

/-- Operand a of a thread as a pattern of the operand width. -/
def patternA (r : Row) (x : Enc) (b : Bundle) (t : Nat) : Nat := regGet (r.wide x) (b.regs t) (b.num x 1 x.a t)

/-- Operand b of a thread, a constant or a register of the operand width. -/
def patternB (r : Row) (x : Enc) (b : Bundle) (t : Nat) : Nat :=
  ((constB x).map BitVec.toNat).getD (regGet (r.wide x) (b.regs t) (b.num x 2 x.b t))

/-- What a compare makes of a thread's bit of its mask (R166, R96). -/
def comparedBit (i : Instr) (r : Row) (x : Enc) (b : Bundle) (t : Nat) : Bool :=
  let n := if r.wide x then 64 else 32
  let sg := x.ty.toNat % 2 == 0
  (intRelation i (readAs sg n (patternA r x b t)) (readAs sg n (patternB r x b t))).getD false

/-- The masks that an instruction leaves which writes a bit of mask d for each executing thread: under zeroing a thread
that the mask leaves out has its bit cleared; bits from the width on are 0 in a written mask; m0 and every other mask are as
they were (R63, R96, R166). -/
def MaskResult (b c : Bundle) (x : Enc) (d : Nat) (p : Nat → Bool) : Prop :=
  c.active = b.active ∧ ∀ k t, t < 64 → k ≠ 0 → hasBit (c.mreg k) t =
    if k = d then decide (t < b.width) &&
      (if hasBit (b.executing x) t then p t else !hasBit (b.zeroed x) t && hasBit (b.mreg k) t)
    else hasBit (b.mreg k) t

/-- The address that `lea` forms from a base and an index of the type, shifted, and a displacement (R168). -/
def leaValue (x : Enc) (base index : Nat) : Nat :=
  let v := if x.ty = 0 then readAs true 32 index else if x.ty = 1 then readAs false 32 index else (index : Int)
  patternOf 64 ((base : Int) + v * 2 ^ ((imm24 x).toNat / 2 ^ 21) + readAs true 21 (imm24 x).toNat)

/-- The register that `movr` and `movw` name: an index register plus the immediate, if one is given (R174). -/
def namedRegister (x : Enc) (b : Bundle) (t k : Nat) : Int := ((b.ireg t k).toNat : Int) + (if x.i then x.imm else 0)

/-! ### Handing an operation off (R14, R107) -/

/-- A lane has started a long-latency unit whose registers are in bounds, its flag can count one more operation, and no
fence holds its hand-off back. -/
def MayHandOff (s : State) (bk : Nat) (r : Row) (x : Enc) : Prop :=
  Passes s bk r x ∧ (∀ k, (s.bundle bk).flagFor x = some k → (s.bundle bk).flag k < 63) ∧
    s.fenced (s.bundle bk) r.cls r.op = false

/-- The operations in progress have numbers below the one that the next operation gets. -/
def State.numbered (s : State) : Prop := ∀ o, o ∈ s.ops → o.id < s.nextId

/-- The bundle after the hand-off of an operation: one more counts on the flag, its path stands at the next unit, and the threads
of a release or a fence are noted (R45, case 1). -/
def handedOff (b : Bundle) (x : Enc) (o : Op) : Bundle :=
  { (match b.flagFor x with
      | none => b
      | some k => b.setFlag k (b.flag k + 1)) with
    thr := pastUnit b x, rel := if o.publishes then b.rel ||| o.ex else b.rel }

/-- The state after a hand-off of an operation: it is in progress, and nothing else but its bundle has changed. -/
def withOp (s : State) (bk : Nat) (x : Enc) (o : Op) : State :=
  { after s bk (handedOff (s.bundle bk) x o) with nextId := s.nextId + 1, ops := s.ops ++ [o] }

/-- An operation is the one that a bundle's unit starts: numbered next, for that bundle, on the flag that F selects. -/
def StartedBy (s : State) (bk : Nat) (x : Enc) (o : Op) : Prop :=
  o.id = s.nextId ∧ o.bk = bk ∧ o.ser = (s.bundle bk).ser ∧ o.launch = (s.bundle bk).launch ∧
    o.flag = (s.bundle bk).flagFor x ∧ o.upc = (s.bundle bk).pc ∧ o.failed = false ∧ o.counted = none

/-- An operation that reads no memory: only its results have still to land. -/
def OnlyResults (o : Op) (ws : List WB) : Prop := o.reqs = [] ∧ o.ws = ws ∧ o.fin = .none ∧ o.early = false

/-! ### Cross-lane values (R169 to R173) -/

/-- The result of a cross-lane instruction for an executing thread, on the sources of all executing threads (R170 to
R172). -/
def crossValue (i : Instr) (r : Row) (x : Enc) (b : Bundle) (t : Nat) : Option Nat :=
  let ex := bitsOf (b.executing x)
  let n := if r.wide x then 64 else 32
  let sg := x.ty.toNat % 2 == 0
  let src (u : Nat) : Nat := patternA r x b u
  let low (u : Nat) : Nat := regGet false (b.regs u) (b.num x 1 x.a u)
  let q := ((constB x).map BitVec.toNat).getD (regGet false (b.regs t) (b.num x 2 x.b t)) % 256
  let source (j : Int) : Nat := if 0 ≤ j ∧ j < (b.width : Int) ∧ j.toNat ∈ ex then src j.toNat else src t
  match i with
  | .shfl _ => some (source ((q % 64 : Nat) : Int))
  | .shflUp _ => some (source ((t : Int) - (q : Int)))
  | .shflDn _ => some (source ((t : Int) + (q : Int)))
  | .shflX _ => some (source ((t ^^^ q : Nat) : Int))
  | .ballot _ => some (((ex.filter (fun u => low u != 0)).map (2 ^ ·)).sum)
  | .matchOp _ => some (((ex.filter (fun u => src u == src t)).map (2 ^ ·)).sum)
  | .reduxAdd _ => some ((ex.map src).sum % 2 ^ n)
  | .reduxMin _ => some (patternOf n ((ex.map (fun u => readAs sg n (src u))).foldl Min.min (readAs sg n (src t))))
  | .reduxMax _ => some (patternOf n ((ex.map (fun u => readAs sg n (src u))).foldl Max.max (readAs sg n (src t))))
  | .reduxAnd _ => some ((ex.map src).foldl (· &&& ·) (2 ^ n - 1))
  | .reduxOr _ => some ((ex.map src).foldl (· ||| ·) 0)
  | .scanAdd _ => some (((ex.filter (fun u => decide (u ≤ t))).map src).sum % 2 ^ n)
  | .scanXadd _ => some (((ex.filter (fun u => decide (u < t))).map src).sum % 2 ^ n)
  | _ => none

/-- Whether a cross-lane instruction's destination is a pair. -/
def crossPair (i : Instr) (r : Row) (x : Enc) : Bool :=
  match i with
  | .ballot _ => true
  | .matchOp _ => true
  | _ => r.wide x

/-- The bit that a vote or `elect` writes for an executing thread (R171). -/
def crossBit (i : Instr) (x : Enc) (b : Bundle) (t : Nat) : Option Bool :=
  let ex := bitsOf (b.executing x)
  let holds (u : Nat) : Bool := b.vreg u (b.num x 1 x.a u) != 0
  match i with
  | .voteAny _ => some (ex.any holds)
  | .voteAll _ => some (ex.all holds)
  | .elect _ => some (ex.all (fun u => decide (t ≤ u)))
  | _ => none

/-- The register of a lane that `bcast` and `pick` return, extended by the type (R94, R173). -/
def laneResult (r : Row) (x : Enc) (b : Bundle) (t : Nat) : DWord :=
  BitVec.ofInt 64 (readAs (x.ty.toNat % 2 == 0) (if r.wide x then 64 else 32) (regGet (r.wide x) (b.regs t) x.a.toNat))

/-- The register writes of a result in one register or a pair. -/
def resultWrites (wide : Bool) (n v : Nat) : List RegW :=
  .v n (BitVec.ofNat 32 v) :: if wide then [.v (n + 1) (BitVec.ofNat 32 (v / 2 ^ 32))] else []

/-- The results of a vector form that land later: one for each executing thread, and zeros, where the destination lies
below the allotment, for each thread that zeroing reaches (R96, R169). -/
def laterResults (b : Bundle) (x : Enc) (wide : Bool) (val : Nat → Nat) : List WB :=
  (bitsOf (b.executing x)).map (fun t => { t := t, ws := resultWrites wide (b.num x 3 x.d t) (val t) }) ++
  (bitsOf (b.zeroed x)).map (fun t =>
    { t := t, ws := if b.num x 3 x.d t < b.allot then resultWrites wide (b.num x 3 x.d t) 0 else [] })

/-! ### Floating-point results (R142, R176 to R187) -/

/-- The rational number of a finite value. -/
def FVal.rat (v : FVal) : Rat :=
  match v with
  | .fin neg m e => (if neg then -1 else 1) * (m : Rat) * (2 : Rat) ^ e
  | _ => 0

/-- A finite value. -/
def FVal.isFin (v : FVal) : Bool :=
  match v with
  | .fin .. => true
  | _ => false

/-- The magnitude that number c counts from zero up in a wide format whose exponents have no upper bound: below the code
of infinity these are the format's finite magnitudes (R142). -/
def WFmt.magnitude (f : WFmt) (c : Nat) : Rat :=
  if c / 2 ^ (f.p - 1) = 0 then (c : Rat) * (2 : Rat) ^ (1 - (f.bias : Int) - ((f.p : Int) - 1))
  else ((c % 2 ^ (f.p - 1) + 2 ^ (f.p - 1) : Nat) : Rat) *
    (2 : Rat) ^ (((c / 2 ^ (f.p - 1) : Nat) : Int) - (f.bias : Int) - ((f.p : Int) - 1))

/-- Which of c and c + 1 a magnitude is rounded to that lies `lo` above the one and `hi` below the other, with the sign of
its value: modes 1 .rn, 2 .rz, 3 .ru, 4 .rd, 5 .ra, 6 .ro (R97, R143). -/
def roundedOf (mode : Nat) (neg : Bool) (lo hi : Rat) (c : Nat) : Nat :=
  if lo = 0 then c
  else match mode with
    | 2 => c
    | 3 => if neg then c else c + 1
    | 4 => if neg then c + 1 else c
    | 5 => if lo < hi then c else c + 1
    | 6 => if c % 2 = 1 then c else c + 1
    | _ => if lo < hi then c else if hi < lo then c + 1 else if c % 2 = 0 then c else c + 1

/-- Rounding a magnitude x that lies at or above the c-th and below the next (R143). -/
def WFmt.nearest (f : WFmt) (mode : Nat) (neg : Bool) (x : Rat) (c : Nat) : Nat :=
  roundedOf mode neg (x - f.magnitude c) (f.magnitude (c + 1) - x) c

/-- A magnitude, rounded to the format's precision as though the exponents had no lower bound, lies below the least
normal magnitude (R179). -/
def WFmt.tinyRounded (f : WFmt) (mode : Nat) (neg : Bool) (x : Rat) : Prop :=
  ∃ (n : Nat) (z : Int), 2 ^ (f.p - 1) ≤ n ∧ n < 2 ^ f.p ∧ (n : Rat) * (2 : Rat) ^ z ≤ x ∧ x < ((n : Rat) + 1) * (2 : Rat) ^ z ∧
    (roundedOf mode neg (x - (n : Rat) * (2 : Rat) ^ z) (((n : Rat) + 1) * (2 : Rat) ^ z - x) n : Rat) * (2 : Rat) ^ z <
      (2 : Rat) ^ (1 - (f.bias : Int))

/-- The place of a code that is no NaN in the order of the values, -0 standing below +0 (R180). -/
def WFmt.codeOrder (f : WFmt) (c : Nat) : Int := if f.signBit ≤ c then -((c - f.signBit : Nat) : Int) - 1 else c

/-- Operand b of class 2 for a thread: a literal, an integer immediate as a code, or a register (R92, R95, R176). -/
def floatB (x : Enc) (b : Bundle) (t : Nat) (g : Regs) (k : Nat) : Word :=
  if x.form = .literal then x.lit.truncate 32
  else if x.i then
    let c := ((wfmtOf x.ty.toNat).round 1 (.fin (decide (x.imm < 0)) x.imm.natAbs 0)).1
    if x.ty = 0 then BitVec.ofNat 32 c else BitVec.ofNat 32 (c + 2 ^ 16 * c)
  else g (b.num x 2 x.b t + k)

/-- The result and the sticky bits of an element-by-element instruction on codes of a format (R180, R182 to R184). -/
def floatElement (i : Instr) (f : WFmt) (mode a b c : Nat) : Option (Nat × DWord) :=
  let rounded (v : FVal × DWord) : Nat × DWord := ((f.round mode v.1).1, v.2 ||| (f.round mode v.1).2)
  match i with
  | .fadd _ => some (rounded (addVal mode (f.decode a) (f.decode b)))
  | .fsub _ => some (rounded (addVal mode (f.decode a) (f.decode b).neg))
  | .fmul _ => some (rounded (mulVal (f.decode a) (f.decode b)))
  | .fma _ => some (rounded (fmaVal mode (f.decode a) (f.decode b) (f.decode c)))
  | .fmin _ => some (f.minCode a b, 0)
  | .fmax _ => some (f.maxCode a b, 0)
  | .fabs _ => some (a % f.signBit, 0)
  | .fneg _ => some (if a < f.signBit then a + f.signBit else a - f.signBit, 0)
  | .fcopysign _ => some (a % f.signBit + (if f.signBit ≤ b then f.signBit else 0), 0)
  | .fclass _ => some (f.classCode a, 0)
  | .fscale _ => some (f.scaleCode mode a b)
  | .frnd _ => some (f.integralCode mode a, 0)
  | _ => none

/-- The result and the sticky bits of a class-2 instruction on registers: of one f32, of each half of a pair by
itself, or of the dot product of two pairs (R176, R181). -/
def floatWord (i : Instr) (x : Enc) (mode : Nat) (a b c : Word) : Option (Word × DWord) :=
  let f := wfmtOf x.ty.toNat
  match i with
  | .fdot2 _ =>
    let e (w : Word) (h : Nat) : FVal := f.decode (w.toNat / 2 ^ (16 * h) % 2 ^ 16)
    let v := dot2Val mode (e a 0) (e b 0) (e a 1) (e b 1) (fmtF32.decode c.toNat)
    some (BitVec.ofNat 32 (fmtF32.round mode v.1).1, v.2 ||| (fmtF32.round mode v.1).2)
  | i =>
    if x.ty = 0 then (floatElement i f mode a.toNat b.toNat c.toNat).map (fun r => (BitVec.ofNat 32 r.1, r.2))
    else match floatElement i f mode (a.toNat % 2 ^ 16) (b.toNat % 2 ^ 16) (c.toNat % 2 ^ 16),
          floatElement i f mode (a.toNat / 2 ^ 16) (b.toNat / 2 ^ 16) (c.toNat / 2 ^ 16) with
      | some r, some q => some (BitVec.ofNat 32 (r.1 % 2 ^ 16 + 2 ^ 16 * (q.1 % 2 ^ 16)), r.2 ||| q.2)
      | _, _ => none

/-- The result of a class-2 instruction for a thread at a position, with its sticky bits. -/
def floatAt (i : Instr) (x : Enc) (b : Bundle) (t : Nat) (g : Regs) (k : Nat) : Word × DWord :=
  (floatWord i x (b.modeFor x) (g (b.num x 1 x.a t + k)) (floatB x b t g k) (g (x.c.toNat + k))).getD (0, 0)

/-- The sticky bits that the positions of a unit set for a thread, each on the registers the ones before it left. -/
def blockFlags (dst : Nat) (val : Regs → Nat → Word × DWord) (ks : List Nat) (g : Regs) : DWord :=
  match ks with
  | [] => 0
  | k :: ks => (val g k).2 ||| blockFlags dst val ks (regPut false g (dst + k) (val g k).1.toNat)

/-- The relation of a floating compare (R185). -/
def floatRelation (i : Instr) (a b : FVal) : Option Bool :=
  let num := a != .nan && b != .nan
  let same := num && (if a.isFin && b.isFin then decide (a.rat = b.rat) else a == b)
  let less := num && (match a, b with
    | .inf x, .inf y => x && !y
    | .inf x, _ => x
    | _, .inf y => !y
    | _, _ => decide (a.rat < b.rat))
  match i with
  | .fcmpEq _ => some same
  | .fcmpNe _ => some (!same)
  | .fcmpLt _ => some less
  | .fcmpLe _ => some (less || same)
  | .fcmpUn _ => some (!num)
  | _ => none

/-- What a floating compare makes of a thread's bit for element h of its registers. -/
def floatCompared (i : Instr) (x : Enc) (b : Bundle) (h t : Nat) : Bool :=
  let f := wfmtOf x.ty.toNat
  let e (w : Word) : FVal := f.decode (if x.ty = 0 then w.toNat else w.toNat / 2 ^ (16 * h) % 2 ^ 16)
  (floatRelation i (e (b.vreg t (b.num x 1 x.a t))) (e (floatB x b t (b.regs t) 0))).getD false

/-- The result of a floating reduction or scan over some threads' registers in order, with the sticky bits of its steps:
the first register, and then one `fadd` or `fmax` a step (R186). -/
def floatFold (i : Instr) (x : Enc) (mode : Nat) (l : List Word) : Option (Word × DWord) :=
  let step : Option (Word → Word → Word × DWord) := match i with
    | .freduxAdd _ => some (fun p q => (floatWord (.fadd x) x mode p q 0).getD (0, 0))
    | .fscanAdd _ => some (fun p q => (floatWord (.fadd x) x mode p q 0).getD (0, 0))
    | .freduxMax _ => some (fun p q => (floatWord (.fmax x) x mode p q 0).getD (0, 0))
    | _ => none
  match step, l with
  | none, _ => none
  | some _, [] => some (0, 0)
  | some g, w :: l => some (l.foldl (fun acc v => ((g acc.1 v).1, acc.2 ||| (g acc.1 v).2)) (w, 0))

/-- The executing threads that a reduction or scan combines for thread t (R186). -/
def floatThreads (i : Instr) (x : Enc) (b : Bundle) (t : Nat) : List Nat :=
  match i with
  | .fscanAdd _ => (bitsOf (b.executing x)).filter (fun u => decide (u ≤ t))
  | _ => bitsOf (b.executing x)

/-- A result in one register with its sticky bits, as it lands. -/
def stickyWrites (n : Nat) (r : Word × DWord) : List RegW := .v n r.1 :: if r.2 = 0 then [] else [.sticky r.2]

/-- The op of a special function (R187). -/
def specialOp (i : Instr) : Option Nat :=
  match i with
  | .rcp _ => some 0
  | .rsq _ => some 1
  | .sqrt _ => some 2
  | .exp2 _ => some 3
  | .log2 _ => some 4
  | .sin _ => some 5
  | .cos _ => some 6
  | .tanh _ => some 7
  | .erf _ => some 8
  | _ => none

/-- The results of a thread's positions as they land, each on the registers the ones before it would leave. -/
def blockWrites (dst : Nat) (val : Regs → Nat → Word × DWord) (ks : List Nat) (g : Regs) : List RegW :=
  match ks with
  | [] => []
  | k :: ks => stickyWrites (dst + k) (val g k) ++ blockWrites dst val ks (regPut false g (dst + k) (val g k).1.toNat)

/-! ### Conversions (R188 to R191) -/

/-- The low 32 bits of an operand of a conversion: of a thread's register, or of a uniform one in the U form (R189). -/
def partyWord (x : Enc) (b : Bundle) (p : Nat) (n : Nat) : Nat := if x.u then (b.sreg n).toNat % 2 ^ 32 else (b.vreg p n).toNat

/-- The codes of an operand: of one register, or of two where n * k is 64 (R188). -/
def partyCodes (x : Enc) (b : Bundle) (two : Bool) (p n : Nat) : Nat :=
  partyWord x b p n + if two then 2 ^ 32 * partyWord x b p (n + 1) else 0

/-- Codes in consecutive fields of a width, the first lowest, with the sticky bits of all. -/
def joined (width : Nat) (l : List (Nat × DWord)) : Nat × DWord :=
  match l with
  | [] => (0, 0)
  | c :: l => (c.1 % 2 ^ width + 2 ^ width * (joined width l).1, c.2 ||| (joined width l).2)

/-- The values of the elements of a register operand (R176, R188). -/
def partyValues (x : Enc) (b : Bundle) (p n : Nat) : List FVal :=
  (List.range (elements x)).map (fun e => (regFmt x).read (partyWord x b p n / 2 ^ (e * elemBits x) % 2 ^ elemBits x))

/-- The values of the codes of a format in containers from number `lo` on. -/
def codeValues (x : Enc) (f : Fmt) (raw lo : Nat) : List FVal :=
  (List.range (elements x)).map (fun e => f.read (raw / 2 ^ ((lo + e) * f.container) % 2 ^ f.container % 2 ^ f.codeBits))

/-- The rounding mode of a conversion: the unit's, else the format's, else that of sr.status (R143). -/
def conversionMode (x : Enc) (b : Bundle) (t : Tid) : Nat :=
  if x.rnd ≠ 0 then x.rnd.toNat else if t.f.rnd ≠ 0 then t.f.rnd else b.status.toNat % 8

/-- The scale word that `qnt` chooses, over every element of every party (R191). -/
def quantScale (x : Enc) (b : Bundle) (t : Tid) : Nat :=
  chooseScale t.f t.sfmt (maxMagnitude ((b.cvtParties x).flatMap (fun p => partyValues x b p x.a.toNat)))

/-- p of `pack` and `unpack` (R189). -/
def packNumber (x : Enc) (b : Bundle) (p : Nat) : Nat :=
  (if x.i then (immOf x).toNat else partyWord x b p x.b.toNat) % 256

/-- The bits that a conversion writes to d for a party, and its sticky bits (R189 to R191). -/
def convertedTo (i : Instr) (x : Enc) (b : Bundle) (t : Tid) (p : Nat) : Option (Nat × DWord) :=
  let f := t.f
  let mode := conversionMode x b t
  let regs := partyValues x b p x.a.toNat
  match i with
  | .cvt _ => some (joined f.container (regs.map (fun v => f.write mode v 1)))
  | .qnt _ =>
    let σ := if t.sfmt = 0 then FVal.fin false 1 0 else scaleVal (quantScale x b t)
    some (joined f.container (regs.map (fun v => writeScaled f mode v σ)))
  | .dqnt _ =>
    let raw := partyWord x b p x.c.toNat % 2 ^ 16
    let σ := if t.sfmt = 0 then FVal.fin false 1 0 else scaleVal (if t.sfmt = 2 then raw / 256 * 256 else raw)
    some (joined (elemBits x) ((codeValues x f (partyCodes x b (twoRegs x f) p x.a.toNat) 0).map (fun v =>
      (regFmt x).write mode (mulVal v σ).1 1)))
  | .pack _ =>
    let width := elements x * f.container
    let lo := packNumber x b p * width
    let old := partyWord x b p x.d.toNat
    let new := joined f.container (regs.map (fun v => f.write mode v 1))
    some (old - old / 2 ^ lo % 2 ^ width * 2 ^ lo + new.1 * 2 ^ lo, new.2)
  | .unpack _ =>
    some (joined (elemBits x) ((codeValues x f (partyWord x b p x.a.toNat) (packNumber x b p * elements x)).map (fun v =>
      (regFmt x).write mode v 1)))
  | _ => none

/-- The operand of a conversion whose codes may occupy two registers, if it has one (R188). -/
def codeField (i : Instr) (x : Enc) : Option Nat :=
  match i with
  | .cvt _ => some x.d.toNat
  | .qnt _ => some x.d.toNat
  | .dqnt _ => some x.a.toNat
  | .pack _ => some x.d.toNat
  | .unpack _ => some x.a.toNat
  | _ => none

/-- Whether a conversion writes codes to d, so that d may be two registers. -/
def writesCodes (i : Instr) : Bool :=
  match i with
  | .cvt _ => true
  | .qnt _ => true
  | _ => false

/-- The register writes of a party's value of one register or two (R189). -/
def partyWrites (x : Enc) (two : Bool) (n v : Nat) : List RegW :=
  if x.u then .s n (BitVec.ofNat 64 (v % 2 ^ 32)) :: if two then [.s (n + 1) (BitVec.ofNat 64 (v / 2 ^ 32))] else []
  else resultWrites two n v

/-- Everything that a conversion writes for a party: d, for `qnt` with a scale c, and its sticky bits. -/
def conversionWrites (i : Instr) (x : Enc) (b : Bundle) (t : Tid) (p : Nat) : List RegW :=
  let r := (convertedTo i x b t p).getD (0, 0)
  partyWrites x (writesCodes i && twoRegs x t.f) x.d.toNat r.1 ++
    (match i with
      | .qnt _ => if t.sfmt = 0 then [] else partyWrites x false x.c.toNat (quantScale x b t)
      | _ => []) ++ [.sticky r.2]

/-- The zeros that a conversion writes for a thread that zeroing reaches (R96). -/
def conversionZeros (i : Instr) (x : Enc) (t : Tid) : List RegW :=
  partyWrites x (writesCodes i && twoRegs x t.f) x.d.toNat 0 ++
    (match i with
      | .qnt _ => if t.sfmt = 0 then [] else partyWrites x false x.c.toNat 0
      | _ => [])

/-- Whether `pack` or `unpack` names containers past bit 31 for some party (R189). -/
def packsBeyond (i : Instr) (x : Enc) (b : Bundle) (t : Tid) : Bool :=
  match i with
  | .pack _ => (b.cvtParties x).any (fun p => decide (32 < (packNumber x b p + 1) * elements x * t.f.container))
  | .unpack _ => (b.cvtParties x).any (fun p => decide (32 < (packNumber x b p + 1) * elements x * t.f.container))
  | _ => false

/-! ### Accesses of classes 5 to 7 (R101, R102, R245, R250, R305, R306) -/

/-- A load or store of class 5 or 6: its class, op, bytes per thread, whether it loads, and its order, 0 relaxed,
1 acquire, 2 release, 4 sequentially consistent (R244, R249, R252). -/
structure AccessForm where
  cls : Nat
  op : Nat
  bytes : Nat
  loads : Bool
  ord : Nat := 0
  deriving DecidableEq, Repr

/-- The size of an access by its type: .b32, .b64, .b16, .b8 (R244). -/
def accessWidth (x : Enc) : Nat := [4, 8, 2, 1].getD x.ty.toNat 1

/-- The form of a load or store. -/
def accessForm (i : Instr) : Option (Enc × AccessForm) :=
  match i with
  | .ldL x => some (x, { cls := 5, op := 0, bytes := accessWidth x, loads := true })
  | .stL x => some (x, { cls := 5, op := 1, bytes := accessWidth x, loads := false })
  | .ldbL x => some (x, { cls := 5, op := 2, bytes := 16, loads := true })
  | .stbL x => some (x, { cls := 5, op := 3, bytes := 16, loads := false })
  | .ldG x => some (x, { cls := 6, op := 0, bytes := accessWidth x, loads := true })
  | .stG x => some (x, { cls := 6, op := 1, bytes := accessWidth x, loads := false })
  | .ldbG x => some (x, { cls := 6, op := 2, bytes := 16, loads := true })
  | .stbG x => some (x, { cls := 6, op := 3, bytes := 16, loads := false })
  | .ldR x => some (x, { cls := 6, op := 5, bytes := accessWidth x, loads := true })
  | .stR x => some (x, { cls := 6, op := 6, bytes := accessWidth x, loads := false })
  | .ldAcq x => some (x, { cls := 6, op := 7, bytes := accessWidth x, loads := true, ord := if orderOf x = 4 then 4 else 1 })
  | .stRel x => some (x, { cls := 6, op := 8, bytes := accessWidth x, loads := false, ord := if orderOf x = 4 then 4 else 2 })
  | _ => none

/-- The address of a thread, or of the bundle in the U form: base, offset register or immediate, and displacement,
modulo 2^64 (R101). -/
def addressOf (x : Enc) (b : Bundle) (t : Nat) : Nat :=
  patternOf 64 (((b.sreg x.a.toNat).toNat : Int) +
    (if x.i then x.imm else if x.u then ((b.sreg x.b.toNat).toNat : Int) else ((b.vreg t x.b.toNat).toNat : Int)) +
    readAs true 24 (imm24 x).toNat)

/-- Who makes an access, with the address: each executing thread in ascending order, or the bundle (64) in the U form. -/
def accessParties (x : Enc) (b : Bundle) : List (Nat × Nat) :=
  if x.u then [(64, addressOf x b 0)] else (bitsOf (b.executing x)).map (fun t => (t, addressOf x b t))

/-- The bytes that a store of n bytes takes for a party from register d on, as a number (R245). -/
def storedValue (b : Bundle) (t n d : Nat) : Nat :=
  if t = 64 then (b.sreg d).toNat % 2 ^ (8 * n) else regGet (decide (n = 8)) (b.regs t) d % 2 ^ (8 * n)

/-- What a part of an access does: part k of a block form is its k-th 8 bytes (R233, R245). -/
def accessAct (f : AccessForm) (x : Enc) (b : Bundle) (t k : Nat) : Act :=
  if f.loads then .ld (x.d.toNat + 2 * k) (x.u && f.bytes != 16)
  else .st (storedValue b t (min f.bytes 8) (x.d.toNat + 2 * k))

/-- The parts of an access: two requests of 8 bytes for a block form, one for any other. -/
def accessParts (f : AccessForm) : List Nat := if f.bytes = 16 then [0, 1] else [0]

/-- The requests of an access, numbered in order; all of them stand before the lane's passage (R66). -/
def accessRequests (f : AccessForm) (x : Enc) (b : Bundle) : List Req :=
  ((accessParties x b).flatMap (fun p => (accessParts f).map (fun k => (p, k)))).zipIdx.map (fun q =>
    { uid := q.2, t := q.1.1.1, stage := .pass, act := accessAct f x b q.1.1.1 q.1.2, addr := q.1.1.2 + 8 * q.1.2, n := min f.bytes 8 })

/-- Where a request goes as its thread passes the lane: a scratchpad read that touches a line whose V is 0 is held, as is
`tag.wc`; every other scratchpad request enters its bank's queue, and one of another class waits for its translation (R234,
R239, R240, R364). -/
def stageAfterPass (s : State) (o : Op) (r : Req) : Stage :=
  let awaits : Stage := if ∃ l, l ∈ linesOf r.addr r.n ∧ FMap.look (s.core (coreOfBundle o.bk)).tagV true l = false then .held else .queued
  if o.cls = 5 then
    (match r.act with
      | .tag 2 _ => .held
      | .ld .. => awaits
      | .plane .. => awaits
      | _ => .queued)
  else .walk

/-- Thread t of an operation is the next to pass its lane. -/
def PassesNext (o : Op) (t : Nat) : Prop :=
  ∃ l₁ r l₂, o.reqs = l₁ ++ r :: l₂ ∧ r.stage = .pass ∧ r.t = t ∧ ∀ q, q ∈ l₁ → q.stage ≠ .pass

/-- The zeros that a load writes under zeroing (R96, R245). -/
def accessZeros (f : AccessForm) (x : Enc) (b : Bundle) : List WB :=
  if f.loads ∧ x.u = false then (bitsOf (b.zeroed x)).map (fun t =>
    { t := t, ws := (List.range ((f.bytes + 3) / 4)).map (fun i => .v (x.d.toNat + i) 0) })
  else []

/-- Why the access of a party may not be made: a misaligned address, or one of class 5 that leaves the scratchpad (R42,
R231). -/
def accessTrap (s : State) (ck : Nat) (f : AccessForm) (a : Nat) : Option Nat :=
  if a % f.bytes ≠ 0 then some 0x03
  else if f.cls = 5 ∧ (s.core ck).spg * 65536 < a + f.bytes then some 0x05
  else none

/-- The function's HBM and fabric budgets admit a memory hand-off: each is unlimited or has a positive balance (R403). -/
def MemoryAdmitted (s : State) (bk : Nat) : Prop :=
  isFw bk = true ∨ ∀ k, k = 1 ∨ k = 2 → FMap.look (s.fn (ctxOfBundle bk)).bud 0xFFFFFFFF k = 0xFFFFFFFF ∨
    0 < FMap.look (s.fn (ctxOfBundle bk)).bal 0 k

/-- A context's translation cache can hold one more replay (R364): the hand-off of a memory instruction does not stall. -/
def ReplayRoom (s : State) (bk : Nat) : Prop := s.replaysFull bk = false

/-- A class-7 instruction: its op, order, won mask and whether it forces (R305, R313, R314, R316). -/
structure HomeForm where
  op : Nat
  ord : Nat
  won : Nat := 0
  force : Bool := false
  deriving DecidableEq, Repr

/-- The form of a class-7 instruction. -/
def homeForm (i : Instr) : Option (Enc × HomeForm) :=
  match i with
  | .atomAdd x => some (x, { op := 0, ord := orderOf x })
  | .atomMin x => some (x, { op := 1, ord := orderOf x })
  | .atomMax x => some (x, { op := 2, ord := orderOf x })
  | .atomAnd x => some (x, { op := 3, ord := orderOf x })
  | .atomOr x => some (x, { op := 4, ord := orderOf x })
  | .atomXor x => some (x, { op := 5, ord := orderOf x })
  | .atomXchg x => some (x, { op := 6, ord := orderOf x })
  | .atomCas x => some (x, { op := 7, ord := orderOf x })
  | .redAdd x => some (x, { op := 8, ord := orderOf x })
  | .redMin x => some (x, { op := 9, ord := orderOf x })
  | .redMax x => some (x, { op := 10, ord := orderOf x })
  | .redX96 x => some (x, { op := 11, ord := orderOf x })
  | .x96Ld x => some (x, { op := 12, ord := orderOf x })
  | .x96Init x => some (x, { op := 13, ord := orderOf x })
  | .cellArm x => some (x, { op := 14, ord := orderOf x })
  | .cellProp x => some (x, { op := 15, ord := if orderOf x = 2 then 3 else 1,
                              won := if x.form = .extended then x.w2.toNat / 2 ^ 6 % 4 else 0 })
  | .cellLd x => some (x, { op := 16, ord := orderOf x })
  | .cellReset x => some (x, { op := 17, ord := orderOf x, force := decide (x.form = .extended) && x.w2.getLsbD 6 })
  | .cellFlush x => some (x, { op := 18, ord := 0 })
  | _ => none

/-- The bytes that a class-7 operation acts on: its type's width, or 16 (R304). -/
def homeBytesOf (f : HomeForm) (x : Enc) : Nat := if f.op ≤ 10 then (if 2 ≤ x.ty.toNat then 8 else 4) else 16

/-- A value of a party from an operand field, in 32 or 64 bits (R305). -/
def homeOperand (b : Bundle) (t n : Nat) (wide : Bool) : Nat :=
  if t = 64 then (b.sreg n).toNat % (if wide then 2 ^ 64 else 2 ^ 32) else regGet wide (b.regs t) n

/-- The operand that a class-7 operation carries for a party (R306 to R313). -/
def homeSends (f : HomeForm) (x : Enc) (b : Bundle) (t : Nat) : Nat :=
  if f.op ≤ 6 then homeOperand b t x.c.toNat (decide (2 ≤ x.ty.toNat))
  else if f.op ≤ 10 then homeOperand b t x.d.toNat (decide (2 ≤ x.ty.toNat))
  else if f.op = 11 then homeOperand b t x.d.toNat (decide (x.ty = 3))
  else if f.op = 13 then homeOperand b t x.d.toNat false
  else if f.op = 14 then homeOperand b t x.d.toNat true
  else if f.op = 15 then homeOperand b t x.c.toNat (decide (x.ty = 2))
  else 0

/-- The value that `atom.cas` compares with (R306). -/
def homeCompares (f : HomeForm) (x : Enc) (b : Bundle) (t : Nat) : Nat :=
  if f.op = 7 then homeOperand b t x.c.toNat (decide (2 ≤ x.ty.toNat)) else 0

/-- The proposer id of a thread; the bundle's is that of its lowest-indexed active thread (R310). -/
def proposerOf (bk : Nat) (b : Bundle) (t : Nat) : Nat :=
  pkgOfBundle bk * 2 ^ 25 + denseOfCore (coreOfBundle bk) * 2 ^ 15 + laneOfBundle bk * 2 ^ 9 + slotOfBundle bk * 2 ^ 6 +
    (if t = 64 then b.lead else t)

/-- The requests of a class-7 instruction, one for each party. -/
def homeRequests (f : HomeForm) (x : Enc) (bk : Nat) (b : Bundle) : List Req :=
  (accessParties x b).zipIdx.map (fun p =>
    { uid := p.2, t := p.1.1, stage := .pass, addr := p.1.2, n := homeBytesOf f x,
      act := .home f.op x.ty.toNat (homeSends f x b p.1.1) (homeCompares f x b p.1.1) x.d.toNat f.won x.u
        (proposerOf bk b p.1.1) f.force })

/-- The registers that a reply of a class-7 operation fills in the vector form (R305, R308, R313, R315). -/
def homeRegisters (f : HomeForm) (x : Enc) : Nat :=
  if f.op ≤ 7 then (if 2 ≤ x.ty.toNat then 2 else 1) else if f.op = 12 then 4
  else if f.op = 15 ∨ f.op = 16 then (if x.ty = 0 then 2 else 3) else 0

/-- The zeros of a class-7 instruction under zeroing, the won bit among them (R96, R313). -/
def homeZeroes (f : HomeForm) (x : Enc) (b : Bundle) : List WB :=
  if x.u then [] else (bitsOf (b.zeroed x)).map (fun t =>
    { t := t, ws := (List.range (homeRegisters f x)).map (fun i => RegW.v (x.d.toNat + i) 0) ++
        (if f.op = 15 ∧ f.won ≠ 0 then [RegW.m f.won false] else []) })

/-! ### What an event leaves of requests and of bytes -/

/-- No instruction of the two engines that reads some bytes of a core's scratchpad, or has read them without being observed,
could race with a store to them (R270, R297). -/
def Unraced (s : State) (ck : Nat) : Prop :=
  (s.core ck).mq = [] ∧ (s.core ck).loop = none ∧ (s.core ck).port = none ∧ (s.core ck).sq = [] ∧ (s.core ck).unseen = []

/-- Bytes of a space after a store of the n low bytes of a value from an address on, least significant first; every
other byte is as it was. -/
def Stored (m m' : FMap Byte) (d : Byte) (lo n v : Nat) : Prop :=
  ∀ a, FMap.look m' d a = if lo ≤ a ∧ a < lo + n then BitVec.ofNat 8 (v / 256 ^ (a - lo)) else FMap.look m d a

/-- A request of an operation is no longer in progress. -/
def Served (t : State) (id uid : Nat) : Prop := ∀ o, o ∈ t.ops → o.id = id → ∀ r, r ∈ o.reqs → r.uid ≠ uid

/-- An operation still has a result to land, after those that it had; where the lane and the bank keep it is not said. -/
def Owes (t : State) (o : Op) (w : WB) : Prop := ∃ o' k n, t.op? o.id = some o' ∧ o'.ws = o.ws ++ [{ w with slot := k, seq := n }]

/-- The register writes of a load of n bytes that read as the number v: zero-extended to one register, to two or more,
low half first, or to a uniform register (R245). -/
def loadWrites (d : Nat) (u : Bool) (n v : Nat) : List RegW :=
  if u then [.s d (BitVec.ofNat 64 v)]
  else (List.range ((n + 3) / 4)).map (fun i => .v (d + i) (BitVec.ofNat 32 (v / 2 ^ (32 * i))))

/-- A request of an operation in progress. -/
def InProgress (s : State) (o : Op) (r : Req) : Prop := s.op? o.id = some o ∧ o.req? r.uid = some r

/-- The registers of a thread after some writes, the later winning. -/
def writtenRegs (ws : List RegW) (g : Regs) : Regs :=
  match ws with
  | [] => g
  | .v n x :: ws => writtenRegs ws (fun k => if k = n then x else g k)
  | _ :: ws => writtenRegs ws g

/-- A uniform register after some writes, the later winning. -/
def writtenUniform (ws : List RegW) (n : Nat) (old : DWord) : DWord :=
  match ws with
  | [] => old
  | .s k x :: ws => writtenUniform ws n (if n = k then x else old)
  | _ :: ws => writtenUniform ws n old

/-- The sticky bits among some writes. -/
def writtenSticky (ws : List RegW) : DWord :=
  match ws with
  | [] => 0
  | .sticky x :: ws => x ||| writtenSticky ws
  | _ :: ws => writtenSticky ws

/-- A thread's bit of a mask after some writes, the later winning. -/
def writtenBit (ws : List RegW) (k : Nat) (old : Bool) : Bool :=
  match ws with
  | [] => old
  | .m j v :: ws => writtenBit ws k (if k = j then v else old)
  | _ :: ws => writtenBit ws k old

/-- A result writes vector registers only of a thread: those of the bundle go to uniform registers (R64). -/
def WB.proper (w : WB) : Prop := w.t < 64 ∨ ∀ n x, RegW.v n x ∉ w.ws

/-- What landing the results of one party leaves of a bundle (R78, R109, R179): for a dead thread only its sticky bits are
set; otherwise that
thread's vector registers and mask bits, the uniform registers and the sticky bits are as written, and every other thread's
registers and bits are as they were. -/
def Landed (b c : Bundle) (w : WB) : Prop :=
  if w.t < 64 ∧ (b.thread w.t).cond = .dead then
    c = { b with status := c.status } ∧ c.status = b.status ||| writtenSticky w.ws
  else (∀ t, t < 64 → c.regs t = if t = w.t then writtenRegs w.ws (b.regs t) else b.regs t) ∧
    (∀ n, c.sreg n = writtenUniform w.ws n (b.sreg n)) ∧ c.status = b.status ||| writtenSticky w.ws ∧
    (∀ k t, k ≠ 0 → t < b.width → t < 64 →
      hasBit (c.mreg k) t = if t = w.t then writtenBit w.ws k (hasBit (b.mreg k) t) else hasBit (b.mreg k) t) ∧
    c = { b with v := c.v, s := c.s, m := c.m, status := c.status }

/-- The register writes that the reply of a class-7 operation makes, from its value and, after 8 bytes, its status or
state word (R94, R306, R308, R313, R315). -/
def homeReply (op ty d won : Nat) (u : Bool) (v : Nat) : List RegW :=
  if op ≤ 7 then
    (if u then [.s d (BitVec.ofInt 64 (readAs (ty % 2 == 0) (if 2 ≤ ty then 64 else 32) v))]
     else loadWrites d false (if 2 ≤ ty then 8 else 4) v)
  else if op = 12 then
    (if u then [.s d (BitVec.ofNat 64 v), .s (d + 1) (BitVec.ofNat 64 (v / 2 ^ 64))] else loadWrites d false 16 v)
  else if op = 15 ∨ op = 16 then
    (if u then [.s d (BitVec.ofNat 64 (if ty = 0 then v % 2 ^ 32 else v % 2 ^ 64)), .s (d + 1) (BitVec.ofNat 64 (v / 2 ^ 64))]
     else if ty = 0 then [.v d (BitVec.ofNat 32 v), .v (d + 1) (BitVec.ofNat 32 (v / 2 ^ 64))]
     else [.v d (BitVec.ofNat 32 v), .v (d + 1) (BitVec.ofNat 32 (v / 2 ^ 32)), .v (d + 2) (BitVec.ofNat 32 (v / 2 ^ 64))]) ++
    (if op = 15 ∧ won ≠ 0 ∧ u = false then [.m won (v / 2 ^ 64 % 8 == 0)] else [])
  else []

/-- A packet may be acted on: none of its flits waits for a link, nothing of its path stands before it, the home agent that it
reaches takes it in the order of its cores, and its request is in progress. -/
def Delivered (s : State) (p : Packet) (o : Op) (r : Req) : Prop :=
  s.pkt? p.id = some p ∧ s.onLink p = true ∧ s.pathBehind p = false ∧ s.homeAdmits p o = true ∧ InProgress s o r ∧
    p.opId = o.id ∧ p.uid = r.uid

/-- The number in a table's entry for an address at a level (R361). -/
def entryAt (s : State) (level table va : Nat) : Nat :=
  natOfBytes (s.memRead (table + 8 * (va / 2 ^ (13 + 10 * (level - 1)) % 1024)) 8)

/-- The table that a walk stands in after n levels: the root, or the one that an entry of which only VD and PFN are not 0
names in the context's own package (R361, R362). -/
def tableAt (s : State) (c va : Nat) (n : Nat) : Option Nat :=
  match n with
  | 0 => some (globalPa (pkgOfCtx c) (s.troot c))
  | k + 1 => match tableAt s c va k with
    | none => none
    | some t =>
      let e := entryAt s (4 - k) t va
      if e % 2 = 1 ∧ e / 2 % 2 ^ 12 = 0 ∧ e / 2 ^ 52 = 0 ∧ pkgOfPa (e / 2 ^ 13 * 2 ^ 13) = pkgOfCtx c then some (e / 2 ^ 13 * 2 ^ 13)
      else none

/-- An entry may stand as a leaf at a level: it is valid, its reserved bits and the low bits of a large page's PFN are 0, its KIND
exists and fits the package of its frame, and a shard page lies at level 1, in a state that exists and a group that lists the
context (R361, R362, R366). -/
def LeafFits (s : State) (c level e : Nat) : Prop :=
  let frame := e / 2 ^ 13 % 2 ^ 39 * 2 ^ 13
  let kind := e / 2 ^ 5 % 8
  1 ≤ level ∧ level ≤ 3 ∧ e % 2 = 1 ∧ e / 2 ^ 8 % 2 = (if level = 1 then 0 else 1) ∧ e / 2 ^ 62 = 0 ∧ e / 2 ^ 9 % 16 = 0 ∧
    e / 2 ^ 4 % 2 = 0 ∧ kind ≤ 3 ∧ e / 2 ^ 13 % 2 ^ (10 * (level - 1)) = 0 ∧ (kind = 1 ↔ pkgOfPa frame ≠ pkgOfCtx c) ∧
    (kind = 3 → level = 1 ∧ e / 2 ^ 53 % 8 ≤ 5 ∧ (s.rankIn c (e / 2 ^ 56 % 64)).isSome = true)

/-- The physical address that a leaf gives (R361). -/
def leafAddress (l : Leaf) (va : Nat) : Nat := l.word.toNat / 2 ^ 13 % 2 ^ 39 * 2 ^ 13 + va % 2 ^ (13 + 10 * (l.level - 1))

/-- Nothing is cached for an address of a bundle's context, and its walk meets no uncorrectable error. -/
def Walks (s : State) (bk va : Nat) : Prop :=
  s.cached (ctxOfBundle bk) (s.sliceOf bk) (microOf bk) va = [] ∧
    s.walkBad (ctxOfBundle bk) (s.sliceOf bk) (microOf bk) va = none

/-- The op number of a class-7 operation. -/
def homeOp (a : Act) : Option Nat :=
  match a with
  | .home op .. => some op
  | _ => none

/-- Whether a request needs W of its page: stores, what a copy or push writes, and every class-7 operation but x96.ld, cell.ld and
cell.flush (R362). -/
def needsWrite (a : Act) : Bool :=
  match a with
  | .st _ => true
  | .push _ => true
  | .bulk kind .. => kind == 0
  | .home op .. => op != 12 && op != 16 && op != 18
  | _ => false

/-- A packet has been replaced by its answer of an OP with some data (R321, R326). -/
def Answered (s t : State) (p : Packet) (op : Nat) (data : List Byte) : Prop :=
  ∃ q : Packet, t.pkts = s.pkts.filter (fun x => x.id != p.id) ++ [q] ∧ q.op = op ∧ q.data = data ∧ q.opId = p.opId ∧ q.uid = p.uid

/-- A fault of a request has been reported for the threads that made it (R220, R224). -/
def Reported (s t : State) (o : Op) (r : Req) (code eng : Nat) (detail : DWord) : Prop :=
  ∃ e : Report, t.reports = s.reports ++ [e] ∧ e.bk = o.bk ∧ e.ser = o.ser ∧ e.code = code ∧ e.eng = eng ∧ e.upc = o.upc ∧
    e.threads = (if r.t < 64 then bitMask r.t else o.ex) ∧ e.detail = detail

/-! ### Barriers, sets, fences and waits (R201 to R218) -/

/-- The numbers of the threads of a mask of a bundle, ascending. -/
def threadsOf (b : Bundle) (m : DWord) : List Nat := (bitsOf m).map (fun t => b.ser * 64 + t)

/-- What the arrivals of some threads leave of a barrier before it is evaluated: a thread arrives in the current phase,
or in the other one where it is recorded in the current phase already; nothing else changes (R205). -/
def ArrivedAt (l : List Nat) (x y : Bar) : Prop :=
  let new := l.filter (fun n => decide (n ∉ x.arr x.p))
  let late := l.filter (fun n => decide (n ∈ x.arr x.p))
  y.arr x.p = x.arr x.p ++ new ∧ y.arr (!x.p) = x.arr (!x.p) ++ late ∧
    y.hit x.p = (x.hit x.p || !new.isEmpty) ∧ y.hit (!x.p) = (x.hit (!x.p) || !late.isEmpty) ∧
    y.bound = x.bound ∧ y.p = x.p ∧ y.eng0 = x.eng0 ∧ y.eng1 = x.eng1 ∧ y.eb0 = x.eb0 ∧ y.eb1 = x.eb1

/-- Threads of a mask may arrive on a barrier: it is bound, and each of them is a member of its set (R213). -/
def MayArrive (s : State) (b : Bundle) (ex : DWord) (x : Bar) : Prop :=
  x.bound ≠ none ∧ ∀ n, n ∈ threadsOf b ex → n ∈ s.members x.bound

/-- The phase bit, the counts and the set that `bar.poll` reports (R209). -/
def pollWord (x : Bar) : DWord :=
  BitVec.ofNat 64 ((match x.bound with
      | some (h, _) => h * 2 ^ 48 + 2 ^ 41
      | none => 0xFFFF * 2 ^ 48) + (if x.p then 2 ^ 40 else 0) + x.eng x.p % 256 * 2 ^ 32 +
    (x.arr (!x.p)).length % 2 ^ 16 * 2 ^ 16 + (x.arr x.p).length % 2 ^ 16)

/-- What `bar.bind` binds a barrier of a level to, from the handle of S[b]: nothing for 0xFFFF, the set of a resident
bundle, or a set of a level that does not exceed the barrier's (R208). -/
def BindsTo (s : State) (ck lvl h : Nat) (bound : Option (Nat × Nat)) : Prop :=
  (h = 0xFFFF ∧ bound = none) ∨
  (h < 2 ^ 9 ∧ (s.bundle (512 * ck + h)).ser ≠ 0 ∧ bound = some (h, (s.bundle (512 * ck + h)).ser)) ∨
  (∃ k, 0 < h / 2 ^ 14 ∧ h / 2 ^ 14 ≤ lvl ∧ s.setKeyOf ck h = some k ∧ bound = some (h, k))

/-- Some barrier is bound to a set of cores, chiplets or packages. -/
def BoundSomewhere (s : State) (key : Nat) : Prop :=
  ∃ (e : Nat × Bar) (h : Nat), e ∈ s.bars ∧ e.2.bound = some (h, key) ∧ h / 2 ^ 14 ≠ 0

/-- A set that `set.new` may take (R210). -/
def FreeSet (s : State) (key : Nat) : Prop :=
  (s.setRec key).initial = false ∧ (s.setRec key).alloc = false ∧ (s.setRec key).members = [] ∧ ¬ BoundSomewhere s key

/-- Where the evaluation of a barrier leaves a state: its phases are evaluated on the members and on the arrivals that
still wait for earlier writes (R204, R205). -/
def Evaluated (s t : State) (key : Nat) (y : Bar) : Prop := t.bar key = y.evaluate (s.members y.bound) (t.barBusy key)

/-- Registers, masks, flags and traps of a bundle as they were: only where its threads stand, what they wait for and the
active path may differ. -/
def SameButThreads (b c : Bundle) : Prop := c = { b with thr := c.thr, active := c.active }

/-- A thread of a path that has passed a unit and has or has not to wait. -/
def passedThread (x : Enc) (stay : Bool) (c : Cond) (th : Thread) : Thread :=
  { th.advance (unitLen x) with cond := if stay then c else th.cond }

/-- States that differ at most in which completed engine instructions bundles have observed (R56, R270). -/
def Observing (s t : State) : Prop :=
  t = { s with cores := t.cores } ∧ ∀ ck, t.core ck = { s.core ck with unseen := (t.core ck).unseen }

/-- What an acquire leaves that makes no request: observed completions apart, one operation more at most, which only has its place
among the accesses of its threads (R45, R56). -/
def Watched (s t : State) : Prop :=
  ∃ u, Observing s u ∧ (t = u ∨ ∃ o, t = { u with nextId := s.nextId + 1, ops := s.ops ++ [o] } ∧ o.cls = 8 ∧ o.ord = 1 ∧ o.ws = [] ∧
    o.flag = none ∧ ∀ r, r ∈ o.reqs → r.stage = .wait)

/-- What a walk that nothing waits for leaves: cached translations, corrected errors and charges (R221, R363, R403). -/
def Walked (s t : State) : Prop :=
  t = { s with ctxs := t.ctxs, pkgs := t.pkgs, soft := t.soft, fns := t.fns } ∧ (∀ p c, (t.ctx c) = { s.ctx c with tlb := (t.ctx c).tlb } ∧
    t.pkg p = { s.pkg p with hbm := (t.pkg p).hbm } ∧ t.fn c = { s.fn c with bal := (t.fn c).bal })

/-- The operation of a fence: it waits for the accesses before it, and no flag counts it (R214). -/
def FenceOf (s : State) (bk : Nat) (x : Enc) (o : Op) : Prop :=
  o.id = s.nextId ∧ o.bk = bk ∧ o.ser = (s.bundle bk).ser ∧ o.cls = 8 ∧ o.opn = 8 ∧ o.flag = none ∧ o.lvl = scopeOf x ∧ o.ex = (s.bundle bk).acting x ∧ o.ws = [] ∧
    o.reqs = [{ uid := 0, t := 64, stage := .wait, act := .drain 2 }] ∧ o.fin = .none

/-- The hand-offs that a fence holds back: memory, class 7, engines, the transfer engine and class-12 ops 06 to 0F (R214). -/
def fenceHolds (cls op : Nat) : Bool :=
  cls == 5 || cls == 6 || cls == 7 || cls == 9 || cls == 10 || cls == 11 || (cls == 12 && decide (6 ≤ op) && decide (op ≤ 15))

/-! ### Special registers and tensor identifiers (R36, R156, R226 to R229) -/

/-- sr.pos of a thread of a compute core's bundle from its fields (R36). -/
def positionWord (s : State) (bk t : Nat) : DWord :=
  let ck := coreOfBundle bk
  BitVec.ofNat 64 (pkgOfBundle bk * 2 ^ 50 + s.denseDl ck / 4 * 2 ^ 48 + s.denseDl ck / 2 * 2 ^ 45 + s.denseDl ck * 2 ^ 41 +
    s.physDl ck % 2 * 2 ^ 40 + denseOfCore ck * 2 ^ 30 + laneOfBundle bk / 8 * 2 ^ 27 + laneOfBundle bk * 2 ^ 21 +
    slotOfBundle bk * 2 ^ 18 + t * 2 ^ 12)

/-- A special register as a thread of a compute core's bundle reads it (R226). -/
def specialValue (s : State) (bk t n : Nat) : DWord :=
  match n with
  | 0 => (s.bundle bk).status
  | 1 => (s.bundle bk).trapReg
  | 2 => BitVec.ofNat 64 s.cycle
  | 3 => positionWord s bk t
  | 4 => (s.core (coreOfBundle bk)).part
  | _ => s.disc bk (n - 8)

/-- A 64-bit value of each party written to d: to the pair of each executing thread, zeros to the pair of one that zeroing
reaches, or to S[d] in the U form (R229). -/
def PairWritten (b c : Bundle) (x : Enc) (v : Nat → DWord) : Prop :=
  c = { b with thr := pastUnit b x, v := c.v, s := c.s } ∧
  (∀ n, c.sreg n = if x.u = true ∧ n = x.d.toNat then v b.lead else b.sreg n) ∧
  (∀ t n, t < 64 → c.vreg t n =
    if x.u = false ∧ (hasBit (b.executing x) t = true ∨ hasBit (b.zeroed x) t = true) then
      (let w := if hasBit (b.executing x) t then v t else 0
       if n = x.d.toNat then w.truncate 32 else if n = x.d.toNat + 1 then (w >>> 32).truncate 32 else b.vreg t n)
    else b.vreg t n)

/-! ### The plane matrix engine (R258 to R280) -/

/-- Whether a class-9 instruction names a completion barrier (R273). -/
def mxNamesBarrier (i : Instr) : Bool :=
  match i with
  | .mxRead _ => false
  | .mxStat _ => false
  | _ => true

/-- The rounding mode of `mx.read` and `sig.read`: the unit's, else the format's, else that of sr.status (R143). -/
def readMode (x : Enc) (b : Bundle) (t : Tid) : Nat :=
  if x.rnd ≠ 0 then x.rnd.toNat else if t.f.rnd ≠ 0 then t.f.rnd else b.status.toNat % 8

/-- What the hand-off of a class-9 instruction captures (R267, R273 to R279), but for its barrier. -/
def mxCaptured (i : Instr) (s : State) (bk : Nat) : Option (Enc × MxEntry) :=
  let b := s.bundle bk
  let entry (x : Enc) (k : Nat) : BitVec 128 := FMap.look (s.core (coreOfBundle bk)).tid 0 (x.w2.toNat / 2 ^ k % 256)
  let base (x : Enc) (op : Nat) : MxEntry :=
    { op := op, opId := s.nextId, bk := bk, ser := b.ser, launch := b.launch, upc := b.pc, ex := b.active,
      tile := x.w2.toNat / 2 ^ 10 % 64, ra := b.sreg x.a.toNat }
  match i with
  | .mxLoop x => some (x, { base x 0 with ta := entry x 24, tb := entry x 16, rb := b.sreg x.b.toNat, consume := x.w2.getLsbD 0 })
  | .mxLoops x => some (x, { base x 1 with ta := entry x 24, tb := entry x 16, rb := b.sreg x.b.toNat, consume := x.w2.getLsbD 0,
                                           span := 2 ^ (x.w2.toNat / 2 % 4) })
  | .mxZero x => some (x, { base x 2 with src := x.d.toNat, d := x.d.toNat })
  | .mxWin x => some (x, { base x 3 with src := x.d.toNat, d := x.d.toNat })
  | .mxRead x => some (x, { base x 4 with ta := entry x 24, keep := x.w2.getLsbD 0, rnd := readMode x b (tidOf (entry x 24)) })
  | .mxStore x => some (x, base x 5)
  | .mxLoad x => some (x, { base x 6 with consume := x.w2.getLsbD 0 })
  | .mxStat x => some (x, { base x 7 with src := x.d.toNat, d := x.d.toNat })
  | .mxMove x => some (x, { base x 8 with src := x.d.toNat, d := x.d.toNat })
  | _ => none

/-- The first check that a class-9 instruction fails at hand-off, with the detail, after that of its tile: the trap, or
nothing (R274, R276, R277, R279). -/
def mxFault (i : Instr) (x : Enc) (s : State) (bk : Nat) (e : MxEntry) : Option (Nat × Nat) :=
  let ck := coreOfBundle bk
  match i with
  | .mxLoop _ => s.loopFault ck (x.w2.toNat / 2 ^ 24) (x.w2.toNat / 2 ^ 16 % 256) (tidOf e.ta) (tidOf e.tb) e.ra e.rb 1
  | .mxLoops _ => s.loopFault ck (x.w2.toNat / 2 ^ 24) (x.w2.toNat / 2 ^ 16 % 256) (tidOf e.ta) (tidOf e.tb) e.ra e.rb e.span
  | .mxRead _ =>
    let g := (e.ra.toNat / 2 ^ 24 % 128 * (tidOf e.ta).f.container + 31) / 32
    if (tidOf e.ta).valid = false ∨ e.ra.toNat / 2 ^ 31 ≠ 0 ∨ e.ra.toNat / 2 ^ 22 % 4 ≠ 0 ∨ e.ra.toNat / 2 ^ 14 % 4 ≠ 0 ∨
        e.ra.toNat / 2 ^ 24 % 128 = 0 ∨ 64 < e.ra.toNat / 2 ^ 24 % 128 ∨ 64 < e.ra.toNat / 2 ^ 16 % 64 + e.ra.toNat / 2 ^ 24 % 128
      then some (0x09, x.w2.toNat / 2 ^ 24)
    else if (s.bundle bk).allot < e.ra.toNat % 256 + g then some (0x02, max (e.ra.toNat % 256) (s.bundle bk).allot)
    else none
  | .mxStore _ => if e.ra.toNat % 16 ≠ 0 then some (0x03, e.ra.toNat)
    else if (s.core ck).spg * 65536 < e.ra.toNat + 49168 then some (0x05, e.ra.toNat) else none
  | .mxLoad _ => if e.ra.toNat % 16 ≠ 0 then some (0x03, e.ra.toNat)
    else if (s.core ck).spg * 65536 < e.ra.toNat + 49168 then some (0x05, e.ra.toNat) else none
  | .mxMove _ => if (s.core ck).tiles ≤ x.d.toNat then some (0x09, x.d.toNat) else none
  | _ => none

/-- An entry without the marks of races and the older bytes that it may read. -/
def MxEntry.clean (e : MxEntry) : MxEntry := { e with raced := [], old := [] }

/-- An entry without the marks of races and the older bytes that it may read. -/
def SigEntry.clean (e : SigEntry) : SigEntry := { e with raced := [], old := [] }

/-- Nothing on a core could race with an engine instruction that is handed off now: no other is unfinished or unobserved, no save
or load of tiles and no ordered join is in progress, and an `opfence` has followed every store (R55, R270, R297). -/
def Quiet (s : State) (ck : Nat) : Prop :=
  Unraced s ck ∧ (s.core ck).sgo = none ∧ (s.core ck).stale = [] ∧ s.joinTiles ck = [] ∧
    ∀ o, o ∈ s.ops → coreOfBundle o.bk = ck → o.tiles = []

/-- What an engine instruction that is handed off leaves of everything but its bundle, its core and its barrier: marks of races in
saves and loads of tiles, in results that have not landed and in joins, and unspecified tiles; nothing where the core is quiet
(R270, R297, R350, R421). -/
def RaceMarks (s u : State) (ck : Nat) : Prop :=
  u = { s with ops := u.ops, launches := u.launches, pool := u.pool, poison := u.poison, soft := u.soft, cores := u.cores } ∧
    List.Forall₂ (fun o p => p = { o with raced := p.raced, reqs := p.reqs, ws := p.ws } ∧ p.reqs.length = o.reqs.length ∧
      p.ws.length = o.ws.length) s.ops u.ops ∧
    List.Forall₂ (fun a b => b = (a.1, { a.2 with joinRaced := b.2.joinRaced })) s.launches u.launches ∧
    (Quiet s ck → u = { s with cores := u.cores })

/-- No element that some areas of tiles hold is in uncorrectable error (R232). -/
def AreasSound (s : State) (ck : Nat) (l : List Area) : Prop := ∀ r, r ∈ s.areaRanges ck l → s.frameBad ck r.1 r.2 = none

/-- A core with one matrix entry more at the end of its FIFO: marks of races apart, nothing else of it has changed, and
the entry has no such mark where the core is quiet (R267, R270). -/
def QueuedMx (s : State) (ck : Nat) (c' : Core) (e : MxEntry) : Prop :=
  let c := s.core ck
  c'.mq.map MxEntry.clean = c.mq.map MxEntry.clean ++ [e] ∧ c'.loop.map MxEntry.clean = c.loop.map MxEntry.clean ∧
    c'.sq.map SigEntry.clean = c.sq.map SigEntry.clean ∧ c' = { c with mq := c'.mq, loop := c'.loop, sq := c'.sq, tst := c'.tst } ∧
    (Quiet s ck → c'.mq = [e] ∧ c'.tst = c.tst)

/-- A barrier with a bundle enrolled in its current phase (R207). -/
def Enrolled (x y : Bar) (ser : Nat) : Prop :=
  y.eng x.p = x.eng x.p + 1 ∧ y.hit x.p = true ∧ ser ∈ y.eb x.p ∧ (∀ n, n ∈ y.eb x.p → n = ser ∨ n ∈ x.eb x.p) ∧
    (∀ n, n ∈ x.eb x.p → n ∈ y.eb x.p) ∧ y.eng (!x.p) = x.eng (!x.p) ∧ y.eb (!x.p) = x.eb (!x.p) ∧ y.hit (!x.p) = x.hit (!x.p) ∧
    y.p = x.p ∧ y.bound = x.bound ∧ y.arr0 = x.arr0 ∧ y.arr1 = x.arr1

/-- The bytes of a tile's elements as a range of pool bytes (R264). -/
def tileKey (s : State) (ck tile : Nat) : Nat := frameKey ck ((s.core ck).tileBase tile)

/-- Only the bytes of a tile may have changed in the pool, and memory and SRAM not at all. -/
def OnlyTile (s t : State) (ck tile : Nat) : Prop :=
  (∀ a, a < tileKey s ck tile ∨ tileKey s ck tile + 49152 ≤ a → FMap.look t.pool 0 a = FMap.look s.pool 0 a) ∧
    t.mem = s.mem ∧ t.sram = s.sram

/-- A finished engine operation owes its arrival in the phase it enrolled in (R207, R271). -/
def OwesArrival (t : State) (opId : Nat) (bar : Option (Nat × Bool)) : Prop :=
  ∀ k p, bar = some (k, p) → ∃ o, o ∈ t.ops ∧ o.id = opId ∧ o.fin = .arrive k p ∧ o.reqs = [] ∧ o.ws = []

/-- The flags and the window of a tile's status word (R264). -/
def StatusIs (w : DWord) (l : Int) (ovf inx nan : Bool) : Prop :=
  statusL w = l ∧ w.getLsbD 16 = ovf ∧ w.getLsbD 17 = inx ∧ w.getLsbD 18 = nan

/-- Truncation toward zero. -/
def truncated (q : Rat) : Int := if 0 ≤ q then ⌊q⌋ else ⌈q⌉

/-- The products of two rows of a loop's operands, times 2^-L: those of matched positions only in a sparse loop, and none
with a NaN (R261). -/
def loopProducts (sparse : Bool) (l : Int) (ra rb : List (Bool × FVal)) : List Rat :=
  ((ra.zip rb).filter (fun p => (!sparse || (p.1.1 && p.2.1)) && p.1.2 != .nan && p.2.2 != .nan)).map
    (fun p => p.1.2.rat * p.2.2.rat * (2 : Rat) ^ (-l))

/-- What `mx.read` and `sig.read` round: a NaN where the tile's flag says so and .keep does not, else n * 2^L (R276). -/
def elementValue (w : DWord) (keep : Bool) (n : Int) : FVal :=
  if w.getLsbD 18 = true ∧ keep = false then .nan else .fin (decide (n < 0)) n.natAbs (statusL w)

/-- The registers from VR on that hold a row's codes, packed, with their sticky bits (R188, R276). -/
def packedRow (vr container : Nat) (codes : List (Nat × DWord)) : List RegW :=
  let r := joined container codes
  (List.range ((codes.length * container + 31) / 32)).map (fun i => RegW.v (vr + i) (BitVec.ofNat 32 (r.1 / 2 ^ (32 * i)))) ++
    (if r.2 = 0 then [] else [.sticky r.2])

/-! ### The signature engine (R281 to R298) -/

/-- What the hand-off of a class-10 instruction other than `sig.cfg` captures (R293 to R296), but for its barrier. -/
def sigCaptured (i : Instr) (s : State) (bk : Nat) : Option (Enc × SigEntry) :=
  let b := s.bundle bk
  let c := s.core (coreOfBundle bk)
  let desc (k : Nat) : SigDesc := FMap.look c.desc {} k
  let base (x : Enc) (op : Nat) : SigEntry :=
    { op := op, opId := s.nextId, bk := bk, ser := b.ser, launch := b.launch, upc := b.pc, ex := b.active, k := x.w2.toNat / 2 ^ 22 % 4,
      dx := desc (x.w2.toNat / 2 ^ 22 % 4) }
  let entry (x : Enc) : BitVec 128 := FMap.look c.tid 0 (x.w2.toNat / 2 ^ 24)
  match i with
  | .sigOne x => some (x, base x 1)
  | .sigStepReg x => some (x, { base x 2 with delta := (List.range (base x 2).dx.dim).map (fun j =>
      if hasBit (b.executing x) j then b.vreg j x.a.toNat else 0) })
  | .sigStepScratch x => some (x, { base x 2 with scratch := true, tid := entry x, ra := b.sreg x.a.toNat, consume := x.w2.getLsbD 0 })
  | .sigJoin x => some (x, { base x 3 with y := x.d.toNat % 4, dy := desc (x.d.toNat % 4) })
  | .sigJoinl x => some (x, { base x 4 with y := x.d.toNat % 4, dy := desc (x.d.toNat % 4) })
  | .sigLog x => some (x, base x 5)
  | .sigRead x => some (x, { base x 6 with tid := entry x, ra := b.sreg x.a.toNat, rnd := readMode x b (tidOf (entry x)) })
  | .sigStat x => some (x, { base x 7 with d := x.d.toNat })
  | _ => none

/-- Whether a class-10 entry names a completion barrier (R290). -/
def sigNamesBarrier (op : Nat) : Bool := decide (1 ≤ op) && decide (op ≤ 5)

/-- Whether an instruction is a form of `sig.step`, which acts only where some thread executes (R294). -/
def isStep (i : Instr) : Bool :=
  match i with
  | .sigStepReg _ => true
  | .sigStepScratch _ => true
  | _ => false

/-- The first check that a class-10 instruction other than `sig.cfg` fails at hand-off, with the detail (R281, R293 to R295). -/
def sigFault (i : Instr) (x : Enc) (s : State) (bk : Nat) (e : SigEntry) : Option (Nat × Nat) :=
  let b := s.bundle bk
  let t := tidOf e.tid
  let w := e.ra.toNat
  let nc := w / 2 ^ 24 % 128
  if e.dx.dim = 0 then some (0x09, e.dx.base)
  else match i with
  | .sigStepReg _ => if b.width < e.dx.dim then some (0x09, e.dx.base) else none
  | .sigStepScratch _ =>
    if t.valid = false ∨ t.f.kind ≠ 1 ∨ t.lay ≠ 0 ∨ t.cols < e.dx.dim then some (0x09, x.w2.toNat / 2 ^ 24)
    else if w % 4 ≠ 0 then some (0x03, w)
    else if (s.core (coreOfBundle bk)).spg * 65536 < w + 4 * e.dx.dim then some (0x05, w) else none
  | .sigJoin _ => if e.dy.dim = 0 ∨ e.dy.dim ≠ e.dx.dim ∨ e.dy.n ≠ e.dx.n then some (0x09, e.dy.base) else none
  | .sigJoinl _ => if e.dy.dim = 0 ∨ e.dy.dim ≠ e.dx.dim ∨ e.dy.n ≠ e.dx.n then some (0x09, e.dy.base) else none
  | .sigRead _ =>
    if t.valid = false ∨ w / 2 ^ 56 % 16 ≠ 0 ∨ w / 2 ^ 31 % 2 ≠ 0 ∨ w / 2 ^ 8 % 2 ^ 16 ≠ 0 ∨ nc = 0 ∨ 64 < nc ∨ e.dx.n < w / 2 ^ 60 ∨
        e.dx.dim ^ (w / 2 ^ 60) ≤ w / 2 ^ 32 % 2 ^ 24 then some (0x09, x.w2.toNat / 2 ^ 24)
    else if b.allot < w % 256 + (nc * t.f.container + 31) / 32 then some (0x02, max (w % 256) b.allot)
    else none
  | _ => none

/-- A core with one signature entry more at the end of its queue: marks of races apart, nothing else of it has changed. -/
def QueuedSig (s : State) (ck : Nat) (c' : Core) (e : SigEntry) : Prop :=
  let c := s.core ck
  c'.sq.map SigEntry.clean = c.sq.map SigEntry.clean ++ [e] ∧ c'.mq.map MxEntry.clean = c.mq.map MxEntry.clean ∧
    c'.loop.map MxEntry.clean = c.loop.map MxEntry.clean ∧ c'.port.map MxEntry.clean = c.port.map MxEntry.clean ∧
    c' = { c with sq := c'.sq, mq := c'.mq, loop := c'.loop, port := c'.port } ∧
    (Quiet s ck → c'.sq = [e])

/-- The rounding to f32, nearest even (R284). -/
def toF32 (v : FVal) : FVal := fmtF32.decode (fmtF32.round 1 v).1

/-- The exact product of two values. -/
def product (a b : FVal) : FVal := (mulVal a b).1

/-- The value of element e of level k of a signature, at its descriptor's window (R282). -/
def signatureValue (s : State) (ck : Nat) (x : SigDesc) (k e : Nat) : FVal :=
  let n := s.sigElem ck x k e
  .fin (decide (n < 0)) n.natAbs (x.win k)

/-- Element e of P[k + 1] of `sig.step` (R285). -/
def stepElement (d : Nat) (delta : Nat → FVal) (k e : Nat) : FVal :=
  match k with
  | 0 => delta e
  | k + 1 => toF32 (product (toF32 (product (stepElement d delta k (e / d)) (delta (e % d)))) (rfInverse false (k + 2)))

/-- Element e of R[n + 1] at level k of `sig.log` (R287). -/
def logElement (d : Nat) (t : Nat → Nat → FVal) (n k e : Nat) : FVal :=
  match n with
  | 0 => toF32 (t k e)
  | n + 1 => sumRounded ((List.range' (n + 1) (k - (n + 1))).map (fun i =>
      product (logElement d t n i (e / d ^ (k - i))) (toF32 (t (k - i) (e % d ^ (k - i))))))

/-- The contributions that enter element e of level k of the signature that an entry changes, in the order of R285 to
R287, from the values before it; `x0` is the level-0 bit of X. -/
def signatureTerms (s : State) (ck : Nat) (g : SigEntry) (x0 : Bool) (k e : Nat) : List FVal :=
  let d := g.dx.dim
  let sx := signatureValue s ck g.dx
  let sy := signatureValue s ck g.dy
  let cross (u v : Nat → Nat → FVal) : List FVal :=
    (List.range' 1 (k - 1)).map (fun i => product (u (k - i) (e / d ^ i)) (v i (e % d ^ i)))
  match g.op with
  | 2 =>
    let delta (j : Nat) : FVal := (s.increments ck g).getD j .nan
    (if x0 then [stepElement d delta (k - 1) e] else []) ++
      cross (fun i n => toF32 (sx i n)) (fun i n => stepElement d delta (i - 1) n)
  | 3 => (if x0 then [sy k e] else []) ++ cross (fun i n => toF32 (sx i n)) (fun i n => toF32 (sy i n))
  | 4 => (if x0 then [sy k e] else []) ++ cross (fun i n => toF32 (sy i n)) (fun i n => toF32 (sx i n))
  | 5 => (List.range' 2 (k - 1)).map (fun n => product (rfInverse (n % 2 == 0) n) (logElement d sx (n - 1) k e))
  | _ => []

/-- What stands in an element before the contributions: a join whose other factor has level-0 value 0 drops it (R286). -/
def signatureStart (g : SigEntry) (y0 : Bool) (n : Int) : Int := if (g.op = 3 ∨ g.op = 4) ∧ y0 = false then 0 else n

/-- The status word of a descriptor (R291). -/
def signatureStatus (s : State) (ck : Nat) (x : SigDesc) (l0 : Bool) : DWord :=
  let any (k : Nat) : Nat := if ∃ t, t < x.tiles ∧ ((s.core ck).status (x.base + t)).getLsbD k = true then 1 else 0
  BitVec.ofNat 64 (x.base * 2 ^ 24 + x.n * 2 ^ 20 + x.dim * 2 ^ 13 + x.tiles * 2 ^ 7 + (if l0 then 8 else 0) + any 18 * 4 + any 17 * 2 + any 16)

/-- Nothing of the pool but the tiles of a descriptor may have changed. -/
def OnlyTiles (s t : State) (ck : Nat) (x : SigDesc) : Prop :=
  (∀ a, a < tileKey s ck x.base ∨ tileKey s ck (x.base + x.tiles) ≤ a → FMap.look t.pool 0 a = FMap.look s.pool 0 a) ∧ t.mem = s.mem ∧
    t.sram = s.sram

/-! ### The transfer engine (R330 to R341, R353 to R356) -/

/-- The parts of a copy, each with its offset, size and packet number: consecutive, none empty, none across a 4 KiB boundary of
the destination nor, but for `xf.put`, across a page of the source; the parts of one 4 KiB of the destination are one packet
(R326, R331). -/
def CopyParts (kind dst src len : Nat) (ps : List (Nat × Nat × Nat)) : Prop :=
  (ps.map (fun p => p.2.1)).sum = len ∧
  (∀ k p, ps[k]? = some p → p.1 = ((ps.take k).map (fun p => p.2.1)).sum ∧ 0 < p.2.1 ∧
    (dst + p.1) / 4096 = (dst + p.1 + p.2.1 - 1) / 4096 ∧ (kind ≠ 0 → (src + p.1) / 8192 = (src + p.1 + p.2.1 - 1) / 8192)) ∧
  ∀ p q, p ∈ ps → q ∈ ps → (p.2.2 = q.2.2 ↔ (dst + p.1) / 4096 = (dst + q.1) / 4096)

/-- The kind of a bulk copy: 0 `xf.put`, 1 `xf.get`, 2 `xf.cpy` (R330). -/
def copyKind (i : Instr) : Option (Enc × Nat) :=
  match i with
  | .xfPut x => some (x, 0)
  | .xfGet x => some (x, 1)
  | .xfCpy x => some (x, 2)
  | _ => none

/-- The first check that a copy fails at hand-off, with its detail (R331): alignment, length, the scratchpad range, and the
counter, which is a scratchpad offset but for `xf.put`. -/
def copyTrap (s : State) (ck kind dst src len : Nat) (ctr : Option Nat) : Option (Nat × Nat) :=
  let spg := (s.core ck).spg * 65536
  let sp := if kind = 0 then src else dst
  if dst % 16 ≠ 0 then some (0x03, dst)
  else if src % 16 ≠ 0 then some (0x03, src)
  else if len % 16 ≠ 0 then some (0x03, len)
  else if 2 ^ 28 < len then some (0x0E, dst)
  else if len ≠ 0 ∧ spg < sp + len then some (0x05, sp)
  else match ctr with
    | none => none
    | some c => if kind ≠ 0 ∧ spg < c + 8 then some (0x05, c) else if c % 8 ≠ 0 then some (0x03, c) else none

/-- The kind of a counter instruction that acts on its counter: 0 `ctr.set`, 1 `ctr.add` (R339). -/
def counterKind (i : Instr) : Option (Enc × Nat) :=
  match i with
  | .ctrSet x => some (x, 0)
  | .ctrAdd x => some (x, 1)
  | _ => none

/-- The check of a counter's offset: aligned, and inside the scratchpad (R339). -/
def counterTrap (s : State) (ck a : Nat) : Option (Nat × Nat) :=
  if a % 8 ≠ 0 then some (0x03, a) else if (s.core ck).spg * 65536 < a + 8 then some (0x05, a) else none

/-- No arming of a counter would be released at a value (R338). -/
def Unreached (s : State) (key : Nat) (v : DWord) : Prop :=
  ∀ a, a ∈ s.arms → a.key = key → a.reached = true ∨ 2 ^ 63 ≤ (v - a.target).toNat

/-- Where byte x of a core's scratchpad stands in the pool. -/
def spKey (s : State) (ck x : Nat) : Nat := frameKey ck ((s.core ck).spBase + x)

/-- The pushes of `xq.push`: thread, queue address and source offset of each executing thread, ascending (R355). -/
def pushesOf (x : Enc) (b : Bundle) : List (Nat × Nat × Nat) :=
  (bitsOf (b.executing x)).map (fun t => (t, regGet true (b.regs t) x.d.toNat,
    ((b.sreg x.a.toNat).toNat + (b.vreg t x.b.toNat).toNat) % 2 ^ 64))

/-! ### Collectives and claims (R343 to R352, R400) -/

/-- What member r of n receives of member j's chunk under OP 3 and 4: the address, and the bytes (R346). -/
def receivedPiece (x : Launch) (k r n j : Nat) (data : List Byte) : Nat × List Byte :=
  if x.collOp = 3 then (x.collDst + (k * n + j) * x.collBytes, data)
  else (x.collDst + k * x.collBytes + j * (x.collBytes / n), (data.drop (r * (x.collBytes / n))).take (x.collBytes / n))

/-- A range of n bytes from an address on lies apart from the source of a collective. -/
def ApartFromSource (x : Launch) (a n : Nat) : Prop := a + n ≤ x.collSrc ∨ x.collSrc + x.chunks * x.collBytes ≤ a

/-- A chunk may be posted: the launch has a collective and runs, the chunk is not posted, all its blocks have ended, and
their writes have been performed (R345). -/
def MayPost (s : State) (lid k : Nat) : Prop :=
  let x := s.launch lid
  x.collOp ≠ 0 ∧ x.killed = false ∧ x.complete = false ∧ k < x.chunks ∧ k ∉ x.posted ∧ (s.ctx x.ctx).running = true ∧
    (∀ b, k * x.collBlocks ≤ b → b < (k + 1) * x.collBlocks → b < x.blocks → FMap.look x.ended false b = true) ∧
    s.lateWrites lid = false

/-- The source bytes of a chunk as they are now: the images of the segment's tiles for OP 5, otherwise what the source
range reads as (R345, R350). -/
def SourceBytes (s : State) (lid k : Nat) (data : List Byte) : Prop :=
  let x := s.launch lid
  (x.collOp = 5 ∧ data = s.segment x.collCore ((s.core x.collCore).sd x.collJd)) ∨
  (x.collOp ≠ 5 ∧ ∃ s', s.collRead x.ctx (x.collSrc + k * x.collBytes) x.collBytes = .ok (s', data))

/-- A chunk has been posted with some bytes. -/
def ChunkPosted (s t : State) (lid k : Nat) (data : List Byte) : Prop :=
  (t.launch lid).posted = k :: (s.launch lid).posted ∧ (∃ p : Post, t.posts = s.posts ++ [p] ∧ p.lid = lid ∧ p.chunk = k ∧ p.data = data) ∧
    t.mem = s.mem ∧ t.pool = s.pool

/-- The mailbox of block number k - 1, or of no block where k is 0, as a number of 16 bytes (R400). -/
def mailboxWord (x : Launch) (k : Nat) : Nat :=
  let g := (FMap.look x.lr 0 2).toNat
  let gx := g % 2 ^ 32
  let gy := g / 2 ^ 32 % 2 ^ 16
  if k = 0 then 2 ^ 64 - 1
  else (k - 1) % 2 ^ 64 + 2 ^ 64 * (((k - 1) / (gx * gy) * 2 ^ 48 + (k - 1) / gx % gy * 2 ^ 32 + (k - 1) % gx) % 2 ^ 64)

/-! ### The shard unit (R361 to R379) -/

/-- The addresses of the page-table entries that a walk reads from a table on (R362). -/
def State.entriesFrom (s : State) (va level table : Nat) : List Nat :=
  match level with
  | 0 => []
  | l + 1 =>
    let a := table + 8 * (va / 2 ^ (13 + 10 * l) % 1024)
    let w := s.word a
    a :: (if w % 2 = 1 ∧ w / 2 ^ 8 % 2 = 0 then s.entriesFrom va l (w / 2 ^ 13 % 2 ^ 39 * 2 ^ 13) else [])

/-- Where the first table of a context stands (R361, R411). -/
def tableRoot (s : State) (c : Nat) : Nat := globalPa (pkgOfCtx c) (s.troot c)

/-- A context's page P is a shard page under an entry; no page-table entry on its walk lies in its own frame, and the context's
descriptor neither there nor on the entry itself. -/
def ShardPage (s : State) (c p : Nat) (l : Leaf) : Prop :=
  s.pageLeaf c p = some l ∧ leafKind l.word = 3 ∧
    (∀ a, a ∈ s.entriesFrom (vaOfPage p) 4 (tableRoot s c) → a + 8 ≤ leafFrame l.word ∨ leafFrame l.word + 8192 ≤ a) ∧
    ((s.ctx c).desc + 8 ≤ leafFrame l.word ∨ leafFrame l.word + 8192 ≤ (s.ctx c).desc) ∧
    ((s.ctx c).desc + 8 ≤ l.at_ ∨ l.at_ + 8 ≤ (s.ctx c).desc)

/-- An entry holds another SST, and no other byte of memory outside some frame bytes has changed. -/
def SstPut (s t : State) (l : Leaf) (sst : Nat) (other : Nat → Prop) : Prop :=
  t.word l.at_ = l.word.toNat - leafSst l.word * 2 ^ 53 + sst * 2 ^ 53 ∧
    ∀ a, (a < l.at_ ∨ l.at_ + 8 ≤ a) → ¬ other a → FMap.look t.mem Memory.unlisted a = FMap.look s.mem Memory.unlisted a

/-- Whether an address lies in the units of the other ranks of a page's frame (R367). -/
def InOtherUnits (s : State) (c g : Nat) (l : Leaf) (a : Nat) : Prop :=
  leafFrame l.word ≤ a ∧ a < leafFrame l.word + 8192 ∧
    ∀ r, s.rankIn c g = some r → a - leafFrame l.word < 256 * unitFrom ((s.ctx c).groupN g) r ∨
      256 * unitFrom ((s.ctx c).groupN g) (r + 1) ≤ a - leafFrame l.word

/-- One message more between shard slices (R370). -/
def Sent (s t : State) (kind src dst g p : Nat) : Prop :=
  ∃ m : Msg, t.msgs = s.msgs ++ [m] ∧ m.kind = kind ∧ m.src = src ∧ m.dst = dst ∧ m.group = g ∧ m.page = p ∧
    m.rank = (s.rankIn src g).getD 0

/-- The ranks of a group that are not down (R375). -/
def liveRanks (s : State) (c g : Nat) : List Nat :=
  (List.range ((s.ctx c).groupN g)).filter (fun r => !(s.ctx c).down g r)

/-- A reduction of a page has begun: REDUCING, one SLICE with its units to each rank that is not down, and all their
acknowledgements awaited (R376). -/
def Reducing (s t : State) (c g p : Nat) (l : Leaf) : Prop :=
  let n := (s.ctx c).groupN g
  SstPut s t l 4 (fun _ => False) ∧
  (∃ ms : List Msg, t.msgs = s.msgs ++ ms ∧ ms.map (fun m => (m.kind, m.src, m.dst, m.group, m.page, m.rank, m.data)) =
    (liveRanks s c g).map (fun r => (6, c, memberCtx ((s.ctx c).member g r), g, p, (s.rankIn c g).getD 0,
      s.memRead (leafFrame l.word + 256 * unitFrom n r) (256 * (unitFrom n (r + 1) - unitFrom n r))))) ∧
  ∀ q, q < 64 → hasBit (FMap.look (t.ctx c).sacks 0 p) q = decide (q ∈ liveRanks s c g)

/-- A page has been given up: SHARDED, its own units and all else as they were, and EVACK on its way (R373, R378). -/
def GivenUp (s t : State) (c g p : Nat) (l : Leaf) : Prop :=
  SstPut s t l 0 (InOtherUnits s c g l) ∧ Sent s t 4 c (s.coordinator c g p) g p

/-! ### The portable save area (R415 to R424) -/

/-- No flag of a bundle counts anything, and it may hand a save or load off (R418). -/
def MaySave (s : State) (bk : Nat) (r : Row) (x : Enc) : Prop := MayHandOff s bk r x ∧ (s.bundle bk).wf = []

/-- The stores of a record: 8 bytes each, in order. -/
def recordStores (va : Nat) (l : List Byte) : List Req :=
  (List.range ((l.length + 7) / 8)).map (fun i =>
    { uid := i, t := 64, stage := .walk, act := .st (natOfBytes ((l.drop (8 * i)).take 8)), addr := (va + 8 * i) % 2 ^ 64,
      n := min 8 (l.length - 8 * i) })

/-- The operation of a save: the stores of a record, and then its length for S[d] (R416, R418). -/
def SaveOf (s : State) (bk : Nat) (x : Enc) (opn va : Nat) (l : List Byte) (o : Op) : Prop :=
  StartedBy s bk x o ∧ o.cls = 6 ∧ o.opn = opn ∧ o.ws = [] ∧ o.fin = .none ∧
    o.reqs = recordStores va l ++ [{ uid := (l.length + 7) / 8, t := 64, stage := .wait, act := .sys 12 0 l.length x.d.toNat, addr := va }]

/-- The operation of a load: its header's two words, and then what follows from them. -/
def LoadOf (s : State) (bk : Nat) (x : Enc) (opn va d : Nat) (o : Op) : Prop :=
  StartedBy s bk x o ∧ o.cls = 6 ∧ o.opn = opn ∧ o.ws = [] ∧ o.fin = .none ∧
    o.reqs = [{ uid := 0, t := 65, stage := .walk, act := .ld 0 true, addr := va % 2 ^ 64, n := 8 },
              { uid := 1, t := 65, stage := .walk, act := .ld 1 true, addr := (va + 8) % 2 ^ 64, n := 8 },
              { uid := 2, t := 64, stage := .wait, act := .sys 12 1 0 d, addr := va }]

/-- A record's length and header words (R415). -/
def RecordHead (l : List Byte) (len typ w1 : Nat) : Prop :=
  l.length = len ∧ recordWord l 0 = BitVec.ofNat 64 (len * 2 ^ 32 + 2 ^ 8 + typ) ∧ recordWord l 8 = BitVec.ofNat 64 w1

/-- Where thread t's block stands in a bundle record. -/
def threadBlockAt (b : Bundle) (t : Nat) : Nat := 0x2E0 + t * (48 + 4 * b.allot)

/-- The bundle record that `ctx.svb` takes: uniform registers, masks, status, families, live threads, and each thread's
PC past the unit and its vector registers (R415, R419). -/
def BundleRecordOf (b : Bundle) (x : Enc) (l : List Byte) : Prop :=
  RecordHead l (0x2E0 + b.width * (48 + 4 * b.allot)) 1 (b.width + b.allot * 2 ^ 16 + b.dmax * 2 ^ 32) ∧
  (∀ n, n < 64 → recordWord l (0x10 + 8 * n) = if n = x.d.toNat then 0 else b.sreg n) ∧
  (∀ k, 1 ≤ k → k ≤ 7 → recordWord l (0x208 + 8 * k) = b.mreg k) ∧ recordWord l 0x248 = b.status ∧
  (∀ k, 1 ≤ k → k ≤ 16 → recordWord l (0x250 + 8 * k) = b.family k) ∧ recordWord l 0x2D8 = b.live ∧
  ∀ t, t < b.width → (recordWord l (threadBlockAt b t)).truncate 32 = (FMap.look (pastUnit b x) {} t).pc ∧
    ∀ n, n < b.allot → (recordWord l (threadBlockAt b t + 48 + 4 * n)).truncate 32 = b.vreg t n

/-- The core record that `ctx.svd` takes: tensor identifiers, level windows, barrier bindings with their phases, and tags
(R415, R420). -/
def CoreRecordOf (s : State) (ck : Nat) (l : List Byte) : Prop :=
  let c := s.core ck
  RecordHead l (0x14B0 + 64 * c.spg) 2 c.spg ∧
  (∀ n, n < 256 → natOfBytes ((l.drop (0x10 + 16 * n)).take 16) = (FMap.look c.tid 0 n).toNat) ∧
  (∀ k, k < 4 → recordWord l (0x1010 + 32 * k + 8) = (FMap.look c.desc {} k).win1 ∧
    recordWord l (0x1010 + 32 * k + 16) = (FMap.look c.desc {} k).win2) ∧
  (∀ n, n < 128 → recordWord l (0x10B0 + 8 * n) = BitVec.ofNat 64 ((match (s.bar (s.keyFor ck 1 n)).bound with
    | none => 0xFFFF
    | some b => b.1) + if (s.bar (s.keyFor ck 1 n)).p then 2 ^ 16 else 0)) ∧
  ∀ n, n < 256 * c.spg → (l.getD (0x14B0 + n / 4) 0).toNat / 4 ^ (n % 4) % 4 =
    (if FMap.look c.tagV true n then 1 else 0) + (if FMap.look c.tagC true n then 2 else 0)

/-- The tile record that `ctx.svx` takes for a bundle: the image of each tile that no instruction in progress, and none that the
bundle has not observed, writes (R415, R421). -/
def TileRecordOf (s : State) (ck ser f n : Nat) (l : List Byte) : Prop :=
  RecordHead l (0x10 + n * 0xC010) 3 (f + n * 2 ^ 8) ∧
    ∀ i, i < n → s.tileBusy ck ser (f + i) = false → (l.drop (0x10 + i * 0xC010)).take 0xC010 = s.tileImage ck (f + i)

/-- The op number of a load, and a check of the instruction that precedes it (R418). -/
def loadKind (i : Instr) : Option (Enc × Nat) :=
  match i with
  | .ctxLdb x => some (x, 0x1B)
  | .ctxLdd x => some (x, 0x1D)
  | .ctxLdx x => some (x, 0x1F)
  | _ => none

/-- The last request of a save or load stands alone: all the accesses of the operation have been performed. -/
def AtItsEnd (s : State) (o : Op) (r : Req) (phase n d : Nat) : Prop :=
  s.op? o.id = some o ∧ o.reqs = [r] ∧ r.act = .sys 12 phase n d ∧ r.stage = .wait ∧ s.runs o.bk = true ∧ o.failed = false ∧ o.cls = 6

/-! ### What a lane does next, reports and records (R71, R200, R220 to R223) -/

/-- A free lane may start a bundle: it is runnable, no passage holds its lane (R15), and on a compute core no lane from its
own on has acted in this cycle (R16) and no other runnable bundle of its lane stands before it (R71). -/
def MayBegin (s : State) (bk : Nat) : Prop :=
  s.issuing = none ∧ s.runnable bk = true ∧
    (∀ o, o ∈ s.ops → sameLane bk o.bk = true → ∀ r, r ∈ o.reqs → r.stage ≠ .pass) ∧
    (isFw bk = true ∨ ((s.core (coreOfBundle bk)).acted ≤ 64 * s.cycle + laneOfBundle bk ∧
      ∀ e, e ∈ s.bundles → isFw e.1 = false → s.givesWay bk e.1 = false))

/-- A bundle as it goes on: with its path, or, where none runs or its path had parked on a line tag, with the one that R74
chooses (R195). -/
def GoesOn (b c : Bundle) : Prop :=
  if b.active ≠ 0 ∧ b.held = false then c = b else c = { b with active := c.active, held := false } ∧ c.onChosenPath

/-- The cores once the lane of a bundle has acted in this cycle (R16). -/
def coresActed (s : State) (bk : Nat) : FMap Core :=
  if isFw bk then s.cores
  else FMap.put s.cores (coreOfBundle bk) { s.core (coreOfBundle bk) with acted := 64 * s.cycle + laneOfBundle bk + 1 }

/-- The first of the pending records of lowest code (R222). -/
def FirstRecord (l : List TrapRec) (r : TrapRec) : Prop :=
  ∃ k, l[k]? = some r ∧ ∀ (j : Nat) (q : TrapRec), l[j]? = some q → r.code < q.code ∨ (r.code = q.code ∧ k ≤ j)

/-! ### Messages between shard slices (R370 to R376) -/

/-- A message of a kind is on its way. -/
def OnItsWay (s : State) (m : Msg) (kind : Nat) : Prop := s.msgs.find? (fun q => q.id == m.id && q.kind == kind) = some m

/-- A message of a kind may be received: none of its path stands before it (R322), and of a SHARD or SLICE no flit waits for a
link (R370). -/
def Pending (s : State) (m : Msg) (kind : Nat) : Prop :=
  OnItsWay s m kind ∧ s.msgBehind m = false ∧
    (kind = 3 ∨ kind = 6 → ∀ f, f ∈ (s.pkg (pkgOfCtx m.src)).outbox → f.pkt ≠ m.id)

/-- The event that receives a message of a kind (R370, R375). -/
def Receives (i : Instr) (kind id : Nat) : Prop :=
  match kind with
  | 0 => i = .prop id
  | 1 => i = .reply id
  | 2 => i = .gstart id
  | 3 => i = .shard id
  | 4 => i = .evack id
  | 5 => i = .free id
  | 6 => i = .slice id
  | 7 => i = .sack id
  | _ => i = .down id

/-- A message is kept for a member that does not run, and nothing else but what its function is charged and the soft errors of
the record have changed (R221, R374, R403). -/
def KeptFor (s t : State) (m : Msg) : Prop :=
  t = { s with msgs := t.msgs, fns := t.fns, pkgs := t.pkgs, soft := t.soft,
               ctxs := FMap.put s.ctxs m.dst { s.ctx m.dst with kept := (s.ctx m.dst).kept ++ [m] } } ∧
    ∀ p, t.pkg p = { s.pkg p with hbm := (t.pkg p).hbm }

/-- No rank of a group is down on a member (R375). -/
def NoneDown (s : State) (c g : Nat) : Prop := ∀ q, q < (s.ctx c).groupN g → (s.ctx c).down g q = false

/-- The messages without one. -/
def without (s : State) (m : Msg) : List Msg := s.msgs.filter (fun q => q.id != m.id)

/-- What a message says, its number apart. -/
def Msg.says (m : Msg) : Nat × Nat × Nat × Nat × Nat × Nat × Bool × Bool × List Byte :=
  (m.kind, m.src, m.dst, m.group, m.page, m.rank, m.won, m.ackd, m.data)

/-- A message has been replaced by others, in order. -/
def Replaced (s t : State) (m : Msg) (l : List (Nat × Nat × Nat × Nat × Nat × Nat × Bool × Bool × List Byte)) : Prop :=
  ∃ ms : List Msg, t.msgs = without s m ++ ms ∧ ms.map Msg.says = l

/-- The own units of a member's frame (R367). -/
def ownBytes (s : State) (c g r : Nat) (l : Leaf) : List Byte :=
  s.memRead (leafFrame l.word + 256 * unitFrom ((s.ctx c).groupN g) r)
    (256 * (unitFrom ((s.ctx c).groupN g) (r + 1) - unitFrom ((s.ctx c).groupN g) r))

/-- Whether a member has the units of every other rank once those of rank r have come (R372). -/
def GatheredWith (s : State) (c g p r : Nat) : Prop :=
  ∀ q, q < (s.ctx c).groupN g → s.rankIn c g ≠ some q → q = r ∨ hasBit (FMap.look (s.ctx c).got 0 p) q = true

/-- An entry of a shard page lies apart from a record. -/
def RecordApart (l : Leaf) (a : Nat) : Prop := l.at_ + 8 ≤ a ∨ a + 64 ≤ l.at_

/-! ### The Shawm and launches (R383 to R400) -/

/-- The packet events: function, queue and the kind of packet that they begin (R385). -/
def packetOf (i : Instr) : Option (Nat × Nat × Nat) :=
  match i with
  | .nopPacket c q => some (c, q, 0)
  | .launch c q => some (c, q, 1)
  | .copy c q => some (c, q, 2)
  | .indirect c q => some (c, q, 3)
  | .pred c q => some (c, q, 4)
  | .loopPacket c q => some (c, q, 5)
  | .fetchfence c q => some (c, q, 6)
  | .graph c q => some (c, q, 7)
  | .signal c q => some (c, q, 8)
  | _ => none

/-- Queue q of function c as it stands. -/
def queueAt (s : State) (c q : Nat) : Queue := (s.fn c).queue q

/-- Packets of a queue may begin: it is running, its function is not paused, reset or out of command budget, and the object
that it stands in is not at its end (R387, R403, R408). -/
def QueueTurns (s : State) (c q : Nat) : Prop :=
  q < 8 ∧ s.queueTurns c q = true ∧ ∀ l r, (queueAt s c q).levels = l :: r → l.pos < l.len

/-- The next packet of a queue is one of a kind, with its words, and may begin, its queue being the one in turn; `t` is the state
once it has been fetched. -/
def PacketBegins (s : State) (c q kind : Nat) (ws : List DWord) (t : State) : Prop :=
  QueueTurns s c q ∧ s.firstQueue c q = true ∧ s.nextPacket c q = .packet ws t ∧ pkKind (ws.getD 0 0) = kind ∧
    (s.queueBusy c q = false ∨ (kind = 1 ∧ pkFlags (ws.getD 0 0) = 0))

/-- The object that a queue stands in does not end within n bytes. -/
def Unfinished (x : Queue) (n : Nat) : Prop := ∀ l r, x.levels = l :: r → l.pos + n < l.len

/-- A queue n bytes further (R384, R390). -/
def Past (x z : Queue) (n : Nat) : Prop :=
  z.here = (x.here.1, x.here.2.1 + n, x.here.2.2) ∧ z.cur0 = x.origin ∧ (x.levels = [] → z.head = BitVec.ofNat 64 (x.pos + n)) ∧
    z.tail = x.tail ∧ z.en = x.en ∧ z.err = x.err ∧ z.skip = x.skip ∧ z.polling = x.polling ∧ z.signal = x.signal ∧ z.open_ = x.open_

/-- The state of a fetched packet with its queue taken (R387), the queue's replays that have ended forgotten (R393). -/
def taken (s t : State) (c q : Nat) : State := (if s.queueBusy c q then t else t.dropReplays c q).takeQueue c q

/-- The state with a queue past a packet of n bytes. -/
def pastPacket (t : State) (c q n : Nat) : State :=
  let x := queueAt t c q
  t.setQueue c q ((({ x with cur0 := x.origin } : Queue).useUp x.here.2.1 n).advanceBy n).rehead

/-- Nothing has changed but one queue of one function. -/
def OnlyQueue (t u : State) (c q : Nat) : Prop :=
  u = { t with fns := u.fns } ∧ (∀ k, k ≠ c → u.fn k = t.fn k) ∧ u.fn c = { t.fn c with q := (u.fn c).q } ∧
    ∀ k, k ≠ q → queueAt u c k = queueAt t c k

/-- The words of a packet of level 0 lie fetched in its queue, the tail has passed them, and they break no rule (R385, R386,
R392). -/
def FetchedPacket (x : Queue) (ws : List DWord) : Prop :=
  x.levels = [] ∧ x.skip = 0 ∧ ws ≠ [] ∧ pkWords (ws.getD 0 0) = some ws.length ∧ x.pos + 8 * ws.length ≤ x.tail.toNat ∧
    (∀ i j, i < ws.length → j < 8 → FMap.find x.fetched (8 * (x.pos + 8 * i + j)) = some ((ws.getD i 0 >>> (8 * j)).truncate 8)) ∧
    packetFaults x ws x.pos none = []

/-- A queue has stopped with a code and the count of the packet (R386). -/
def Stopped (x z : Queue) (code eoff : Nat) : Prop :=
  z.err = true ∧ z.code = code ∧ z.eoff = eoff % 2 ^ 56 ∧ z.pos = x.pos ∧ z.tail = x.tail ∧ z.head = x.head

/-- The launch that a LAUNCH packet asks for (R394). -/
def askedLaunch (x : Queue) (c q : Nat) (ws : List DWord) : Launch :=
  { ctx := c, q := q, eoff := x.origin, lr := (ws.drop 1).zipIdx.map (fun (e : DWord × Nat) => (e.2, e.1)) }

/-- The 32 bytes of a completion record as a number (R397). -/
def completionNumber (x : Launch) (status detail : Nat) : Nat :=
  (status + detail % 256 * 2 ^ 8 + (if status = 3 then x.core * 2 ^ 32 else 0)) % 2 ^ 64 + 2 ^ 64 * x.word 12 +
    (if status = 3 then 2 ^ 128 * x.s60.toNat + 2 ^ 192 * x.s63.toNat else 0)

/-- A launch's block has been placed as bundles at some keys (R62, R68, R69, R83); no byte of a frame has changed but those that
its register file gives up (R453). -/
def Placed (s t : State) (lid : Nat) (keys : List Nat) (y : Block) : Prop :=
  let x := s.launch lid
  FMap.find (t.launch lid).live x.next = some y ∧ y.left = keys.length ∧ (t.launch lid).next = x.next + 1 ∧ (t.launch lid).waiting = false ∧
  (∀ k, k ∉ keys → t.bundle k = s.bundle k) ∧
  (∀ j k n, keys[j]? = some k → x.sizes[j]? = some n →
    let b := t.bundle k
    b.ser = s.nextSer + j ∧ b.launch = lid ∧ b.width = x.width ∧ b.allot = x.allot ∧ b.dmax = x.depth ∧ b.prio = x.prio ∧ b.blk = x.next ∧
    b.bno = j ∧ b.nb = x.bundles ∧ b.v = [] ∧ b.m = [] ∧ b.wf = [] ∧ b.pend = [] ∧ b.hidden = none ∧ b.onChosenPath ∧
    b.thr = (List.range n).map (fun i => (i, { pc := BitVec.ofNat 32 (x.word 1), cond := .running })) ∧
    b.sreg 0 = BitVec.ofNat 64 (x.word 6) ∧ (b.sreg 1).toNat % 2 ^ 16 = k % 512 ∧
    b.sreg 2 = BitVec.ofNat 64 (x.bundles * 2 ^ 48 + j * 2 ^ 32 + x.next % 2 ^ 32)) ∧
  (∀ n, n ∈ (t.setRec y.set).members ↔ ∃ j k i, keys[j]? = some k ∧ i < x.sizes.getD j 0 ∧ n = (s.nextSer + j) * 64 + i) ∧
  (∃ h, (t.bar y.bar).bound = some (h, y.set)) ∧ t.mem = s.mem ∧ t.ops = s.ops ∧
  ((∀ ck, (s.core ck).rfg ≤ 64) → ∀ ck k, k < 2 ^ 22 → k < (t.core ck).rfg * 65536 ∨ (s.core ck).rfg * 65536 ≤ k →
    FMap.look t.pool 0 (frameKey ck k) = FMap.look s.pool 0 (frameKey ck k))

/-! ### The firmware complex (R427 to R447) -/

/-- A context starts on a function (R453): every byte of its frames is 0, its line tags are V = C = 1 and its tile statuses 0;
the frames of other contexts, and memory, are as they were. -/
def StartsAnew (s t : State) (c : Nat) : Prop :=
  (∀ k, k / 2 ^ 32 = c → FMap.look t.pool 0 k = 0) ∧ (∀ k, k / 2 ^ 32 ≠ c → FMap.look t.pool 0 k = FMap.look s.pool 0 k) ∧
    (∀ ck, ctxOfCore ck = c → ∀ n, FMap.look (t.core ck).tagV true n = true ∧ FMap.look (t.core ck).tagC true n = true ∧
      FMap.look (t.core ck).tst 0 n = 0) ∧
    (∀ ck, ctxOfCore ck ≠ c → t.core ck = s.core ck) ∧ t.mem = s.mem

/-- Event bits of a firmware core have been set (R437): they stand in its EVT, or, where its core is parked in `wfe` on one
of those that stand, that core runs again with the bits of its mask in its register, and they are cleared. -/
def EventsSet (s t : State) (pkg n : Nat) (bits : DWord) : Prop :=
  let old := FMap.look (s.pkg pkg).evt 0 n
  let b := s.bundle (fwKey pkg n)
  ∃ e : FMap DWord, (∀ k, k ≠ n → FMap.look e 0 k = FMap.look (s.pkg pkg).evt 0 k) ∧
    ((∀ d mask, (b.thread 0).cond = .event d mask → (old ||| bits) &&& mask = 0) →
      FMap.look e 0 n = old ||| bits ∧ t = { s with pkgs := FMap.put s.pkgs pkg { s.pkg pkg with evt := e } }) ∧
    (∀ d mask, (b.thread 0).cond = .event d mask → (old ||| bits) &&& mask ≠ 0 →
      FMap.look e 0 n = (old ||| bits) &&& ~~~mask ∧
      ∃ c, t = { s with pkgs := FMap.put s.pkgs pkg { s.pkg pkg with evt := e }, bundles := FMap.put s.bundles (fwKey pkg n) c } ∧
        c = { b with s := c.s, thr := c.thr, active := c.active } ∧ c.onChosenPath ∧
        (∀ k, c.sreg k = if k = d then (old ||| bits) &&& mask else b.sreg k) ∧
        c.thr = b.thr.map (fun (q : Nat × Thread) => if q.1 = 0 then (q.1, { q.2 with cond := .running }) else q))

/-- The same on each of the sixteen cores of a package, in order. -/
def EventsSetAll (s t : State) (pkg : Nat) (bits : DWord) : Prop :=
  ∃ f : Nat → State, f 0 = s ∧ f 16 = t ∧ ∀ n, n < 16 → EventsSet (f n) (f (n + 1)) pkg n bits

/-- A lease has lapsed at a count of LCYC: its holder is 31, or the count has reached its expiry, compared modulo 2^48 (R432). -/
def Lapsed (w : DWord) (now : Nat) : Prop := w.toNat / 2 ^ 59 = 31 ∨ (now + 2 ^ 48 - w.toNat % 2 ^ 48) % 2 ^ 48 < 2 ^ 47

/-- A rank of a context's group table lists a package. -/
def Lists (s : State) (c pkg g r : Nat) : Prop := g < 64 ∧ r < (s.ctx c).groupN g ∧ (s.ctx c).member g r % 64 = pkg

/-- A context stands next to a package in a group: its rank is next to one that lists the package (R434). -/
def NextTo (s : State) (c pkg : Nat) : Prop :=
  ∃ g r me, Lists s c pkg g r ∧ s.rankIn c g = some me ∧ me ≠ r ∧
    ((me + 1) % (s.ctx c).groupN g = r ∨ (r + 1) % (s.ctx c).groupN g = me)

/-- An agent is the owner of a package: the endpoint whose proposal decided the owner cell (R442; log 24). -/
def OwnsPackage (p : Pkg) (agent : Nat) : Prop :=
  16 ≤ agent ∧ agent < 2 ^ 20 ∧ p.owner1.toNat % 8 = 3 ∧
    p.owner1.toNat / 2 ^ 32 = 2 ^ 31 + 2 * 2 ^ 23 + (agent - 16) % 2 ^ 10 * 2 ^ 13

/-- The state with one write to a package's management block refused and counted (R430). -/
def refusedWrite (s : State) (pkg : Nat) : State :=
  { s with pkgs := FMap.put s.pkgs pkg { s.pkg pkg with deny := (s.pkg pkg).deny + 1 } }

/-- A trigger of a snapshot: a held one is joined and nothing changes; otherwise the clock is latched with its source, the
snapshot registers are those of this step, none of them read out yet, and every firmware core has event 4 (R229, R437, R445). -/
def Latched (s t : State) (pkg src : Nat) : Prop :=
  let p := s.pkg pkg
  (p.snap.getLsbD 1 = true → t = s) ∧
  (p.snap.getLsbD 1 = false →
    EventsSetAll { s with pkgs := FMap.put s.pkgs pkg { p with
      snap := BitVec.ofNat 64 (s.cycle % 2 ^ 48 * 2 ^ 16 + src * 2 ^ 8 + (if p.snap.getLsbD 2 then 4 else 0) + 2), snapAt := s.tick, snapRead := 0 } } t pkg 16)

/-- Bytes of a report of attestation from its parts: nonce, MEAS0 to MEAS15, GO, the function's measurement or zeros, and
the device's identity (R441; log 13). -/
def reportByte (p : Pkg) (pkg go k : Nat) : Byte :=
  let part := fun (w : BitVec 384) (i : Nat) => BitVec.ofNat 8 (w.toNat / 256 ^ i)
  if k < 48 then FMap.look p.mbox 0 k
  else if k < 816 then part (FMap.look p.meas 0 ((k - 48) / 48)) ((k - 48) % 48)
  else if k < 824 then BitVec.ofNat 8 (go / 256 ^ (k - 816))
  else if k < 872 then (if go / 2 ^ 8 % 2 = 1 then part (FMap.look p.fmeas 0 (go / 2 ^ 16 % 256)) (k - 824) else 0)
  else Config.deviceIdentity (16 * pkg + (k - 872))

/-! ### Power, training and links (R325 to R328, R439, R446 to R450) -/

/-- The state that a domain has, or moves to while it changes. -/
def levelOf (x : Power) : Nat := if x.state = 3 then x.goal else x.state

/-- The base die of a compute die or a stack (R447). -/
def UnderBase (d b : Nat) : Prop := (8 ≤ d ∧ d < 24 ∧ b = (d - 8) / 2) ∨ (24 ≤ d ∧ d < 40 ∧ b = (d - 24) / 2)

/-- A request breaks the order of R447: it raises a die or stack whose base die is not on, or lowers a base die while a die
or stack of it is not off. -/
def BreaksOrder (p : Pkg) (d req : Nat) : Prop :=
  (levelOf (p.domain d) < req ∧ ∃ b, UnderBase d b ∧ (p.domain b).state ≠ 2) ∨
  (d < 8 ∧ req < levelOf (p.domain d) ∧ ∃ l, UnderBase l d ∧ (p.domain l).state ≠ 0)

/-- A domain after a request that keeps the order: it changes, or has the state requested already. -/
def requested (x : Power) (req now : Nat) : Power :=
  if x.state = req then { x with req := req, goal := req } else { x with req := req, goal := req, state := 3, since := now }

/-- The state with one domain of a package replaced. -/
def withDomain (s : State) (pkg d : Nat) (x : Power) : State :=
  { s with pkgs := FMap.put s.pkgs pkg { s.pkg pkg with pd := FMap.put (s.pkg pkg).pd d x } }

/-- A stack's training registers. -/
def stackAt (s : State) (pkg stack : Nat) : Stack := FMap.look (s.pkg pkg).hbm {} stack

/-- The state with one stack of a package replaced. -/
def withStack (s : State) (pkg stack : Nat) (x : Stack) : State :=
  { s with pkgs := FMap.put s.pkgs pkg { s.pkg pkg with hbm := FMap.put (s.pkg pkg).hbm stack x } }

/-- A link of a package. -/
def linkAt (s : State) (pkg link : Nat) : Link := FMap.look (s.pkg pkg).links {} link

/-- The state with one link of a package replaced. -/
def withLink (s : State) (pkg link : Nat) (x : Link) : State :=
  { s with pkgs := FMap.put s.pkgs pkg { s.pkg pkg with links := FMap.put (s.pkg pkg).links link x } }

/-- A link after it has sent a flit, which stays in the retry buffer: the header with its numbers and the next channel's count,
over the payload (R325, R327, R328). -/
def sentOn (x : Link) (kind vc body : Nat) : Link :=
  let f := (kind * 2 ^ 60 + vc * 2 ^ 57 + x.seqNext * 2 ^ 47 + x.lastGood * 2 ^ 37 + x.nextVc * 2 ^ 34 +
    FMap.look x.freed 0 x.nextVc * 2 ^ 18 + (if x.rsnd then 2 ^ 17 else 0)) * 2 ^ 896 + body
  { x with
    retry := x.retry ++ [(x.seqNext, f)]
    wire := x.wire ++ [f]
    seqNext := (x.seqNext + 1) % 1024
    sent := if kind = 0 then x.sent else FMap.put x.sent vc ((FMap.look x.sent 0 vc + 1) % 2 ^ 16)
    nextVc := (x.nextVc + 1) % 8 }

/-- The events that start a phase of memory training: package, stack and phase (R449). -/
def memoryPhase (i : Instr) : Option (Nat × Nat × Nat) :=
  match i with
  | .mtIeee1500Reset p k => some (p, k, 1)
  | .mtImpedanceCal p k => some (p, k, 2)
  | .mtCaTraining p k => some (p, k, 3)
  | .mtReadEye p k => some (p, k, 4)
  | .mtWriteEye p k => some (p, k, 5)
  | .mtLaneRepair p k => some (p, k, 6)
  | .mtScrubStart p k => some (p, k, 7)
  | .mtRefreshEnable p k => some (p, k, 8)
  | _ => none

/-- The events that start a phase of link training: package, link and phase (R450). -/
def linkPhase (i : Instr) : Option (Nat × Nat × Nat) :=
  match i with
  | .ltReceiverDetect p l => some (p, l, 1)
  | .ltBitLock p l => some (p, l, 2)
  | .ltFlitLock p l => some (p, l, 3)
  | .ltCreditExchange p l => some (p, l, 4)
  | .ltActive p l => some (p, l, 5)
  | _ => none

/-- The events that request a state of a power domain: package, domain and state (R447). -/
def domainRequest (i : Instr) : Option (Nat × Nat × Nat) :=
  match i with
  | .pdReqOff p d => some (p, d, 0)
  | .pdReqRetention p d => some (p, d, 1)
  | .pdReqOn p d => some (p, d, 2)
  | _ => none

/-- A flit's sequence number has been accepted before: it lies among the 512 before the one wanted (R327). -/
def Accepted (want fseq : Nat) : Prop := (want + 2047 - fseq % 1024) % 1024 < 512

/-- Whether a word of memory numbered as in State.soft lies in a stack of a package. -/
def inStack (pkg stack e : Nat) : Bool :=
  decide (e % 2 = 1 ∧ pkgOfPa (8 * (e / 2)) = pkg ∧ localOfPa (8 * (e / 2)) / 2 ^ 36 = stack)

/-! ### The invariant that every step keeps -/

/-- Every entry that waits or works in a core's matrix FIFO, cell array, tile port or signature queue has a number below one. -/
def Core.entriesBelow (c : Core) (n : Nat) : Prop :=
  (∀ m, m ∈ c.mq → m.opId < n) ∧ (∀ m, c.loop = some m → m.opId < n) ∧ (∀ m, c.port = some m → m.opId < n) ∧
    (∀ m, m ∈ c.sq → m.opId < n) ∧ ∀ m, c.sgo = some m → m.opId < n

/-- Every operation in progress and every entry of an engine has a number below the one that the next operation gets. -/
def State.identified (s : State) : Prop :=
  s.numbered ∧ ∀ e, e ∈ s.cores → e.2.entriesBelow s.nextId

/-- What the device save areas hold can be loaded back (R412): the image of a frame lists its bytes in canonical form, all of them
within one frame, and its engine entries have numbers below the next. -/
def State.imagesFit (s : State) : Prop :=
  ∀ x, x ∈ s.images → FMap.canon x.pool 0 = true ∧ (∀ e, e ∈ x.pool → e.1 < 2 ^ 22) ∧ x.core.entriesBelow s.nextId

/-- The form of a state: the bytes of memory, of the pool and of SRAM stand in canonical form, what is in progress is numbered
below what is to come, and the saved images can be loaded back. -/
def State.formed (s : State) : Prop := s.canonical ∧ s.identified ∧ s.imagesFit

end Sys2Proof.Machine
end

