-- ==== Sys2Proof/Certificates/Slice0/Obligations.lean ====
section
/-! DEFINITION. The statements about the model, one definition each. Their words stand in OBLIGATIONS.json. -/

open Sys2Proof Sys2Proof.Machine

/-- For every well-formed instruction that is no event, whatever its operands, and for whatever words stand after it,
decoding its encoded words gives the instruction itself and their number (R85 to R92, R104). -/
def Obligations.EncodedInstructionDecodes : Prop :=
  ∀ (i : Instr) (ws : List Word), i.wellFormed = true → isEvent i = false →
    decodeWords (encode i ++ ws) = .ok (i, (encode i).length)

/-- Whenever the decoder reads an instruction of n words, at least n words are there and the first n of them are
exactly that instruction's encoding, so that no bit of any word is dropped and no two encodings share a word (R85 to
R92, R104). -/
def Obligations.DecodedWordsAreTheEncoding : Prop :=
  ∀ (ws : List Word) (i : Instr) (n : Nat), decodeWords ws = .ok (i, n) →
    n ≤ ws.length ∧ encode i = ws.take n ∧ isEvent i = false

/-- The decoder refuses, whatever words follow: a first word of class 14 or 15; a first word of class 13 whose length
code is not 01; a first word of length code 01 whose class is not 13; a prefix word followed by a word whose length
code is not 00 or whose class is 0, 13, 14 or 15; and an extended unit of class 0 (R86, R111). It refuses an op that
its class does not assign as unassigned, in the base, the prefixed, the extended and the literal form (R110). -/
def Obligations.ReservedShapesRefused : Prop :=
  (∀ (w : Word) (ws : List Word), (fld w.toNat 26 4 = 14 ∨ fld w.toNat 26 4 = 15) → decodeWords (w :: ws) = .error .shape) ∧
  (∀ (w : Word) (ws : List Word), fld w.toNat 26 4 = 13 → fld w.toNat 30 2 ≠ 1 → decodeWords (w :: ws) = .error .shape) ∧
  (∀ (w : Word) (ws : List Word), fld w.toNat 30 2 = 1 → fld w.toNat 26 4 ≠ 13 → decodeWords (w :: ws) = .error .shape) ∧
  (∀ (w v : Word) (ws : List Word), fld w.toNat 30 2 = 1 → (fld v.toNat 30 2 ≠ 0 ∨ fld v.toNat 26 4 = 0 ∨ 13 ≤ fld v.toNat 26 4) →
    decodeWords (w :: v :: ws) = .error .shape) ∧
  (∀ (w : Word) (ws : List Word), 2 ≤ fld w.toNat 30 2 → fld w.toNat 26 4 = 0 → decodeWords (w :: ws) = .error .shape) ∧
  (∀ (w : Word) (ws : List Word), fld w.toNat 30 2 = 0 → 1 ≤ fld w.toNat 26 4 → fld w.toNat 26 4 ≤ 12 →
    (∀ x, instrOfOp (fld w.toNat 26 4) (fld w.toNat 20 6) x = none) → decodeWords (w :: ws) = .error .unassigned) ∧
  (∀ (w v : Word) (ws : List Word), fld w.toNat 30 2 = 1 → fld w.toNat 26 4 = 13 → fld v.toNat 30 2 = 0 →
    1 ≤ fld v.toNat 26 4 → fld v.toNat 26 4 ≤ 12 → (∀ x, instrOfOp (fld v.toNat 26 4) (fld v.toNat 20 6) x = none) →
    decodeWords (w :: v :: ws) = .error .unassigned) ∧
  (∀ (w w1 w2 w3 w4 : Word) (ws : List Word), 1 ≤ fld w.toNat 26 4 → fld w.toNat 26 4 ≤ 12 →
    (∀ x, instrOfOp (fld w.toNat 26 4) (fld w.toNat 20 6) x = none) →
    (fld w.toNat 30 2 = 2 → decodeWords (w :: w1 :: w2 :: ws) = .error .unassigned) ∧
    (fld w.toNat 30 2 = 3 → decodeWords (w :: w1 :: w2 :: w3 :: w4 :: ws) = .error .unassigned))

/-- The decoder reads the manual's worked words as written there: .clause wait=w1 with one word; add.i32 v10, v2, #1;
mad.i32 v3, v4, v5, v6; fadd.bf16 v3, v4, v5; rejoin at +8; ld.g.b32 v9, [s4 + v2]; atom.add.n32 v4, [s6 + v3], v5;
fence.co; mx.loop a3, t1, t2, s10, s11, b.co5; xf.drain; mfs s5, sr.status (R85, R161, R176, R193, R249, R303, R201,
R269, R336, R228). -/
def Obligations.WorkedEncodingsDecode : Prop :=
  decodeWords [0x0000BFC1] = .ok (.clauseHeader 2 15 15 1, 1) ∧
  decodeWords [0x04050824] = .ok (.add { d := 10, a := 2, b := 1, i := true }, 1) ∧
  decodeWords [0x74003000, 0x044190A0] = .ok (.mad { form := .prefixed, d := 3, a := 4, b := 5, c := 6 }, 2) ∧
  decodeWords [0x080190A8] = .ok (.fadd { d := 3, a := 4, b := 5, ty := 1 }, 1) ∧
  decodeWords [0x10700100] = .ok (.rejoin { b := 8 }, 1) ∧
  decodeWords [0x18049040] = .ok (.ldG { d := 9, a := 4, b := 2 }, 1) ∧
  decodeWords [0x74002800, 0x1C021868] =
    .ok (.atomAdd { form := .prefixed, d := 4, a := 6, b := 3, c := 5, ty := 1 }, 2) ∧
  decodeWords [0xA0800000, 0, 1] = .ok (.fence { form := .extended, w2 := 1 }, 3) ∧
  decodeWords [0xA4002962, 0, 0x01020C28] =
    .ok (.mxLoop { form := .extended, a := 10, b := 11, u := true, w2 := 0x01020C28 }, 3) ∧
  decodeWords [0x2C300002] = .ok (.xfDrain { u := true }, 1) ∧
  decodeWords [0x30028002] = .ok (.mfs { d := 5, u := true }, 1)

/-- Let no period boundary be due, let a lane have started a bundle none of whose active threads arrives at its
meeting address, and let the words fetched from the PC of its path on (their number is what the first one's length
code says) decode to a well-formed instruction i, which a firmware core may execute if the bundle is one; inside a
clause i is no header and ends within the clause, and at a clause's start it is a header. Then the step is exec of i
in the state that the fetch left (it may have cached a translation), then the turn at the bundle's level moves past it
if it has issued, and the time that the step took passes (R14, R71, R76, R85, R104 to R106, R112). The step counter
and the passing of time are the model's own (notes/assumptions/3.md, notes/assumptions/6.md). -/
def Obligations.StepRunsDecodedUnit : Prop :=
  ∀ (s s' : State) (bk : Nat) (ws : List Word) (i : Instr),
    s.duePeriod = none → s.issuing = some bk → (s.bundle bk).arrived = 0 →
    (∃ w ws', ws = w :: ws' ∧ ws.length = unitWords w.toNat) →
    s.fetchUnit bk (s.bundle bk).pc ws.length = .words ws s' →
    decodeWords ws = .ok (i, ws.length) → i.wellFormed = true → startsOn bk i = true →
    (if ((s.bundle bk).thread (s.bundle bk).lead).clo = 0 then ws.length = 1 ∧ ∃ w a b l, i = .clauseHeader w a b l
     else (∀ w a b l, i ≠ .clauseHeader w a b l) ∧
       ((s.bundle bk).thread (s.bundle bk).lead).clo + ws.length ≤ clauseSpan ((s.bundle bk).thread (s.bundle bk).lead).hdr) →
    step s = timed (turned s' bk i (exec i s'))

/-- Under the same fetch, the step ends in trap 0x01 with detail 0 of the state that the fetch left, and in nothing
else: at a clause's start, for a word that is no header or whose header R104 refuses; inside a clause, for a header,
for words that decode to nothing or to an instruction that a fate of R112 or the firmware rules of R18 refuse, and for
a unit that runs past the clause's end, of which only the first word is fetched (R104 to R106, R112, R219). A kernel's
word with PC p lies at the code base plus 4 p, modulo 2^64. With nothing cached for it and no access waiting for its
page, the fetch finds 0x04 where the walk gives no leaf, 0x05 where the leaf has no X or is a CELL page, and under an
ORDINARY or REMOTE leaf whose frame lies in HBM, free of uncorrectable errors, the little-endian word there; memory is
as it was (R57, R85, R194, R362, R394). A firmware core's word lies at 4 p of its SRAM; beyond it the fetch finds
0x04, the model's choice (notes/assumptions/20.md). -/
def Obligations.StepTrapsIllegalUnit : Prop :=
  (∀ (s s' : State) (bk : Nat) (ws : List Word),
    s.duePeriod = none → s.issuing = some bk → (s.bundle bk).arrived = 0 →
    (∃ w ws', ws = w :: ws' ∧
      ws.length = if ((s.bundle bk).thread (s.bundle bk).lead).clo = 0 then 1 else unitWords w.toNat) →
    s.fetchUnit bk (s.bundle bk).pc ws.length = .words ws s' →
    (if ((s.bundle bk).thread (s.bundle bk).lead).clo = 0 then
       (∀ a b c d, decodeWords ws ≠ .ok (.clauseHeader a b c d, 1)) ∨
         (∃ a b c d, decodeWords ws = .ok (.clauseHeader a b c d, 1) ∧ headerOk b c d = false)
     else ((s.bundle bk).thread (s.bundle bk).lead).clo + ws.length ≤ clauseSpan ((s.bundle bk).thread (s.bundle bk).lead).hdr ∧
       ((∃ e, decodeWords ws = .error e) ∨ (∃ a b c d n, decodeWords ws = .ok (.clauseHeader a b c d, n)) ∨
         (∃ i n, decodeWords ws = .ok (i, n) ∧ (i.wellFormed = false ∨ startsOn bk i = false)))) →
    step s = .next (s'.trapSync bk 0x01 0).advance) ∧
  (∀ (s s' : State) (bk : Nat) (w : Word),
    s.duePeriod = none → s.issuing = some bk → (s.bundle bk).arrived = 0 →
    s.fetchUnit bk (s.bundle bk).pc 1 = .words [w] s' → ((s.bundle bk).thread (s.bundle bk).lead).clo ≠ 0 →
    clauseSpan ((s.bundle bk).thread (s.bundle bk).lead).hdr < ((s.bundle bk).thread (s.bundle bk).lead).clo + unitWords w.toNat →
    step s = .next (s'.trapSync bk 0x01 0).advance) ∧
  (∀ (s : State) (bk : Nat) (pc : Word),
    let va := ((s.launch (s.bundle bk).launch).codeBase + 4 * pc.toNat) % 2 ^ 64
    isFw bk = false → Walks s bk va → (∀ p q, p ∈ s.ops → q ∈ p.reqs → s.joins bk va p q = false) →
    (s.walk (ctxOfBundle bk) va = none → s.fetchWordAt bk pc = .trap 0x04 va) ∧
    (∀ l, s.walk (ctxOfBundle bk) va = some l →
      let kind := l.word.toNat / 2 ^ 5 % 8
      ((l.word.getLsbD 3 = false ∨ kind = 2) → s.fetchWordAt bk pc = .trap 0x05 va) ∧
      (l.word.getLsbD 3 = true → (kind = 0 ∨ kind = 1) → (∃ x, s.place (leafAddress l va) = .hbm x) →
        s.memBad (leafAddress l va) 4 = none →
        ∃ (w : Word) (t : State), s.fetchWordAt bk pc = .word w t ∧ w.toNat = natOfBytes (s.memRead (leafAddress l va) 4) ∧
          t.mem = s.mem))) ∧
  (∀ (s : State) (bk : Nat) (pc : Word), isFw bk = true →
    s.fetchWordAt bk pc = if 0x20000 ≤ pc.toNat then .trap 0x04 (4 * pc.toNat)
      else .word (BitVec.ofNat 32 (natOfBytes (s.sramRead bk (4 * pc.toNat) 4))) s)

/-- For every state in which a lane has started a bundle's jmp, br, bru, brx, call, callx, ret or loop whose registers
are in bounds: exec answers a next state in which only that bundle has changed and the lane is free. Each thread of
the path stands at its target, at the start of a clause, if it transfers, and at the next unit otherwise; threads
outside the path stand where they stood. A call writes the link of each executing thread or, in the U form, of the
bundle; loop counts S[d] down and branches while the result is not 0; every other register, mask and flag is
unchanged; and the path that runs next is the one R74 chooses (R74, R106, R194, R195). -/
def Obligations.ControlTransfersComplete : Prop :=
  ∀ (i : Instr) (r : Row) (x : Enc) (s : State) (bk : Nat), i.parts = some (r, x) → isTransfer i = true → Passes s bk r x →
    ∃ c, exec i s = .next (after s bk c) ∧
      c.thr = (s.bundle bk).thr.map (movedThread i x (s.bundle bk)) ∧
      (∀ t n, t < 64 → c.vreg t n = if linksThreads i x = true ∧ hasBit ((s.bundle bk).executing x) t = true ∧ n = x.d.toNat
        then linkOf (s.bundle bk) x else (s.bundle bk).vreg t n) ∧
      (∀ n, c.sreg n = sregAfter i x (s.bundle bk) n) ∧
      c.onChosenPath ∧
      c = { s.bundle bk with v := c.v, s := c.s, thr := c.thr, active := c.active }

/-- Let a lane have started a bundle's rejoin whose registers are in bounds. If some executing thread's depth is D,
exec takes trap 0x0D with D as its detail, as a synchronous trap of the unit and before any change; so with D = 0
every rejoin of a thread does. Otherwise exec answers a next state in which only that bundle has changed: each
executing thread's register A - 1 - depth holds its old meeting address, its meeting address is the target L, its
depth is one more, and the family of that new depth has it as a member; every other register, family bit, meeting
address and depth is unchanged; the threads of the path stand at the next unit, and the path that runs next is the one
R74 chooses. -/
def Obligations.RejoinActsOnEachThread : Prop :=
  ∀ (x : Enc) (s : State) (bk : Nat), Passes s bk (rowOf (.rejoin x)) x →
    ((∃ t, t < 64 ∧ hasBit ((s.bundle bk).executing x) t = true ∧ ((s.bundle bk).thread t).depth = (s.bundle bk).dmax) →
      exec (.rejoin x) s = .next (s.trapSync bk 0x0D (s.bundle bk).dmax)) ∧
    ((∀ t, t < 64 → hasBit ((s.bundle bk).executing x) t = true → ((s.bundle bk).thread t).depth ≠ (s.bundle bk).dmax) →
    ∃ c, exec (.rejoin x) s = .next (after s bk c) ∧
      c.thr = (s.bundle bk).thr.map (fun (e : Nat × Thread) =>
        let th := if hasBit ((s.bundle bk).executing x) e.1
          then { e.2 with meet := (s.bundle bk).pc + ctlOffset x, depth := e.2.depth + 1 } else e.2
        if hasBit (s.bundle bk).active e.1 then (e.1, th.advance (unitLen x)) else (e.1, th)) ∧
      (∀ t n, t < 64 → c.vreg t n =
        if hasBit ((s.bundle bk).executing x) t = true ∧ n = (s.bundle bk).allot - 1 - ((s.bundle bk).thread t).depth
        then ((s.bundle bk).thread t).meet else (s.bundle bk).vreg t n) ∧
      (∀ k t, t < 64 → hasBit (c.family k) t = (hasBit ((s.bundle bk).family k) t ||
        (hasBit ((s.bundle bk).executing x) t && decide (((s.bundle bk).thread t).depth + 1 = k)))) ∧
      c.onChosenPath ∧
      c = { s.bundle bk with v := c.v, fam := c.fam, thr := c.thr, active := c.active })

/-- For every state in which a lane has started a bundle's exit or kill whose registers are in bounds, exec answers a
next state. Let the named threads be the executing ones for exit, and for kill, where some thread executes, every live
thread whose bit of m(d) is 1 and which is not an active thread outside the mask (such a thread goes on as if the
instruction were absent), and none where no thread executes. Each named thread is dead afterwards (a bundle no longer
resident has no live thread), and no set has it as a member any more; the lane is free; memory, the pool, SRAM and the
operations in progress are unchanged (R65, R67, R78, R192, R198). A firmware core starts neither: to it they are no
legal unit, and StepTrapsIllegalUnit gives trap 0x01 (R18, R428). -/
def Obligations.ExitAndKillComplete : Prop :=
  (∀ (i : Instr) (x : Enc) (s : State) (bk : Nat) (m : DWord), Passes s bk (rowOf i) x → (s.bundle bk).fw = none →
    (i = .exit x ∧ m = (s.bundle bk).executing x) ∨ (i = .kill x ∧ m = if (s.bundle bk).executing x = 0 then 0 else
      (s.bundle bk).mreg x.d.toNat &&& (s.bundle bk).live &&& ~~~((s.bundle bk).active &&& ~~~(s.bundle bk).executing x)) →
    ∃ t, exec i s = .next t ∧
      (∀ u, u < 64 → hasBit m u = true → ((t.bundle bk).thread u).cond = .dead ∧
        ∀ k, threadNo (s.bundle bk).ser u ∉ (t.setRec k).members) ∧
      t.issuing = none ∧ t.mem = s.mem ∧ t.pool = s.pool ∧ t.sram = s.sram ∧ t.ops = s.ops) ∧
  (∀ (x : Enc) (bk : Nat), isFw bk = true → startsOn bk (.exit x) = false ∧ startsOn bk (.kill x) = false)

/-- For every state in which a lane has started the unit for a resident bundle, exec answers a next state. nop: the
path stands at the next unit and nothing else has changed but the choice of path. yield, and sleep with count 0: so
too, and on a compute core the turn at the bundle's lane and priority stands at the slot after its own. sleep #n: the
threads of the path stand at the next unit and sleep until the active cycles of the context (of a firmware core the
clock, which is the model's choice, notes/assumptions/81.md) reach the present count plus 256 n. halt, on a firmware
core with no operation outstanding: the core is halted and its FWSTAT shows HALT in bit 1, FAULT unchanged (R71, R74,
R200, R438). Let a lane have started a bundle's clause header, and let no held transfer error of the bundle have
counted on a flag of WAIT. Then exec answers a next state in which only that bundle has changed and the lane is free.
If every flag of WAIT is zero, each thread of the path stands at the first word after the header, with LEN words of
the clause before it; if some flag of WAIT is not zero, each thread of the path that has not passed the test already
is parked at the header until they are. Every thread of the path keeps the header word, no register or flag changes,
and a path is chosen anew only where none is left running (R104, R105, R108). -/
def Obligations.WaitsAndHeadersComplete : Prop :=
  (∀ (x : Enc) (s : State) (bk : Nat), Passes s bk (rowOf (.nop x)) x → (s.bundle bk).ser ≠ 0 →
    ∃ c, exec (.nop x) s = .next (after s bk c) ∧ c.onChosenPath ∧
      c = { s.bundle bk with thr := pastUnit (s.bundle bk) x, active := c.active }) ∧
  (∀ (i : Instr) (x : Enc) (s : State) (bk : Nat), (i = .yield x ∨ (i = .sleep x ∧ ctlCode x = 0)) → Passes s bk (rowOf i) x →
    (s.bundle bk).ser ≠ 0 →
    ∃ c t, exec i s = .next t ∧ c.onChosenPath ∧ c = { s.bundle bk with thr := pastUnit (s.bundle bk) x, active := c.active } ∧
      t = { after s bk c with cores := t.cores } ∧
      (isFw bk = true → t.cores = s.cores) ∧
      (isFw bk = false → ∀ ck k, FMap.look (t.core ck).rr 0 k =
        if ck = coreOfBundle bk ∧ k = 8 * laneOfBundle bk + (s.bundle bk).prio then (slotOfBundle bk + 1) % 8
        else FMap.look (s.core ck).rr 0 k)) ∧
  (∀ (x : Enc) (s : State) (bk : Nat), Passes s bk (rowOf (.sleep x)) x → ctlCode x ≠ 0 →
    ∃ c, exec (.sleep x) s = .next (after s bk c) ∧ c.onChosenPath ∧
      c.thr = (s.bundle bk).thr.map (fun (e : Nat × Thread) => if hasBit (s.bundle bk).active e.1
        then (e.1, { e.2.advance (unitLen x) with cond := .sleep (s.activeCycles bk + 256 * ctlCode x) }) else e) ∧
      c = { s.bundle bk with thr := c.thr, active := c.active }) ∧
  (∀ (x : Enc) (s : State) (bk n : Nat), Passes s bk (rowOf (.halt x)) x → (s.bundle bk).fw = some n →
    (∀ o, o ∈ s.ops → o.ser ≠ (s.bundle bk).ser) →
    ∃ t, exec (.halt x) s = .next t ∧ t.issuing = none ∧ (t.bundle bk).active = 0 ∧
      (∀ e, e ∈ (t.bundle bk).thr → e.1 = 0 → e.2.cond = .halted) ∧
      (FMap.look (t.pkg (pkgOfBundle bk)).fwstat 0 ((bk - fwBase) % 16)) % 8 =
        (FMap.look (s.pkg (pkgOfBundle bk)).fwstat 0 ((bk - fwBase) % 16)) / 4 % 2 * 4 + 2 ∧
      t.mem = s.mem ∧ t.pool = s.pool ∧ t.sram = s.sram) ∧
  (∀ (w : BitVec 12) (a b : BitVec 4) (l : BitVec 6) (s : State) (bk : Nat), s.issuing = some bk → l ≠ 0 →
    (∀ e, e ∈ s.xerrs → e.ser = (s.bundle bk).ser → e.onFlags w.toNat = false) →
    ∃ c, exec (.clauseHeader w a b l) s = .next (after s bk c) ∧
      c.thr = (s.bundle bk).thr.map (fun (e : Nat × Thread) =>
        if hasBit (s.bundle bk).active e.1 then
          (e.1, if flagsClear (s.bundle bk) w = true ∨ e.2.tested = true
            then { e.2 with hdr := headerWord w a b l, pc := e.2.pc + 1, clo := 1, released := false, tested := false }
            else { e.2 with hdr := headerWord w a b l, cond := .flags w.toNat, released := true })
        else e) ∧
      ((c.active = (s.bundle bk).active &&& c.running ∧ c.active ≠ 0) ∨ c.onChosenPath) ∧
      c = { s.bundle bk with thr := c.thr, active := c.active })

/-- For every state, bundle and trap of whatever kind, code, count, engine, affected threads and detail: where the
bundle's kernel has a vector, and the trap is a reported one or the bundle is in no handler, taking it changes the
bundle as R223 and R224 say and nothing else: s60 holds UPC, KIND, CNT, ENG and CODE in their fields, s61 RPC, s62 the
mask, s63 the detail; the old s60 to s63, the priority and the handler set stand in the hidden save; the priority is
4; the handler set's threads stand at the vector clause; all else is as it was. Where a kernel has no vector, or a
trap that is not a reported one is raised in a handler, taking the trap of a bundle of a compute core ends its launch,
unless it has ended so already: the launch is killed with STATUS 3, the dense core, the s60 record and the detail;
every thread of every resident bundle of that launch is dead; memory, the pool and SRAM are unchanged (R223). -/
def Obligations.TakingATrap : Prop :=
  (∀ (s : State) (bk code kind clo cnt eng : Nat) (upc rpc : Word) (tmask detail : DWord),
    kind < 4 → cnt < 256 → eng < 16 → code < 256 → s.vector bk ≠ 0xFFFFFFFF → (kind = 1 ∨ (s.bundle bk).hidden = none) →
    ∃ c, s.takeTrap bk code kind upc rpc clo cnt eng tmask detail = after s bk c ∧
      Entered (s.bundle bk) c (s.vector bk) upc rpc kind cnt eng code tmask detail) ∧
  (∀ (s : State) (bk code kind clo cnt eng : Nat) (upc rpc : Word) (tmask detail : DWord),
    kind < 4 → cnt < 256 → eng < 16 → code < 256 → (s.vector bk = 0xFFFFFFFF ∨ (kind ≠ 1 ∧ (s.bundle bk).hidden ≠ none)) →
    (s.bundle bk).fw = none → (s.launch (s.bundle bk).launch).killed = false →
    let t := s.takeTrap bk code kind upc rpc clo cnt eng tmask detail
    (t.launch (s.bundle bk).launch).killed = true ∧ (t.launch (s.bundle bk).launch).status = 3 ∧
      (t.launch (s.bundle bk).launch).core = denseOfCore (coreOfBundle bk) ∧
      (t.launch (s.bundle bk).launch).s60 =
        BitVec.ofNat 64 (upc.toNat * 2 ^ 32 + kind * 2 ^ 26 + cnt * 2 ^ 16 + eng * 2 ^ 8 + code) ∧
      (t.launch (s.bundle bk).launch).s63 = detail ∧
      (∀ k c, FMap.find t.bundles k = some c → c.launch = (s.bundle bk).launch → c.fw = none →
        ∀ u, u < 64 → (c.thread u).cond = .dead) ∧
      t.issuing = none ∧ t.mem = s.mem ∧ t.pool = s.pool ∧ t.sram = s.sram)

/-- For every state in which a lane has started a bundle's trap, the bundle is in no handler and its kernel has a
vector: exec answers a next state in which only that bundle has changed: it has entered its handler with KIND 2, the
code of the unit, CNT 1 (the model's reading of R224, notes/assumptions/33.md), UPC the unit, RPC the word after it,
the path's threads as mask and detail 0 (R199, R223, R224). For every state in which a lane has started tret of a
bundle in a handler: exec answers a next state in which only that bundle has changed. Each live thread of the handler
set is running at the word that s61 names; s60 to s63 and the priority are those of the hidden save, which is gone;
every other register, and every thread's depth and meeting address, and the family masks, are as the handler left
them; the path that runs next is the one R74 chooses (R225). For every instruction of classes 1 to 3: where a lane has
started it and its operands name, in bounds order, a register at or beyond the allotment (or an odd or row-crossing
number where an indirect operand may not have one), exec takes trap 0x02 with that number as detail, as a synchronous
trap of the unit, and has no other effect (R60, R98, R100, R112). A tret of a bundle that is in no handler, and a halt
of a bundle that is no firmware core, take trap 0x01 with detail 0 as a synchronous trap of their own unit, and change
nothing else (R18, R199, R219). -/
def Obligations.TrapInstructionsComplete : Prop :=
  (∀ (x : Enc) (s : State) (bk : Nat), Passes s bk (rowOf (.trap x)) x → s.vector bk ≠ 0xFFFFFFFF → (s.bundle bk).hidden = none →
    ∃ c, exec (.trap x) s = .next (after s bk c) ∧
      Entered (s.bundle bk) c (s.vector bk) (s.bundle bk).pc (linkOf (s.bundle bk) x) 2 1 0 (ctlCode x) (s.bundle bk).active 0) ∧
  (∀ (x : Enc) (s : State) (bk : Nat) (h : Hidden), Passes s bk (rowOf (.tret x)) x → (s.bundle bk).hidden = some h →
    ∃ c, exec (.tret x) s = .next (after s bk c) ∧
      c.sreg 60 = h.s60 ∧ c.sreg 61 = h.s61 ∧ c.sreg 62 = h.s62 ∧ c.sreg 63 = h.s63 ∧
      (∀ n, n ≠ 60 → n ≠ 61 → n ≠ 62 → n ≠ 63 → c.sreg n = (s.bundle bk).sreg n) ∧
      c.prio = h.prio ∧ c.hidden = none ∧
      c.thr.length = (s.bundle bk).thr.length ∧
      (∀ (k : Nat) (e : Nat × Thread), (s.bundle bk).thr[k]? = some e → ∃ th : Thread, c.thr[k]? = some (e.1, th) ∧
        th.depth = e.2.depth ∧ th.meet = e.2.meet ∧
        (if hasBit h.hs e.1 = true ∧ e.2.cond ≠ .dead
         then th.pc = ((s.bundle bk).sreg 61).truncate 32 ∧ th.cond = .running else th = e.2)) ∧
      c.onChosenPath ∧
      c = { s.bundle bk with s := c.s, prio := c.prio, hidden := c.hidden, thr := c.thr, active := c.active }) ∧
  (∀ (i : Instr) (r : Row) (x : Enc) (s : State) (bk n : Nat), i.parts = some (r, x) → 1 ≤ r.cls ∧ r.cls ≤ 3 →
    s.issuing = some bk → (s.bundle bk).regFault r x = some n → exec i s = .next (s.trapSync bk 0x02 n)) ∧
  (∀ (x : Enc) (s : State) (bk : Nat), Passes s bk (rowOf (.tret x)) x → (s.bundle bk).hidden = none →
    exec (.tret x) s = .next (s.trapSync bk 0x01 0)) ∧
  (∀ (x : Enc) (s : State) (bk : Nat), Passes s bk (rowOf (.halt x)) x → (s.bundle bk).fw = none →
    exec (.halt x) s = .next (s.trapSync bk 0x01 0))

/-- For add, sub, mul, mulhi, mad, min, max, abs, neg, and, or, xor, andn, not, shl, shr, sar, rot, clz, popc, bfe,
bfi, sel, mov and movi, if a lane has started the unit and its registers are in bounds, exec answers a next state. In
every vector form, with or without a block, a mask, zeroing, an indirect operand, an immediate or a literal, only the
bundle's vector registers and the place of its path have changed: the vector registers are those of R98 and R96 with
the exact value of R162 to R165 and R167 reduced modulo 2^N at each position. In every U form only S[d] and the place
of the path have changed: S[d] holds the low N bits of the exact value, extended to 64 bits by the signedness of the
type (R94, R158). Every other register, mask, flag and sticky bit, and all memory, is unchanged. Zeroing reaches no
masked thread where no thread executes (R65), and none whose indirect register lies at or beyond the allotment, the
model's choice (notes/assumptions/17.md). -/
def Obligations.IntegerInstructionsComplete : Prop :=
  (∀ (i : Instr) (r : Row) (x : Enc) (s : State) (bk : Nat), i.parts = some (r, x) → (intValue i true 32 0 0 0).isSome = true →
    x.u = false → Passes s bk r x →
    ∃ v, exec i s = .next (after s bk { s.bundle bk with v := v, thr := pastUnit (s.bundle bk) x }) ∧
      VectorResult (s.bundle bk) v x (r.wide x) (if r.wide x then 2 else 1) (threadValue i r x (s.bundle bk))) ∧
  (∀ (i : Instr) (r : Row) (x : Enc) (s : State) (bk : Nat), i.parts = some (r, x) → (intValue i true 32 0 0 0).isSome = true →
    x.u = true → Passes s bk r x →
    exec i s = .next (after s bk
      { (s.bundle bk).setSreg x.d.toNat (uniformValue i r x (s.bundle bk)) with thr := pastUnit (s.bundle bk) x }))

/-- For every state in which a lane has started one of the six integer compares, which have no U form, with m(d) not
m0: exec answers a next state in which only the bundle's masks and the place of its path have changed. The bit of an
executing thread in m(d) is the relation of a and b read by the type; under zeroing the bit of an active thread
outside the mask is 0; every other bit of m(d) below the width, and every other mask, is unchanged, and zeroing does
nothing where no thread executes (R63, R65, R96, R166). For every state in which a lane has started a floating compare
with m(d) not m0: exec answers a next state in which only the bundle's masks and the place of its path have changed.
The bit of an executing thread in m(d) is the relation of its f32 values or of its elements 0, and for a pair type its
bit in m(d + 1) is that of its elements 1; a NaN makes eq, lt and le false and ne and un true, and +0 equals -0. Under
zeroing the bits of active threads outside the mask are 0; every other bit below the width is unchanged. No sticky bit
is set (R96, R185). -/
def Obligations.ComparesComplete : Prop :=
  (∀ (i : Instr) (r : Row) (x : Enc) (s : State) (bk : Nat), i.parts = some (r, x) → (intRelation i 0 0).isSome = true →
    x.u = false → x.d ≠ 0 → Passes s bk r x →
    ∃ c, exec i s = .next (after s bk c) ∧ MaskResult (s.bundle bk) c x x.d.toNat (comparedBit i r x (s.bundle bk)) ∧
      c = { s.bundle bk with m := c.m, thr := pastUnit (s.bundle bk) x }) ∧
  (∀ (i : Instr) (r : Row) (x : Enc) (s : State) (bk : Nat), i.parts = some (r, x) → (floatRelation i .nan .nan).isSome = true →
    x.u = false → x.d ≠ 0 → Passes s bk r x →
    ∃ c, exec i s = .next (after s bk c) ∧ c = { s.bundle bk with m := c.m, thr := pastUnit (s.bundle bk) x } ∧
      ∀ k t, t < 64 → k ≠ 0 → hasBit (c.mreg k) t =
        if k = x.d.toNat ∨ (x.ty ≠ 0 ∧ k = x.d.toNat + 1) then decide (t < (s.bundle bk).width) &&
          (if hasBit ((s.bundle bk).executing x) t then floatCompared i x (s.bundle bk) (k - x.d.toNat) t
           else !hasBit ((s.bundle bk).zeroed x) t && hasBit ((s.bundle bk).mreg k) t)
        else hasBit ((s.bundle bk).mreg k) t)

/-- For a unit whose registers are in bounds, exec of lea and tidx answers a next state in which only its destination
and the place of the path have changed. lea: in the vector form each executing thread's pair d holds, at each position
of a block, S[a] plus the index read by the type and shifted by sh plus disp, modulo 2^64; in the U form S[d] holds
the same from uniform registers (R98, R168). tidx: d of each executing thread, or S[d], sign-extended, in the U form
for the lowest-indexed active thread, is the launch coordinate that sel names: with bx, by, bz and gx, gy, gz the
dimensions of LR2 and LR3, the thread's number is n = BNO * W + t, its x, y, z satisfy x + bx * (y + by * z) = n with
x below bx and y below by where those are not 0, the block's likewise, and sel 3 to 5, 9 to 11 and 12 to 15 return bx,
by, bz, gx, gy, gz, n, W, A and D (R62, R175). Zeroing does nothing where no thread executes (R65), nor to a masked
thread whose indirect register lies at or beyond the allotment, the model's choice (notes/assumptions/17.md). -/
def Obligations.AddressesAndCoordinatesComplete : Prop :=
  (∀ (x : Enc) (s : State) (bk : Nat), x.u = false → Passes s bk (rowOf (.lea x)) x →
    ∃ v, exec (.lea x) s = .next (after s bk { s.bundle bk with v := v, thr := pastUnit (s.bundle bk) x }) ∧
      VectorResult (s.bundle bk) v x true 2 (fun t g k => leaValue x ((s.bundle bk).sreg x.a.toNat).toNat
        (((constB x).map BitVec.toNat).getD (regGet ((rowOf (.lea x)).wide x) g ((s.bundle bk).num x 2 x.b t + k))))) ∧
  (∀ (x : Enc) (s : State) (bk : Nat), x.u = true → Passes s bk (rowOf (.lea x)) x →
    exec (.lea x) s = .next (after s bk
      { (s.bundle bk).setSreg x.d.toNat (BitVec.ofNat 64 (leaValue x ((s.bundle bk).sreg x.a.toNat).toNat
          (((constB x).map BitVec.toNat).getD ((s.bundle bk).sreg x.b.toNat).toNat)))
        with thr := pastUnit (s.bundle bk) x })) ∧
  (∀ (x : Enc) (s : State) (bk : Nat), x.u = false → isBlock x = false → Passes s bk (rowOf (.tidx x)) x →
    ∃ v, exec (.tidx x) s = .next (after s bk { s.bundle bk with v := v, thr := pastUnit (s.bundle bk) x }) ∧
      VectorResult (s.bundle bk) v x false 1 (fun t _ _ => s.coordinate (s.bundle bk) t x.imm.toNat)) ∧
  (∀ (x : Enc) (s : State) (bk : Nat), x.u = true → Passes s bk (rowOf (.tidx x)) x →
    exec (.tidx x) s = .next (after s bk
      { (s.bundle bk).setSreg x.d.toNat ((BitVec.ofNat 32 (s.coordinate (s.bundle bk) (s.bundle bk).lead x.imm.toNat)).signExtend 64)
        with thr := pastUnit (s.bundle bk) x })) ∧
  (∀ (s : State) (b : Bundle) (t : Nat), let c := s.coordinate b t
    let lr := fun k => (FMap.look (s.launch b.launch).lr 0 k).toNat
    c 3 = lr 3 % 2 ^ 16 ∧ c 4 = lr 3 / 2 ^ 16 % 2 ^ 16 ∧ c 5 = lr 3 / 2 ^ 32 % 2 ^ 16 ∧
    c 9 = lr 2 % 2 ^ 32 ∧ c 10 = lr 2 / 2 ^ 32 % 2 ^ 16 ∧ c 11 = lr 2 / 2 ^ 48 ∧
    c 12 = b.bno * b.width + t ∧ c 13 = b.width ∧ c 14 = b.allot ∧ c 15 = b.dmax ∧
    (c 3 ≠ 0 → c 4 ≠ 0 → c 0 < c 3 ∧ c 1 < c 4 ∧ c 0 + c 3 * (c 1 + c 4 * c 2) = c 12) ∧
    (c 9 ≠ 0 → c 10 ≠ 0 → c 6 < c 9 ∧ c 7 < c 10 ∧ c 6 + c 9 * (c 7 + c 10 * c 8) = b.blk))

/-- For every state in which a lane has started movr, movw or ixset (vector forms without a block and with ISEL 0)
with its registers in bounds. Let the register named for a thread be its index register K plus the immediate, exactly.
If some executing thread's is negative or not below the allotment, movr and movw take trap 0x02 with the number of the
lowest such thread, modulo 2^64, as detail, and change nothing. Otherwise exec answers a next state: movr copies the
named register of each executing thread to d; movw copies a to the named register; ixset writes the low 8 bits of b to
index register K; every other register of every thread, and all else but the place of the path, is unchanged. That
movw under zeroing clears the named register of a masked thread, where it lies below the allotment, is the model's
choice (notes/assumptions/17.md); where no thread executes zeroing does nothing (R65). With ISEL other than 0, or with
a block, none of the three is a legal unit (R112, R174): StepTrapsIllegalUnit gives trap 0x01. -/
def Obligations.IndexRegisterInstructionsComplete : Prop :=
  (∀ (i : Instr) (x : Enc) (s : State) (bk k t : Nat), (i = .movr x ∧ k = x.a.toNat % 4) ∨ (i = .movw x ∧ k = x.d.toNat % 4) →
    Passes s bk (rowOf i) x → hasBit ((s.bundle bk).executing x) t = true →
    (namedRegister x (s.bundle bk) t k < 0 ∨ ((s.bundle bk).allot : Int) ≤ namedRegister x (s.bundle bk) t k) →
    (∀ u, u < t → hasBit ((s.bundle bk).executing x) u = true →
      0 ≤ namedRegister x (s.bundle bk) u k ∧ namedRegister x (s.bundle bk) u k < ((s.bundle bk).allot : Int)) →
    exec i s = .next (s.trapSync bk 0x02 (patternOf 64 (namedRegister x (s.bundle bk) t k)))) ∧
  (∀ (i : Instr) (x : Enc) (s : State) (bk k : Nat), (i = .movr x ∧ k = x.a.toNat % 4) ∨ (i = .movw x ∧ k = x.d.toNat % 4) →
    x.u = false → x.isel = 0 → isBlock x = false → Passes s bk (rowOf i) x →
    (∀ u, u < 64 → hasBit ((s.bundle bk).executing x) u = true →
      0 ≤ namedRegister x (s.bundle bk) u k ∧ namedRegister x (s.bundle bk) u k < ((s.bundle bk).allot : Int)) →
    ∃ v, exec i s = .next (after s bk { s.bundle bk with v := v, thr := pastUnit (s.bundle bk) x }) ∧
      ∀ t n, t < 64 → FMap.look v 0 (64 * n + t) =
        if hasBit ((s.bundle bk).executing x) t = true then
          (if i = .movr x then (if n = x.d.toNat then (s.bundle bk).vreg t (namedRegister x (s.bundle bk) t k).toNat else (s.bundle bk).vreg t n)
           else (if n = (namedRegister x (s.bundle bk) t k).toNat then (s.bundle bk).vreg t x.a.toNat else (s.bundle bk).vreg t n))
        else if hasBit ((s.bundle bk).zeroed x) t = true ∧
            (if i = .movr x then n = x.d.toNat ∧ n < (s.bundle bk).allot
             else (n : Int) = namedRegister x (s.bundle bk) t k ∧ n < (s.bundle bk).allot) then 0
        else (s.bundle bk).vreg t n) ∧
  (∀ (x : Enc) (s : State) (bk : Nat), x.u = false → x.isel = 0 → Passes s bk (rowOf (.ixset x)) x →
    ∃ ix, exec (.ixset x) s = .next (after s bk { s.bundle bk with ix := ix, thr := pastUnit (s.bundle bk) x }) ∧
      ∀ t k, t < 64 → k < 4 → FMap.look ix 0 (4 * t + k) =
        if hasBit ((s.bundle bk).executing x) t = true ∧ k = x.d.toNat % 4
        then BitVec.ofNat 8 (((constB x).map BitVec.toNat).getD ((s.bundle bk).vreg t x.b.toNat).toNat)
        else (s.bundle bk).ireg t k) ∧
  (∀ (i : Instr) (x : Enc), i = .movr x ∨ i = .movw x ∨ i = .ixset x → x.isel ≠ 0 ∨ isBlock x = true → i.wellFormed = false)

/-- Shuffles, ballot, match, redux.add, .min, .max, .and, .or, scan.add and scan.xadd (vector forms, no block),
vote.any, vote.all, elect, bcast and pick, which may hand off, with some thread executing: exec answers a next state
in which the selected flag counts one operation more, the path stands at the next unit, and one new operation is in
progress that has no request and whose results, still to land, are for each executing thread the value of R170 to R172
on the sources as they stand now, or its bit of m(d) as R171 says, with zeros under zeroing; for bcast and pick the
one result is S[d]: register a of the lowest-indexed active thread; of the thread that b names (of a literal, a 32-bit
type reads the low half, R92), live on any path, else 0 (R173). No register has changed yet, and nothing else has. If
no thread executes, under zeroing too (R65), a shuffle, ballot, match, reduction or scan completes at once and no
register of a bundle with a live thread changes. -/
def Obligations.CrossLaneInstructionsComplete : Prop :=
  (∀ (i : Instr) (r : Row) (x : Enc) (s : State) (bk : Nat), i.parts = some (r, x) → (crossValue i r x {} 0).isSome = true →
    x.u = false → isBlock x = false → s.numbered → MayHandOff s bk r x → (s.bundle bk).executing x ≠ 0 →
    ∃ o, exec i s = .next (withOp s bk x o) ∧ StartedBy s bk x o ∧
      OnlyResults o (laterResults (s.bundle bk) x (crossPair i r x) (fun t => (crossValue i r x (s.bundle bk) t).getD 0))) ∧
  (∀ (i : Instr) (r : Row) (x : Enc) (s : State) (bk : Nat), i.parts = some (r, x) → (crossValue i r x {} 0).isSome = true →
    x.u = false → isBlock x = false → s.numbered → MayHandOff s bk r x → (s.bundle bk).executing x = 0 →
    (s.bundle bk).live ≠ 0 →
    ∃ t, exec i s = .next t ∧ t.ops = s.ops ∧ t.mem = s.mem ∧ t.pool = s.pool ∧ t.issuing = none ∧
      (t.bundle bk).v = (s.bundle bk).v ∧ (t.bundle bk).s = (s.bundle bk).s ∧ (t.bundle bk).m = (s.bundle bk).m ∧
      (t.bundle bk).ix = (s.bundle bk).ix ∧ (t.bundle bk).status = (s.bundle bk).status) ∧
  (∀ (i : Instr) (r : Row) (x : Enc) (s : State) (bk : Nat), i.parts = some (r, x) → (crossBit i x {} 0).isSome = true →
    x.u = false → s.numbered → MayHandOff s bk r x → (s.bundle bk).executing x ≠ 0 →
    ∃ o, exec i s = .next (withOp s bk x o) ∧ StartedBy s bk x o ∧ OnlyResults o
      ((bitsOf ((s.bundle bk).executing x)).map (fun t =>
          { t := t, ws := [.m x.d.toNat ((crossBit i x (s.bundle bk) t).getD false)] }) ++
        (bitsOf ((s.bundle bk).zeroed x)).map (fun t => { t := t, ws := [.m x.d.toNat false] }))) ∧
  (∀ (x : Enc) (s : State) (bk : Nat), s.numbered → MayHandOff s bk (rowOf (.bcast x)) x →
    ∃ o, exec (.bcast x) s = .next (withOp s bk x o) ∧ StartedBy s bk x o ∧ OnlyResults o
      [{ t := 64, ws := [.s x.d.toNat (laneResult (rowOf (.bcast x)) x (s.bundle bk) (s.bundle bk).lead)] }]) ∧
  (∀ (x : Enc) (s : State) (bk k : Nat), x.u = true → s.numbered → MayHandOff s bk (rowOf (.pick x)) x →
    k = (if x.form = .literal ∧ x.ty.toNat ≤ 1 then x.lit.toNat % 2 ^ 32
      else ((constB x).map BitVec.toNat).getD ((s.bundle bk).sreg x.b.toNat).toNat) →
    ∃ o, exec (.pick x) s = .next (withOp s bk x o) ∧ StartedBy s bk x o ∧ OnlyResults o
      [{ t := 64, ws := [.s x.d.toNat (if k < (s.bundle bk).width ∧ hasBit (s.bundle bk).live k = true
          then laneResult (rowOf (.pick x)) x (s.bundle bk) k else 0)] }])

/-- For fadd, fsub, fmul, fma, fmin, fmax, fabs, fneg, fcopysign, fclass, fscale, frnd and fdot2 in every form whose
registers are in bounds: exec answers a next state. In the vector form the vector registers are those of R98 and R96
with, at each position of each executing thread, the result of the instruction on its f32, on each half of its pairs,
or (fdot2) on the pairs and the f32 c, in the mode that R97 selects; sr.status has the sticky bits of all these
results added. In the U form S[d] holds the result of the uniform operands' low 32 bits, zero-extended. Nothing else
changes but the place of the path (R97, R176, R178 to R184). Zeroing does nothing where no thread executes (R65), nor
to a masked thread whose indirect register lies at or beyond the allotment, the model's choice
(notes/assumptions/17.md). -/
def Obligations.FloatVectorAndUniformForms : Prop :=
  (∀ (i : Instr) (r : Row) (x : Enc) (s : State) (bk : Nat), i.parts = some (r, x) → (floatWord i x 1 0 0 0).isSome = true →
    x.u = false → Passes s bk r x →
    ∃ v, exec i s = .next (after s bk { s.bundle bk with v := v, thr := pastUnit (s.bundle bk) x, status := (
          (bitsOf ((s.bundle bk).executing x)).foldl (fun m t => m ||| blockFlags ((s.bundle bk).num x 3 x.d t)
            (floatAt i x (s.bundle bk) t) (positions x 1) ((s.bundle bk).regs t)) (s.bundle bk).status) }) ∧
      VectorResult (s.bundle bk) v x false 1 (fun t g k => (floatAt i x (s.bundle bk) t g k).1.toNat)) ∧
  (∀ (i : Instr) (r : Row) (x : Enc) (s : State) (bk : Nat) (w : Word × DWord), i.parts = some (r, x) → x.u = true →
    Passes s bk r x →
    floatWord i x ((s.bundle bk).modeFor x) (((s.bundle bk).sreg x.a.toNat).truncate 32)
      (floatB x (s.bundle bk) 0 (fun _ => ((s.bundle bk).sreg x.b.toNat).truncate 32) 0)
      (((s.bundle bk).sreg x.c.toNat).truncate 32) = some w →
    exec i s = .next (after s bk { (s.bundle bk).setSreg x.d.toNat (w.1.zeroExtend 64) with thr := pastUnit (s.bundle bk) x, status := (s.bundle bk).status ||| w.2 }))

/-- What an instruction rounds is the exact rational sum, product, a * b + c or a0 * b0 + a1 * b1 + c of finite
operands, with no sticky bit. An exact sum of zero is +0, in mode .rd -0, but a sum of zeros of one sign keeps it; the
sign of a product is the product of the signs. Infinities of opposite signs in a sum, and 0 times an infinity, give a
NaN with FINV; a NaN operand gives a NaN, in a sum or a product without a flag (R178 to R181). On the codes of f32,
bf16 and f16: fmin and fmax give the operand that comes first and last in the order of the codes, in which -0 stands
below +0, of a NaN and another operand that operand, of two NaNs the canonical NaN. fscale of a finite nonzero a and a
finite b rounds a times 2^n once, n being b cut towards zero and held between -512 and 512; an infinite b gives n =
512 or -512; a NaN b gives NaN with FINV, and otherwise a zero or infinite a stays as it is and a NaN a gives NaN
without a flag. frnd rounds the magnitude to an integer in the mode given and keeps the sign; infinities stay and a
NaN gives the canonical NaN. fclass gives the one bit of R184's table. -/
def Obligations.ExactArithmeticBeforeRounding : Prop :=
  (∀ (mode : Nat) (n1 n2 : Bool) (m1 m2 : Nat) (e1 e2 : Int), ∃ n m e, addVal mode (.fin n1 m1 e1) (.fin n2 m2 e2) = (.fin n m e, 0) ∧
    (FVal.fin n m e).rat = (FVal.fin n1 m1 e1).rat + (FVal.fin n2 m2 e2).rat ∧
    (m = 0 → n = if m1 = 0 ∧ m2 = 0 ∧ n1 = n2 then n1 else mode == 4)) ∧
  (∀ (n1 n2 : Bool) (m1 m2 : Nat) (e1 e2 : Int), ∃ m e, mulVal (.fin n1 m1 e1) (.fin n2 m2 e2) = (.fin (n1 != n2) m e, 0) ∧
    (FVal.fin (n1 != n2) m e).rat = (FVal.fin n1 m1 e1).rat * (FVal.fin n2 m2 e2).rat) ∧
  (∀ (mode : Nat) (a b c : FVal), a.isFin = true → b.isFin = true → c.isFin = true →
    ∃ v, fmaVal mode a b c = (v, 0) ∧ v.isFin = true ∧ v.rat = a.rat * b.rat + c.rat) ∧
  (∀ (mode : Nat) (a0 b0 a1 b1 c : FVal), a0.isFin = true → b0.isFin = true → a1.isFin = true → b1.isFin = true → c.isFin = true →
    ∃ v, dot2Val mode a0 b0 a1 b1 c = (v, 0) ∧ v.isFin = true ∧ v.rat = a0.rat * b0.rat + a1.rat * b1.rat + c.rat) ∧
  (∀ (mode : Nat) (x : Bool), addVal mode (.inf x) (.inf (!x)) = (.nan, stFINV) ∧ addVal mode (.inf x) (.inf x) = (.inf x, 0) ∧
    ∀ v : FVal, addVal mode .nan v = (.nan, 0) ∧ addVal mode v .nan = (.nan, 0) ∧ mulVal .nan v = (.nan, 0) ∧ mulVal v .nan = (.nan, 0) ∧
      (v.isFin = true → addVal mode (.inf x) v = (.inf x, 0) ∧ addVal mode v (.inf x) = (.inf x, 0)) ∧
      (v.isFin = true → v.rat = 0 → mulVal (.inf x) v = (.nan, stFINV) ∧ mulVal v (.inf x) = (.nan, stFINV) ∧
        (fmaVal mode v (.inf x) .nan).2 = stFINV) ∧
      (v.isFin = true → v.rat ≠ 0 → (mulVal (.inf x) v).1 = .inf (x != decide (v.rat < 0)) ∧ (mulVal v (.inf x)).1 = .inf (x != decide (v.rat < 0)))) ∧
  (∀ (f : WFmt) (a b : Nat), f ∈ [fmtF32, fmtBf16, fmtF16] → a < 2 * f.signBit → b < 2 * f.signBit →
    f.minCode a b = (if f.decode a = .nan then (if f.decode b = .nan then f.nanCode else b) else if f.decode b = .nan then a
      else if f.codeOrder a ≤ f.codeOrder b then a else b) ∧
    f.maxCode a b = (if f.decode a = .nan then (if f.decode b = .nan then f.nanCode else b) else if f.decode b = .nan then a
      else if f.codeOrder b ≤ f.codeOrder a then a else b)) ∧
  (∀ (f : WFmt) (mode a b : Nat), f ∈ [fmtF32, fmtBf16, fmtF16] → a < 2 * f.signBit →
    (f.decode b = .nan → f.scaleCode mode a b = (f.nanCode, stFINV)) ∧
    (f.decode b ≠ .nan → f.decode a = .nan → f.scaleCode mode a b = (f.nanCode, 0)) ∧
    (f.decode b ≠ .nan → (f.decode a).isFin = true → (f.decode a).rat = 0 → f.scaleCode mode a b = (a, 0)) ∧
    (∀ neg, f.decode b ≠ .nan → f.decode a = .inf neg → f.scaleCode mode a b = (a, 0)) ∧
    (∀ neg m e, f.decode b ≠ .nan → f.decode a = .fin neg m e → m ≠ 0 → ∃ n : Int,
      f.scaleCode mode a b = f.roundFrac mode neg m 1 (e + n) ∧
      (∀ sn, f.decode b = .inf sn → n = if sn then -512 else 512) ∧
      ((f.decode b).isFin = true → (512 ≤ (f.decode b).rat → n = 512) ∧ ((f.decode b).rat ≤ -512 → n = -512) ∧
        (0 ≤ (f.decode b).rat → (f.decode b).rat < 512 → (n : Rat) ≤ (f.decode b).rat ∧ (f.decode b).rat < n + 1) ∧
        ((f.decode b).rat ≤ 0 → -512 < (f.decode b).rat → (f.decode b).rat ≤ n ∧ (n : Rat) - 1 < (f.decode b).rat)))) ∧
  (∀ (f : WFmt) (mode a : Nat), f ∈ [fmtF32, fmtBf16, fmtF16] → a < 2 * f.signBit → 1 ≤ mode → mode ≤ 6 →
    (f.decode a = .nan → f.integralCode mode a = f.nanCode) ∧
    (∀ neg, f.decode a = .inf neg → f.integralCode mode a = a) ∧
    (∀ neg m e, f.decode a = .fin neg m e → ∃ (m' k : Nat) (e' : Int), f.decode (f.integralCode mode a) = .fin neg m' e' ∧
      (k : Rat) ≤ (m : Rat) * (2 : Rat) ^ e ∧ (m : Rat) * (2 : Rat) ^ e < k + 1 ∧
      (m' : Rat) * (2 : Rat) ^ e' = (roundedOf mode neg ((m : Rat) * (2 : Rat) ^ e - k) (k + 1 - (m : Rat) * (2 : Rat) ^ e) k : Nat))) ∧
  (∀ (f : WFmt) (c : Nat), f ∈ [fmtF32, fmtBf16, fmtF16] → c < 2 * f.signBit →
    let m := c % f.signBit
    let neg := decide (f.signBit ≤ c)
    f.classCode c = 2 ^ (if m = 0 then (if neg then 3 else 4) else if m < 2 ^ (f.p - 1) then (if neg then 2 else 5)
      else if m < f.infCode then (if neg then 1 else 6) else if m = f.infCode then (if neg then 0 else 7)
      else if m / 2 ^ (f.p - 2) % 2 = 1 then 9 else 8))

/-- For f32, bf16 and f16, every rounding mode and every nonzero exact value num / den * 2^e of either sign: the
magnitude lies between two neighbours of the format, exponents continued upward without bound; the rounded one is the
lower where it is equal, else the one that the mode chooses. If it is below infinity its code with the sign is the
result, FOVF is clear, and FINX is set exactly when it differs from the exact magnitude; otherwise the result is
infinity in the modes that R142 names, the largest finite code in the others, with FOVF and FINX. FUNF is set exactly
when the result is inexact and the value rounded to the format's precision as though the exponents had no lower bound
lies below the least normal magnitude (R142, R143, R178, R179). -/
def Obligations.WideRoundingIsCorrect : Prop :=
  ∀ (f : WFmt) (mode : Nat) (neg : Bool) (num den : Nat) (e : Int), f ∈ [fmtF32, fmtBf16, fmtF16] → 1 ≤ mode → mode ≤ 6 →
    0 < num → 0 < den →
    ∃ c, f.magnitude c ≤ (num : Rat) / (den : Rat) * (2 : Rat) ^ e ∧ (num : Rat) / (den : Rat) * (2 : Rat) ^ e < f.magnitude (c + 1) ∧
      (let k := f.nearest mode neg ((num : Rat) / (den : Rat) * (2 : Rat) ^ e) c
       let r := f.roundFrac mode neg num den e
       if k < f.infCode then
         r.1 = k + (if neg then f.signBit else 0) ∧ r.2 &&& stFOVF = 0 ∧
           (r.2 &&& stFINX = 0 ↔ f.magnitude k = (num : Rat) / (den : Rat) * (2 : Rat) ^ e) ∧
           (r.2 &&& stFUNF ≠ 0 ↔ r.2 &&& stFINX ≠ 0 ∧ f.tinyRounded mode neg ((num : Rat) / (den : Rat) * (2 : Rat) ^ e))
       else r.2 = stFOVF ||| stFINX ∧ r.1 = (if neg then f.signBit else 0) +
         (if mode = 1 ∨ mode = 5 ∨ (mode = 3 ∧ neg = false) ∨ (mode = 4 ∧ neg = true) then f.infCode else f.infCode - 1))

/-- For every state in which a lane has started fredux.add, fredux.max or fscan.add (no block), which may hand off,
and some thread executes: exec answers a next state with one new operation. Its results are, for each executing
thread, the fold of the executing threads' registers in ascending index (of those up to the thread for the scan), one
rounded fadd or fmax a step, each with the sticky bits of every step of the whole fold, and zeros under zeroing.
Nothing else changes but the flag and the place of the path. If no thread executes and the bundle has a live thread,
it completes at once and no register or sticky bit changes, under zeroing neither (R65, R169, R186). -/
def Obligations.FloatReductionsComplete : Prop :=
  (∀ (i : Instr) (r : Row) (x : Enc) (s : State) (bk : Nat), i.parts = some (r, x) → (floatFold i x 1 []).isSome = true →
    x.u = false → isBlock x = false → s.numbered → MayHandOff s bk r x → (s.bundle bk).executing x ≠ 0 →
    ∃ o, exec i s = .next (withOp s bk x o) ∧ StartedBy s bk x o ∧ OnlyResults o
      ((bitsOf ((s.bundle bk).executing x)).map (fun t =>
          { t := t, ws := stickyWrites ((s.bundle bk).num x 3 x.d t)
              (((floatFold i x ((s.bundle bk).modeFor x) ((floatThreads i x (s.bundle bk) t).map (fun u =>
                (s.bundle bk).vreg u ((s.bundle bk).num x 1 x.a u)))).getD (0, 0)).1,
               ((floatFold i x ((s.bundle bk).modeFor x) ((bitsOf ((s.bundle bk).executing x)).map (fun u =>
                (s.bundle bk).vreg u ((s.bundle bk).num x 1 x.a u)))).getD (0, 0)).2) }) ++
        (bitsOf ((s.bundle bk).zeroed x)).map (fun t => { t := t, ws := (
          if (s.bundle bk).num x 3 x.d t < (s.bundle bk).allot then [.v ((s.bundle bk).num x 3 x.d t) 0] else []) }))) ∧
  (∀ (i : Instr) (r : Row) (x : Enc) (s : State) (bk : Nat), i.parts = some (r, x) → (floatFold i x 1 []).isSome = true →
    x.u = false → isBlock x = false → s.numbered → MayHandOff s bk r x → (s.bundle bk).executing x = 0 → (s.bundle bk).live ≠ 0 →
    ∃ t, exec i s = .next t ∧ t.ops = s.ops ∧ t.mem = s.mem ∧ t.pool = s.pool ∧ t.issuing = none ∧
      (t.bundle bk).v = (s.bundle bk).v ∧ (t.bundle bk).s = (s.bundle bk).s ∧ (t.bundle bk).m = (s.bundle bk).m ∧
      (t.bundle bk).ix = (s.bundle bk).ix ∧ (t.bundle bk).status = (s.bundle bk).status)

/-- For every state in which a lane has started rcp, rsq, sqrt, exp2, log2, sin, cos, tanh or erf, which may hand off:
exec answers a next state with one new operation. In the vector form, if some thread executes, its results are the
function's value and sticky bits at each position of each executing thread, in the mode of R97, and zeros under
zeroing (not in a register at or beyond the allotment that an indirect operand names, the model's choice,
notes/assumptions/17.md); where the model's interval arithmetic cannot decide the rounding the value is the free one
of notes/assumptions/12.md; in the U form it is S[d], zero-extended. Nothing else changes but the flag and the place
of the path (R98, R187). -/
def Obligations.SpecialFunctionsComplete : Prop :=
  (∀ (i : Instr) (r : Row) (x : Enc) (s : State) (bk op : Nat), i.parts = some (r, x) → specialOp i = some op → x.u = false →
    s.numbered → MayHandOff s bk r x → (s.bundle bk).executing x ≠ 0 →
    ∃ o, exec i s = .next (withOp s bk x o) ∧ StartedBy s bk x o ∧ OnlyResults o
      ((bitsOf ((s.bundle bk).executing x)).map (fun t =>
          { t := t, ws := blockWrites ((s.bundle bk).num x 3 x.d t) (fun g k =>
              (BitVec.ofNat 32 (sfu op ((s.bundle bk).modeFor x) (g ((s.bundle bk).num x 1 x.a t + k))).1,
               (sfu op ((s.bundle bk).modeFor x) (g ((s.bundle bk).num x 1 x.a t + k))).2)) (positions x 1) ((s.bundle bk).regs t) }) ++
        (bitsOf ((s.bundle bk).zeroed x)).map (fun t => { t := t, ws := (positions x 1).flatMap (fun k =>
          if (s.bundle bk).num x 3 x.d t + k < (s.bundle bk).allot then [.v ((s.bundle bk).num x 3 x.d t + k) 0] else []) }))) ∧
  (∀ (i : Instr) (r : Row) (x : Enc) (s : State) (bk op : Nat), i.parts = some (r, x) → specialOp i = some op → x.u = true →
    s.numbered → MayHandOff s bk r x →
    ∃ o, exec i s = .next (withOp s bk x o) ∧ StartedBy s bk x o ∧
      (let w := sfu op ((s.bundle bk).modeFor x) (((s.bundle bk).sreg x.a.toNat).truncate 32)
       OnlyResults o [{ t := 64, ws := [.s x.d.toNat (BitVec.ofNat 64 w.1), .sticky w.2] }]))

/-- In every mode each of the nine functions gives what the table of R187 says for +0, -0, +inf and -inf, the
canonical NaN without a flag for a NaN, and NaN with FINV for the negative finite arguments of rsq, sqrt and log2. For
every positive finite f32 argument a, in mode .rz, the result of rcp is the greatest finite value r with r * a at most
1, of sqrt the greatest with r * r at most a, and of rsq the greatest with r * r * a at most 1. -/
def Obligations.SpecialValuesOfFunctions : Prop :=
  (∀ (mode : Nat) (c : Word), fmtF32.decode c.toNat = .nan → ∀ op, op < 9 → sfu op mode c = (0x7FC00000, 0)) ∧
  (∀ mode : Nat,
    [0, 1, 2, 3, 4, 5, 6, 7, 8].map (fun op => sfu op mode 0) =
      [(0x7F800000, stFDZ), (0x7F800000, stFDZ), (0, 0), (0x3F800000, 0), (0xFF800000, stFDZ), (0, 0), (0x3F800000, 0), (0, 0), (0, 0)] ∧
    [0, 1, 2, 3, 4, 5, 6, 7, 8].map (fun op => sfu op mode 0x80000000) =
      [(0xFF800000, stFDZ), (0xFF800000, stFDZ), (0x80000000, 0), (0x3F800000, 0), (0xFF800000, stFDZ), (0x80000000, 0), (0x3F800000, 0),
        (0x80000000, 0), (0x80000000, 0)] ∧
    [0, 1, 2, 3, 4, 5, 6, 7, 8].map (fun op => sfu op mode 0x7F800000) =
      [(0, 0), (0, 0), (0x7F800000, 0), (0x7F800000, 0), (0x7F800000, 0), (0x7FC00000, stFINV), (0x7FC00000, stFINV), (0x3F800000, 0),
        (0x3F800000, 0)] ∧
    [0, 1, 2, 3, 4, 5, 6, 7, 8].map (fun op => sfu op mode 0xFF800000) =
      [(0x80000000, 0), (0x7FC00000, stFINV), (0x7FC00000, stFINV), (0, 0), (0x7FC00000, stFINV), (0x7FC00000, stFINV), (0x7FC00000, stFINV),
        (0xBF800000, 0), (0xBF800000, 0)]) ∧
  (∀ (mode : Nat) (c : Word) (m : Nat) (e : Int), fmtF32.decode c.toNat = .fin true m e → m ≠ 0 →
    sfu 1 mode c = (0x7FC00000, stFINV) ∧ sfu 2 mode c = (0x7FC00000, stFINV) ∧ sfu 4 mode c = (0x7FC00000, stFINV)) ∧
  (∀ c : Nat, 0 < c → c < fmtF32.infCode →
    let a := fmtF32.magnitude c
    let r (op : Nat) : Nat := (sfu op 2 (BitVec.ofNat 32 c)).1
    (∀ op, op < 3 → r op < fmtF32.infCode) ∧
    (fmtF32.magnitude (r 0) * a ≤ 1 ∧ (1 < fmtF32.magnitude (r 0 + 1) * a ∨ r 0 + 1 = fmtF32.infCode)) ∧
    (fmtF32.magnitude (r 1) ^ 2 * a ≤ 1 ∧ 1 < fmtF32.magnitude (r 1 + 1) ^ 2 * a) ∧
    (fmtF32.magnitude (r 2) ^ 2 ≤ a ∧ a < fmtF32.magnitude (r 2 + 1) ^ 2))

/-- For every state in which a lane has started cvt, qnt, dqnt, pack or unpack, which may hand off, and K is the
number in word 2 bits [7:0]. If entry K is not valid, if the operand whose codes occupy two registers has an odd
number, or if pack or unpack would pass bit 31 for some party, exec takes trap 0x09 with detail K and does nothing
else; if the second of two vector registers is at or above the allotment, trap 0x02. Otherwise, if some thread
executes or the form is U, exec answers a next state with one new operation, whose results are for each party d, for
qnt with a scale format the one scale word in c, and the sticky bits, by the format, rounding and scale of the entry
as it stands now, and zeros under zeroing; nothing else changes but the flag and the place of the path (R143, R188 to
R191). The order of the checks, and that no container is tested for a party that does not execute, is the model's
choice (notes/assumptions/80.md), and so is the order of two writes to one register (notes/assumptions/100.md). -/
def Obligations.ConversionsComplete : Prop :=
  (∀ (i : Instr) (r : Row) (x : Enc) (s : State) (bk : Nat), i.parts = some (r, x) → (convertedTo i x {} (tidOf 0) 0).isSome = true →
    MayHandOff s bk r x →
    let K := x.w2.toNat % 256
    let t := tidOf (FMap.look (s.core (coreOfBundle bk)).tid 0 K)
    let odd := ∃ n, codeField i x = some n ∧ twoRegs x t.f = true ∧ n % 2 = 1
    let beyond := ∃ n, codeField i x = some n ∧ twoRegs x t.f = true ∧ x.u = false ∧ (s.bundle bk).allot ≤ n + 1
    ((t.valid = false ∨ odd ∨ (¬ beyond ∧ packsBeyond i x (s.bundle bk) t = true)) → exec i s = .next (s.trapSync bk 0x09 K)) ∧
    (∀ n, codeField i x = some n → t.valid = true → ¬ odd → beyond → exec i s = .next (s.trapSync bk 0x02 (n + 1))) ∧
    (t.valid = true → ¬ odd → ¬ beyond → packsBeyond i x (s.bundle bk) t = false → s.numbered →
      (x.u = true ∨ (s.bundle bk).executing x ≠ 0) →
      ∃ o, exec i s = .next (withOp s bk x o) ∧ StartedBy s bk x o ∧ OnlyResults o
        (((s.bundle bk).cvtParties x).map (fun p => { t := p, ws := conversionWrites i x (s.bundle bk) t p }) ++
          (bitsOf ((s.bundle bk).zeroed x)).map (fun p => { t := p, ws := conversionZeros i x t }))))

/-- For every valid format word, every scale format and every positive finite greatest magnitude: the scale word that
qnt chooses has E below 255 and bits [3:0] (in the 8-bit format [7:0]) zero, no lesser scale lets the magnitude fit
into the format, and it fits under the chosen one, unless that is the greatest there is. For every valid format and
every code of it with a finite value, in every rounding mode, writing that value sets no sticky bit and gives a code
of the same value; infinities saturate a narrow or i32 format to its extreme value with NSAT (R135 to R139, R144,
R190, R191). -/
def Obligations.ScaleAndFormatLaws : Prop :=
  (∀ (w sfmt m : Nat) (e : Int), fmtValid w = true → (sfmt = 1 ∨ sfmt = 2) → 0 < m →
    let f := fmtOfWord w
    let c := chooseScale f sfmt (.fin false m e)
    let ok := fun v : Nat => v < 255 * 256 ∧ v % (if sfmt = 2 then 256 else 16) = 0
    let fits := fun v : Nat => (FVal.fin false m e).rat ≤ f.largest.rat * (scaleVal v).rat
    ok c ∧ (fits c ∨ c = (if sfmt = 2 then 254 * 256 else 254 * 256 + 15 * 16)) ∧ ∀ v, ok v → v < c → ¬ fits v) ∧
  (∀ w c mode : Nat, fmtValid w = true → 1 ≤ mode → mode ≤ 6 → c < 2 ^ (fmtOfWord w).codeBits →
    let f := fmtOfWord w
    (f.read c).isFin = true →
    (f.write mode (f.read c) 1).2 = 0 ∧ (f.read (f.write mode (f.read c) 1).1).isFin = true ∧
      (f.read (f.write mode (f.read c) 1).1).rat = (f.read c).rat) ∧
  (∀ (w mode : Nat), fmtValid w = true → let f := fmtOfWord w
    (f.kind = 0 ∨ f.kind = 4) → (f.write mode (.inf false) 1).2 = stNSAT ∧ (f.read (f.write mode (.inf false) 1).1).rat = f.largest.rat ∧
      (f.write mode (.inf true) 1).2 = stNSAT ∧ (f.s = 0 → f.kind = 0 → (f.write mode (.inf true) 1).1 = 0))

/-- For ld.l, st.l, ldb.l, stb.l, ld.g, st.g, ldb.g, stb.g, ld.r, st.r, ld.acq and st.rel that may hand off, admitted
by the function's budgets and, in class 6, with a replay entry free. If some party's address is misaligned, or in
class 5 reaches beyond the scratchpad, exec takes the trap 0x03 or 0x05 of the first such party, with its address as
detail, and does nothing else. Otherwise, if some thread executes or the form is U, exec answers a next state with one
new operation of that class, op, order and scope; its requests are the access of each executing thread in ascending
order, or of the bundle, at S[a] plus offset plus displacement, two of 8 bytes for a block form, a store's with its
bytes as they stand now; none has passed the lane yet. Its results so far are the zeros of zeroing. No byte and no
register has changed, only the flag and the place of the path (R42, R101, R231, R233, R239, R245, R250, R252, R253).
-/
def Obligations.LoadsAndStoresHandOff : Prop :=
  (∀ (i : Instr) (x : Enc) (f : AccessForm) (s : State) (bk : Nat), accessForm i = some (x, f) → MayHandOff s bk (rowOf i) x →
    MemoryAdmitted s bk → (f.cls = 6 → ReplayRoom s bk) → (f.bytes = 16 → x.u = false) →
    (∀ (l₁ l₂ : List (Nat × Nat)) (t a n : Nat), accessParties x (s.bundle bk) = l₁ ++ (t, a) :: l₂ →
      (∀ p, p ∈ l₁ → accessTrap s (coreOfBundle bk) f p.2 = none) → accessTrap s (coreOfBundle bk) f a = some n →
      exec i s = .next (s.trapSync bk n a)) ∧
    ((∀ p, p ∈ accessParties x (s.bundle bk) → accessTrap s (coreOfBundle bk) f p.2 = none) → s.numbered →
      (x.u = true ∨ (s.bundle bk).executing x ≠ 0) →
      ∃ o, exec i s = .next (withOp s bk x o) ∧ StartedBy s bk x o ∧ o.cls = f.cls ∧ o.opn = f.op ∧ o.ord = f.ord ∧
        o.lvl = (if f.cls = 6 then scopeOf x else 0) ∧ o.reqs = accessRequests f x (s.bundle bk) ∧
        o.ws = accessZeros f x (s.bundle bk) ∧ o.fin = .none ∧ o.early = false)) ∧
  (∀ (x : Enc) (s : State) (bk : Nat), MayHandOff s bk (rowOf (.prfG x)) x → MemoryAdmitted s bk → ReplayRoom s bk → s.numbered →
    (x.u = true ∨ (s.bundle bk).executing x ≠ 0) →
    ∃ o, exec (.prfG x) s = .next (withOp s bk x o) ∧ StartedBy s bk x o ∧ o.cls = 6 ∧ o.opn = 4 ∧ o.ws = [] ∧
      o.reqs = (accessParties x (s.bundle bk)).zipIdx.map (fun p =>
        { uid := p.2, t := p.1.1, stage := .pass, act := .prf, addr := p.1.2, n := 1 }))

/-- For these that may hand off, admitted by the function's budgets. A tag instruction acts on the line that holds its
address, with mask k = d, tag.clr and tag.set as releases; an address beyond the scratchpad traps 0x05. zero.l traps
0x03 where its address or count S[d] is no multiple of 8 and 0x05 where the range leaves the scratchpad; otherwise,
with a count above 0, it hands off a request that zeroes the range. plane and unplane with two fit identifiers, bases
S[a] and S[d] that are multiples of 4, and extents in the scratchpad hand off a request with both identifiers as they
stand now; two identifiers that do not fit each other trap 0x09. Which number s63 then holds, and the order of
zero.l's two tests, are the model's choices (notes/assumptions/88.md), and so is the order of the checks of plane and
unplane (notes/assumptions/46.md). No byte and no tag has changed at the hand-off (R231, R239 to R241, R246 to R248).
-/
def Obligations.TagsAndBlocksHandOff : Prop :=
  (∀ (i : Instr) (x : Enc) (s : State) (bk kind : Nat),
    (i = .tagClr x ∧ kind = 0) ∨ (i = .tagSet x ∧ kind = 1) ∨ (i = .tagWc x ∧ kind = 2) → MayHandOff s bk (rowOf i) x → MemoryAdmitted s bk → s.numbered →
    let a := addressOf x (s.bundle bk) 0
    x.u = true →
    ((s.core (coreOfBundle bk)).spg * 65536 ≤ a → exec i s = .next (s.trapSync bk 0x05 a)) ∧
    (a < (s.core (coreOfBundle bk)).spg * 65536 →
      ∃ o, exec i s = .next (withOp s bk x o) ∧ StartedBy s bk x o ∧ o.cls = 5 ∧ o.ord = (if kind = 2 then 0 else 2) ∧ o.ws = [] ∧
        o.reqs = [{ uid := 0, t := 64, stage := .pass, act := .tag kind x.d.toNat,
                    addr := a / 256 * 256, n := 256 }] ∧ o.fin = .none)) ∧
  (∀ (x : Enc) (s : State) (bk : Nat), MayHandOff s bk (rowOf (.zeroL x)) x → MemoryAdmitted s bk → s.numbered → x.u = true →
    let a := addressOf x (s.bundle bk) 0
    let n := ((s.bundle bk).sreg x.d.toNat).toNat
    (a % 8 ≠ 0 → exec (.zeroL x) s = .next (s.trapSync bk 0x03 a)) ∧
    (a % 8 = 0 → n % 8 ≠ 0 → exec (.zeroL x) s = .next (s.trapSync bk 0x03 n)) ∧
    (a % 8 = 0 → n % 8 = 0 → n ≠ 0 → (s.core (coreOfBundle bk)).spg * 65536 < a + n → exec (.zeroL x) s = .next (s.trapSync bk 0x05 a)) ∧
    (a % 8 = 0 → n % 8 = 0 → n ≠ 0 → a + n ≤ (s.core (coreOfBundle bk)).spg * 65536 →
      ∃ o, exec (.zeroL x) s = .next (withOp s bk x o) ∧ StartedBy s bk x o ∧ o.cls = 5 ∧ o.ws = [] ∧ o.fin = .none ∧
        o.reqs = [{ uid := 0, t := 64, stage := .pass, act := .zero, addr := a, n := n }])) ∧
  (∀ (i : Instr) (x : Enc) (s : State) (bk : Nat) (un : Bool), (i = .plane x ∧ un = false) ∨ (i = .unplane x ∧ un = true) →
    MayHandOff s bk (rowOf i) x → MemoryAdmitted s bk → s.numbered →
    let w := ((s.bundle bk).sreg x.b.toNat).toNat
    let vs := FMap.look (s.core (coreOfBundle bk)).tid 0 (w % 256)
    let vd := FMap.look (s.core (coreOfBundle bk)).tid 0 (w / 256 % 256)
    let sb := ((s.bundle bk).sreg x.a.toNat).toNat
    let db := ((s.bundle bk).sreg x.d.toNat).toNat
    let fit := fun (t : BitVec 128) (lay : Nat) => (tidOf t).valid = true ∧ (tidOf t).lay = lay ∧ (tidOf t).f.kind = 0
    let alike := (tidOf vs).fmt % 2 ^ 18 = (tidOf vd).fmt % 2 ^ 18 ∧ (tidOf vs).rows = (tidOf vd).rows ∧ (tidOf vs).cols = (tidOf vd).cols ∧
      (sb + (tidOf vs).extent ≤ db ∨ db + (tidOf vd).extent ≤ sb)
    (¬ fit vs (if un then 1 else 0) → exec i s = .next (s.trapSync bk 0x09 (w % 256))) ∧
    (fit vs (if un then 1 else 0) → (¬ fit vd (if un then 0 else 1) ∨ ¬ alike) → exec i s = .next (s.trapSync bk 0x09 (w / 256 % 256))) ∧
    (fit vs (if un then 1 else 0) → fit vd (if un then 0 else 1) → alike → sb % 4 = 0 → db % 4 = 0 →
      sb + (tidOf vs).extent ≤ (s.core (coreOfBundle bk)).spg * 65536 → db + (tidOf vd).extent ≤ (s.core (coreOfBundle bk)).spg * 65536 →
      ∃ o, exec i s = .next (withOp s bk x o) ∧ StartedBy s bk x o ∧ o.cls = 5 ∧ o.ws = [] ∧ o.fin = .none ∧
        o.reqs = [{ uid := 0, t := 64, stage := .pass, act := .plane un vs vd sb db, addr := sb, n := (tidOf vs).extent }]))

/-- Where the next thread of an operation may pass its lane, all its requests go on, and no others: a scratchpad read
of an absent line is held, any other one enters its bank's queue, one of another class waits for its translation. Let
a class-5 request be one that its bank may serve now. A load that meets no uncorrectable error: no byte of the pool
changes, the request is served and the operation owes the party the bytes, zero-extended and least significant first.
Where nothing of the two engines is unfinished or unobserved: a store writes exactly its bytes of the core's
scratchpad, and zero.l zeroes its range as far as the line goes, and goes on behind it; every other byte of the pool,
and all memory, is unchanged. tag.clr and tag.set change exactly the bits of mask k of the line, tag.wc clears both;
every other tag is unchanged, and afterwards no scratchpad read of that core whose lines are all present is held (R66,
R234, R238 to R240, R245, R248). -/
def Obligations.BankServiceComplete : Prop :=
  (∀ (s : State) (o : Op) (t : Nat), s.op? o.id = some o → s.mayPass o = true → PassesNext o t →
    ∃ u o' k, passMove o.id s = .next u ∧ k ≤ 128 ∧ u.op? o.id = some o' ∧ u.mem = s.mem ∧ u.pool = s.pool ∧ o'.ws = o.ws ∧
      o'.reqs = o.reqs.map (fun q => if q.stage = .pass ∧ q.t = t then
        { q with stage := stageAfterPass s o q, seq := s.nextId, slot := if q.takesSlot then k else 0 } else q)) ∧
  ∀ (s : State) (o : Op) (r : Req), InProgress s o r → s.mayServe o r = true → o.fin = .none →
    let ck := coreOfBundle o.bk
    let base := frameKey ck ((s.core ck).spBase + r.addr)
    (∀ d u, r.act = .ld d u → s.frameBad ck ((s.core ck).spBase + r.addr) r.n = none →
      ∃ t, exec (.bankService o.id r.uid) s = .next t ∧ t.pool = s.pool ∧ t.mem = s.mem ∧ t.sram = s.sram ∧ Served t o.id r.uid ∧
        Owes t o { t := r.t, ws := loadWrites d u r.n (natOfBytes (s.frameRead ck ((s.core ck).spBase + r.addr) r.n)) }) ∧
    (∀ v, Unraced s ck → r.act = .st v ∨ (r.act = .zero ∧ v = 0 ∧ r.n ≤ 256 - r.addr % 256) →
      ∃ t, exec (.bankService o.id r.uid) s = .next t ∧ Stored s.pool t.pool 0 base r.n v ∧ t.mem = s.mem ∧ t.sram = s.sram ∧
        Served t o.id r.uid) ∧
    (Unraced s ck → r.act = .zero → 256 - r.addr % 256 < r.n →
      let n := 256 - r.addr % 256
      ∃ t o', exec (.bankService o.id r.uid) s = .next t ∧ Stored s.pool t.pool 0 base n 0 ∧ t.mem = s.mem ∧ t.sram = s.sram ∧
        t.op? o.id = some o' ∧ o'.reqs = o.reqs.map (fun q => if q.uid = r.uid then { r with addr := r.addr + n, n := r.n - n } else q)) ∧
    (∀ kind mask, Unraced s ck → r.act = .tag kind mask → kind < 3 →
      ∃ t, exec (.bankService o.id r.uid) s = .next t ∧ t.pool = s.pool ∧ t.mem = s.mem ∧ t.sram = s.sram ∧ Served t o.id r.uid ∧
        (∀ n, FMap.look (t.core ck).tagV true n = if n = r.addr / 256 ∧ (kind = 2 ∨ mask % 2 = 1) then kind == 1
          else FMap.look (s.core ck).tagV true n) ∧
        (∀ n, FMap.look (t.core ck).tagC true n = if n = r.addr / 256 ∧ (kind = 2 ∨ mask / 2 % 2 = 1) then kind == 1
          else FMap.look (s.core ck).tagC true n) ∧
        (kind = 1 → ∀ p q d u, p ∈ t.ops → coreOfBundle p.bk = ck → p.cls = 5 → q ∈ p.reqs → q.act = .ld d u → q.stage = .held →
          ∃ l, l ∈ linesOf q.addr q.n ∧ FMap.look (t.core ck).tagV true l = false))

/-- For every valid entry of a narrow format and every list of COLS codes of that format: the codes that the bit
planes of the row hold are those codes, except that a code whose value is zero comes back as 0; in element layout
every code comes back as it is (R151, R152, R243, R247). -/
def Obligations.PlanesHoldTheCodes : Prop :=
  ∀ (t : Tid) (codes : List Nat), t.valid = true → t.f.kind = 0 → codes.length = t.cols → (∀ c, c ∈ codes → c < 2 ^ t.f.w) →
    t.codesOfPlanes (t.planesOfRow codes) =
      codes.map (fun c => if (t.f.decodeNarrow c).isFin = true ∧ (t.f.decodeNarrow c).rat = 0 then 0 else c) ∧
    (t.lay = 0 → t.codesOfRow (t.rowOfCodes codes) = codes)

/-- For every atomic, integer reduction, x96 and cell instruction that may hand off, that the function's budgets admit
and for which a replay entry is free: if some party's address is not aligned to the operation's width (16 for x96 and
cells), exec takes trap 0x03 with the first such address and does nothing else. Otherwise, if some thread executes or
the form is U, exec answers a next state with one new operation of that op, order and scope; its requests, one for
each executing thread or one for the bundle, carry the operand and the compare value as they stand now, the proposer
id of R310, the destination, the won mask and .force. No byte and no register has changed, only the flag and the place
of the path (R302 to R317). -/
def Obligations.HomeInstructionsHandOff : Prop :=
  ∀ (i : Instr) (x : Enc) (f : HomeForm) (s : State) (bk : Nat), homeForm i = some (x, f) → MayHandOff s bk (rowOf i) x →
    MemoryAdmitted s bk → ReplayRoom s bk →
    (∀ (l₁ l₂ : List (Nat × Nat)) (t a : Nat), accessParties x (s.bundle bk) = l₁ ++ (t, a) :: l₂ →
      (∀ p, p ∈ l₁ → p.2 % homeBytesOf f x = 0) → a % homeBytesOf f x ≠ 0 → exec i s = .next (s.trapSync bk 0x03 a)) ∧
    ((∀ p, p ∈ accessParties x (s.bundle bk) → p.2 % homeBytesOf f x = 0) → s.numbered →
      (x.u = true ∨ (s.bundle bk).executing x ≠ 0) →
      ∃ o, exec i s = .next (withOp s bk x o) ∧ StartedBy s bk x o ∧ o.cls = 7 ∧ o.opn = f.op ∧ o.ord = f.ord ∧ o.lvl = scopeOf x ∧
        o.reqs = homeRequests f x bk (s.bundle bk) ∧ o.ws = homeZeroes f x (s.bundle bk) ∧ o.fin = .none ∧ o.early = false)

/-- An atomic or integer reduction on N bits writes the sum, lesser, greater, and, or, xor, operand, or (cas, where
the old value equals the expected one) the new value, modulo 2^N; an atomic replies the old bytes, a reduction
nothing. red.x96 of an integer into a slot without overflow whose sum stays in range adds exactly the truncation of
the contribution at the slot's L, marks inexactness exactly when it is inexact, keeps bytes 12 and 13 and clears byte
15; x96.ld changes nothing and replies the 16 bytes; x96.init writes n = 0, L and no flag. A proposal to a cell, an
arm and a reset do as the tables of R311 to R313 say, an arm and a reset without a reply (R306 to R316, R318). -/
def Obligations.HomeOperationsOnBytes : Prop :=
  (∀ (op ty opnd cmp pid : Nat) (force : Bool) (l : List Byte), op ≤ 10 → ty < 4 →
    let n := if 2 ≤ ty then 64 else 32
    let sg := ty % 2 == 0
    let old := natOfBytes l
    let c := opnd % 2 ^ n
    l.length = n / 8 →
    let new := match op with
      | 0 => (old + c) % 2 ^ n
      | 1 => if readAs sg n c < readAs sg n old then c else old
      | 2 => if readAs sg n old < readAs sg n c then c else old
      | 3 => old &&& c
      | 4 => old ||| c
      | 5 => old ^^^ c
      | 6 => c
      | 7 => if old = cmp % 2 ^ n then c else old
      | 8 => (old + c) % 2 ^ n
      | 9 => if readAs sg n c < readAs sg n old then c else old
      | _ => if readAs sg n old < readAs sg n c then c else old
    homeBytes op ty opnd cmp pid force l = { bytes := bytesOfNat (n / 8) new, reply := if op ≤ 7 then l else [] }) ∧
  (∀ (ty opnd cmp pid : Nat) (force : Bool) (l : List Byte), l.length = 16 → (ty = 2 ∨ ty = 3) →
    let v := readAs true (if ty = 2 then 32 else 64) opnd
    let a := slotOf l
    let c := if 0 ≤ a.l then Int.tdiv v (2 ^ a.l.toNat) else v * 2 ^ (-a.l).toNat
    a.ovf = false → -2 ^ 95 ≤ a.n + c → a.n + c < 2 ^ 95 →
    let o := homeBytes 11 ty opnd cmp pid force l
    o.reply = [] ∧ o.bad = false ∧ o.bytes.length = 16 ∧ (slotOf o.bytes).n = a.n + c ∧ (slotOf o.bytes).l = a.l ∧ (slotOf o.bytes).ovf = false ∧
      (slotOf o.bytes).nan = a.nan ∧ ((slotOf o.bytes).inx = true ↔ a.inx = true ∨ (0 ≤ a.l ∧ v % 2 ^ a.l.toNat ≠ 0)) ∧ o.bytes.getLast? = some 0) ∧
  (∀ (ty opnd cmp pid : Nat) (force : Bool) (l : List Byte), l.length = 16 →
    homeBytes 12 ty opnd cmp pid force l = { bytes := l, reply := l } ∧
    homeBytes 13 ty opnd cmp pid force l = { bytes := bytesOfNat 16 (opnd % 2 ^ 16 * 2 ^ 96), reply := [] }) ∧
  (∀ (w0 w1 v : DWord) (pid : Nat), pid < 2 ^ 32 → cellState w1 < 6 →
    let st := cellState w1
    let n := cellCount w1
    let r := cellProp w0 w1 v pid
    let wins := st = 1 ∨ (st = 2 ∧ n ≠ 0) ∨ (st = 5 ∧ cellId w1 = pid)
    r.bad = false ∧
    (wins → r.w0 = v ∧ r.value = v ∧ cellId r.w1 = pid ∧ cellCount r.w1 = (if st = 2 then n - 1 else 0) ∧
      cellState r.w1 = (if st = 2 ∧ n = 1 then 4 else 3) ∧ r.status = (if st = 2 then n - 1 else 0) * 8) ∧
    (st = 0 ∨ (st = 5 ∧ cellId w1 ≠ pid) → r.w0 = w0 ∧ r.w1 = w1 ∧ r.value = 0 ∧ r.status % 8 = 3) ∧
    (st = 3 → r.w0 = w0 ∧ r.value = w0 ∧ cellId r.w1 = cellId w1 ∧ cellCount r.w1 = n - 1 ∧ cellState r.w1 = (if n = 1 then 4 else 3) ∧
      r.status = (n - 1) * 8 + 1) ∧
    (st = 4 → r.w0 = w0 ∧ r.w1 = w1 ∧ r.value = w0 ∧ r.status % 8 = 2)) ∧
  (∀ (w0 w1 arm : DWord), let r := cellArm w0 w1 arm
    (r.bad = false ↔ cellState w1 = 0 ∧ (cellState arm = 1 ∨ (cellState arm = 2 ∧ cellCount arm ≠ 0) ∨ cellState arm = 5)) ∧
    (r.bad = true → r.w0 = w0 ∧ r.w1 = w1) ∧
    (r.bad = false → r.w0 = 0 ∧ cellState r.w1 = cellState arm ∧ cellCount r.w1 = (if cellState arm = 2 then cellCount arm else 0) ∧
      cellId r.w1 = (if cellState arm = 5 then cellId arm else 0))) ∧
  (∀ (w0 w1 : DWord) (force : Bool), let r := cellReset w0 w1 force
    let st := cellState w1
    (r.bad = true ↔ 6 ≤ st ∨ (force = false ∧ st ≠ 0 ∧ st ≠ 4)) ∧ (r.bad = true → r.w0 = w0 ∧ r.w1 = w1) ∧
    (r.bad = false → st ≠ 0 → r.w0 = 0 ∧ r.w1 = 0) ∧ (st = 0 → r.w0 = w0 ∧ r.w1 = w1)) ∧
  (∀ (op ty opnd cmp pid : Nat) (force : Bool) (l : List Byte), op = 14 ∨ op = 15 ∨ op = 17 →
    let w0 : DWord := BitVec.ofNat 64 (natOfBytes (l.take 8))
    let w1 : DWord := BitVec.ofNat 64 (natOfBytes (l.drop 8))
    let r := if op = 14 then cellArm w0 w1 (BitVec.ofNat 64 opnd) else if op = 17 then cellReset w0 w1 force
      else cellProp w0 w1 (BitVec.ofNat 64 (if ty = 0 then opnd % 2 ^ 32 else opnd)) pid
    homeBytes op ty opnd cmp pid force l =
      { bytes := bytesOfNat 8 r.w0.toNat ++ bytesOfNat 8 r.w1.toNat
        reply := if op = 15 then bytesOfNat 8 r.value.toNat ++ bytesOfNat 8 r.status else []
        bad := r.bad })

/-- Let an operation of a resident bundle owe a result (not the kept words of a record, for a 16-byte access with both
halves read, and of scratchpad loads in the order of their service). RESULT_WRITEBACK answers a next state. While more
remains of the operation, only the bundle and the operation have changed: the writes have landed, those of a dead
thread's registers discarded, and that result is owed no more. With the last result of an operation without a request
left, on flag k, that signals nothing further, for a bundle with a live thread: the writes have landed, the operation
is gone, flag k is one less, the other flags are unchanged, and so are memory and the pool. ENGINE_ARRIVAL of an
operation with nothing left enrolled in phase p of a barrier makes that phase's engine count one less and evaluates
the barrier (R78, R107, R109, R207). -/
def Obligations.ResultsLand : Prop :=
  (∀ (s : State) (o : Op) (k : Nat) (w : WB), s.op? o.id = some o → o.ws[k]? = some w → w.t ≠ 65 → w.proper →
    (o.pairs = true → ∀ r, r ∈ o.reqs → r.t ≠ w.t) → s.landsBehind o w = false → (s.bundle o.bk).ser = o.ser → (1 < o.ws.length ∨ o.reqs ≠ []) →
    ∃ t c, exec (.resultWriteback o.id k) s = .next t ∧ Landed (s.bundle o.bk) c w ∧
      t = { s.setBundle o.bk c with ops := t.ops } ∧ t.op? o.id = some { o with ws := o.ws.eraseIdx k }) ∧
  (∀ (s : State) (o : Op) (w : WB) (k : Nat), s.op? o.id = some o → o.ws = [w] → o.reqs = [] → w.t ≠ 65 → w.proper → o.fin = .none → o.failed = false →
    s.landsBehind o w = false → o.flag = some k → (s.bundle o.bk).ser = o.ser → (s.bundle o.bk).live ≠ 0 →
    ∃ t c, exec (.resultWriteback o.id 0) s = .next t ∧ Landed (s.bundle o.bk) c w ∧
      (∀ p, p ∈ t.ops → p.id ≠ o.id) ∧ t.mem = s.mem ∧ t.pool = s.pool ∧
      (t.bundle o.bk).v = c.v ∧ (t.bundle o.bk).s = c.s ∧ (t.bundle o.bk).m = c.m ∧ (t.bundle o.bk).status = c.status ∧
      (∀ j, (t.bundle o.bk).flag j = if j = k then (s.bundle o.bk).flag k - 1 else (s.bundle o.bk).flag j)) ∧
  (∀ (s : State) (o : Op) (key : Nat) (p : Bool), s.op? o.id = some o → o.ws = [] → o.reqs = [] → o.flag = none → o.failed = false →
    o.fin = .arrive key p →
    ∃ (t : State) (x : Bar), exec (.engineArrival o.id) s = .next t ∧ (∀ q, q ∈ t.ops → q.id ≠ o.id) ∧
      x.eng p = (s.bar key).eng p - 1 ∧ x.eng (!p) = (s.bar key).eng (!p) ∧ x.arr = (s.bar key).arr ∧ x.p = (s.bar key).p ∧ x.hit = (s.bar key).hit ∧
      t.bar key = x.evaluate (s.members x.bound) (t.barBusy key) ∧ t.mem = s.mem ∧ t.pool = s.pool)

/-- Let a request of class 6 or 7 of a context that runs wait for its translation, with no other access of the chiplet
waiting for the page, no held one of its threads on it, and its core's turn at the shard unit. Where the translation
gives a physical address, PAGE_WALK_COMPLETE puts the request on its way to its home with that address and changes no
byte; where it gives a trap, the request ends, and the trap is reported for the threads that made it. Let a translated
request stand at its own chiplet's HBM with nothing of its bundle before it, its core in turn and no uncorrectable
error there. HOME_PERFORM of a load changes no byte and owes the party its bytes; of a store it writes exactly its
bytes; of a class-7 operation other than cell.ld that traps for no state it leaves the 16 bytes or the word as R306 to
R316 say, every other byte unchanged, and owes the reply (R220, R250, R302, R306, R364). A walk: bits [63:52] of the
address must be alike; from the root it goes through entries of which only VD and PFN are not 0, naming tables of the
own package, to an entry at level 3, 2 or 1 that fits there, and gives that leaf; else it gives none. Under no leaf
the fate is trap 0x04, under one without the right 0x05. Under an ORDINARY or REMOTE leaf whose frame lies in HBM a
cell operation gets 0x07 and any other access its address; under a CELL leaf a cell operation gets its address,
another class-7 operation 0x07, an access of class 6 or 11 0x05 (R304, R361, R362). -/
def Obligations.WalksAndHomesServeRequests : Prop :=
  (∀ (s : State) (o : Op) (r : Req) (pa : Nat), InProgress s o r → (o.cls = 6 ∨ o.cls = 7) → r.stage = .walk → s.runs o.bk = true →
    o.pairs = false → (∀ k sp c, r.act ≠ .bulk k sp c) → (∀ sp, r.act ≠ .push sp) → r.act ≠ .prf → s.heldOfThread o r = false →
    (∀ p q, p ∈ s.ops → q ∈ p.reqs → s.joins o.bk r.addr p q = true → p = o ∧ q = r) → s.inOrder (s.sliceEngine o) o.bk = true →
    ((s.translate o r).1 = .go pa →
      ∃ t o', exec (.pageWalkComplete o.id r.uid) s = .next t ∧ t.op? o.id = some o' ∧
        o'.reqs = o.reqs.map (fun q => if q.uid = r.uid then { r with stage := .home, pa := pa } else q) ∧ o'.ws = o.ws ∧
        t.mem = s.mem ∧ t.pool = s.pool ∧ t.bundles = s.bundles ∧ t.reports = s.reports) ∧
    (∀ code, (s.translate o r).1 = .trap code → o.records = false →
      ∃ t, exec (.pageWalkComplete o.id r.uid) s = .next t ∧ Served t o.id r.uid ∧
        Reported s t o r code (engineOf code) (BitVec.ofNat 64 r.addr) ∧ t.mem = s.mem ∧ t.pool = s.pool)) ∧
  (∀ (s : State) (o : Op) (r : Req), InProgress s o r → (o.cls = 6 ∨ o.cls = 7) → r.stage = .home → s.runs o.bk = true → r.claim = false →
    r.pa < 2 ^ 52 → s.travels o r = false → s.blocked o r false = false → s.mgmtBehind o r = false → s.homeReady o r = true → o.fin = .none →
    s.target o.orig r.pa r.n = .mem →
    (∀ d u, r.act = .ld d u → s.memBad r.pa r.n = none →
      ∃ t, exec (.homePerform o.id r.uid) s = .next t ∧ t.mem = s.mem ∧ t.pool = s.pool ∧ Served t o.id r.uid ∧
        (0 < r.n → Owes t o { t := r.t, ws := loadWrites d u r.n (natOfBytes (s.memRead r.pa r.n)) })) ∧
    (∀ v, r.act = .st v →
      ∃ t, exec (.homePerform o.id r.uid) s = .next t ∧ Stored s.mem t.mem Memory.unlisted r.pa r.n v ∧ t.pool = s.pool ∧ Served t o.id r.uid) ∧
    (∀ op ty opnd cmp d k u pid force, r.act = .home op ty opnd cmp d k u pid force → op < 18 → op ≠ 16 → ty < 4 → r.n = homeSize op ty →
      s.memBad r.pa r.n = none →
      let out := homeBytes op ty opnd cmp pid force (s.memRead r.pa r.n)
      out.bad = false →
      ∃ t, exec (.homePerform o.id r.uid) s = .next t ∧ Stored s.mem t.mem Memory.unlisted r.pa r.n (natOfBytes out.bytes) ∧ t.pool = s.pool ∧
        Served t o.id r.uid ∧
        (homeReply op ty d k u (natOfBytes out.reply) ≠ [] → Owes t o { t := r.t, ws := homeReply op ty d k u (natOfBytes out.reply) }))) ∧
  (∀ (s : State) (c va : Nat) (l : Leaf), (s.walk c va = some l ↔
    (va / 2 ^ 52 % 2 ^ 12 = 0 ∨ va / 2 ^ 52 % 2 ^ 12 = 2 ^ 12 - 1) ∧ ∃ t, tableAt s c va (4 - l.level) = some t ∧
      LeafFits s c l.level (entryAt s l.level t va) ∧ l.at_ = t + 8 * (va / 2 ^ (13 + 10 * (l.level - 1)) % 1024) ∧
      l.word.toNat = entryAt s l.level t va - (if l.level = 1 then 0 else 2 ^ 8))) ∧
  (∀ (s : State) (o : Op) (r : Req), isFw o.bk = false → Walks s o.bk r.addr →
    (s.walk (ctxOfBundle o.bk) r.addr = none → (s.translate o r).1 = .trap 0x04) ∧
    (∀ l, s.walk (ctxOfBundle o.bk) r.addr = some l →
      let pa := leafAddress l r.addr
      let cell := ∃ op, homeOp r.act = some op ∧ 14 ≤ op
      let kind := l.word.toNat / 2 ^ 5 % 8
      (l.word.getLsbD (if needsWrite r.act then 2 else 1) = false → (s.translate o r).1 = .trap 0x05) ∧
      (l.word.getLsbD (if needsWrite r.act then 2 else 1) = true → (∃ x, s.place pa = .hbm x) →
        ((kind = 0 ∨ kind = 1) → (cell → (s.translate o r).1 = .trap 0x07) ∧ (¬ cell → (s.translate o r).1 = .go pa)) ∧
        (kind = 2 → (cell → (s.translate o r).1 = .go pa) ∧
          (¬ cell → (s.translate o r).1 = .trap (if (homeOp r.act).isSome then 0x07 else 0x05))))))

/-- Let a packet of a load, store or class-7 request be delivered, its core in turn at the home agent, with memory in
service at its address and no uncorrectable error there. READ_REQUEST changes no byte and is answered by a reply with
the bytes; WRITE_PACKET writes exactly the store's bytes and is acknowledged; ATOMIC_REQUEST leaves the word or the 16
bytes as R306 to R316 say and is answered by a reply, or by an acknowledgement (a reduction, x96.init, cell.arm,
cell.reset). READ_REPLY and ATOMIC_REPLY write the registers of the party and end the request; ACKNOWLEDGEMENT ends
it; DROP_NOTICE ends it and reports trap 0x0E for its threads, with the request's physical address as detail (the
model's reading, notes/assumptions/74.md). A packet that has waited 64 microseconds on an ordinary channel moves to
the escape channel, and one that has waited as long there is replaced by a drop notice (R302, R321, R323, R326, R329).
-/
def Obligations.PacketsServeRequests : Prop :=
  (∀ (s : State) (p : Packet) (o : Op) (r : Req) (d : Nat) (u : Bool), Delivered s p o r → p.op = 1 → r.act = .ld d u → 0 < r.n →
    s.target o.orig r.pa r.n = .mem → s.memBad r.pa r.n = none →
    ∃ t, exec (.readRequest p.id) s = .next t ∧ Answered s t p 2 (s.memRead r.pa r.n) ∧ t.mem = s.mem ∧ t.pool = s.pool ∧ t.ops = s.ops) ∧
  (∀ (s : State) (p : Packet) (o : Op) (r : Req) (v : Nat), Delivered s p o r → p.op = 0 → r.act = .st v →
    s.target o.orig r.pa r.n = .mem →
    ∃ t, exec (.writePacket p.id) s = .next t ∧ Answered s t p 5 [] ∧ Stored s.mem t.mem Memory.unlisted r.pa r.n v ∧ t.pool = s.pool ∧ t.ops = s.ops) ∧
  (∀ (s : State) (p : Packet) (o : Op) (r : Req) (op ty opnd cmp d k : Nat) (u : Bool) (pid : Nat) (force : Bool), Delivered s p o r → p.op = 3 →
    p.id < 2 ^ 40 → r.act = .home op ty opnd cmp d k u pid force → op < 18 → op ≠ 16 → ty < 4 →
    s.target o.orig r.pa (homeSize op ty) = .mem → s.memBad r.pa (homeSize op ty) = none →
    let out := homeBytes op ty opnd cmp pid force (s.memRead r.pa (homeSize op ty))
    out.bad = false →
    ∃ t, exec (.atomicRequest p.id) s = .next t ∧ Answered s t p (if out.reply = [] then 5 else 4) out.reply ∧
      Stored s.mem t.mem Memory.unlisted r.pa (homeSize op ty) (natOfBytes out.bytes) ∧ t.pool = s.pool ∧ t.ops = s.ops) ∧
  (∀ (s : State) (p : Packet) (o : Op) (r : Req) (i : Instr) (ws : List RegW), Delivered s p o r → r.t ≠ 65 → ({ t := r.t, ws := ws } : WB).proper → (s.bundle o.bk).ser = o.ser →
    o.fin = .none → (1 < o.reqs.length ∨ o.ws ≠ []) → (∀ q, q ∈ o.reqs → q.uid = r.uid → q = r) → o.reqs.Nodup →
    (i = .readReply p.id ∧ p.op = 2 ∧ (∃ d u, r.act = .ld d u ∧ ws = loadWrites d u p.data.length (natOfBytes p.data))) ∨
    (i = .atomicReply p.id ∧ p.op = 4 ∧ (∃ op ty opnd cmp d k u pid force, r.act = .home op ty opnd cmp d k u pid force ∧
      p.data.length = (if op ≤ 10 then homeSize op ty else 16) ∧ ws = homeReply op ty d k u (natOfBytes p.data))) →
    ∃ t c, exec i s = .next t ∧ Landed (s.bundle o.bk) c { t := r.t, ws := ws } ∧ t.bundles = FMap.put s.bundles o.bk c ∧ Served t o.id r.uid ∧
      t.pkts = s.pkts.filter (fun x => x.id != p.id) ∧ t.mem = s.mem ∧ t.pool = s.pool) ∧
  (∀ (s : State) (p : Packet) (o : Op) (r : Req), Delivered s p o r → p.op = 5 →
    ∃ t, exec (.acknowledgement p.id) s = .next t ∧ Served t o.id r.uid ∧ t.pkts = s.pkts.filter (fun x => x.id != p.id) ∧ t.reports = s.reports ∧
      t.mem = s.mem) ∧
  (∀ (s : State) (p : Packet) (o : Op) (r : Req), Delivered s p o r → p.op = 6 → (∀ k sp c, r.act ≠ .bulk k sp c) → (∀ sp, r.act ≠ .push sp) →
    o.pairs = false → o.records = false →
    ∃ t, exec (.dropNotice p.id) s = .next t ∧ Served t o.id r.uid ∧ Reported s t o r 0x0E 5 (BitVec.ofNat 64 r.pa) ∧ t.mem = s.mem ∧ t.pool = s.pool) ∧
  (∀ (s : State) (p : Packet), s.pkt? p.id = some p → p.op ≠ 5 → p.op ≠ 6 → p.since + 115200 ≤ s.cycle →
    (p.escape = false → ∃ t, exec (.escapeMove p.id) s = .next t ∧ t.pkt? p.id = some { p with escape := true, since := s.cycle } ∧ t = { s with pkts := t.pkts, msgs := t.msgs }) ∧
    (p.escape = true → ∃ t, exec (.escapeDrop p.id) s = .next t ∧ Answered s t p 6 [] ∧ t.mem = s.mem ∧ t.ops = s.ops))

/-- For a unit of bar.arv, bar.wait, bar.sync, bar.poll or bar.bind that passes: a handle that names no barrier takes
trap 0x0A, and so does an arrival on an unbound barrier or by a thread that is no member; where no thread executes
nothing arrives and the path goes on. bar.arv and bar.sync of members, none of which has arrived in both phases,
answer a next state: each executing thread has arrived in the current phase, or in the other if it had arrived
already, and the barrier has been evaluated; no register, no byte and no operation of another kind has changed; after
bar.sync a thread that the barrier still holds is parked on it, past the unit. bar.wait parks exactly the executing
threads that the barrier holds. bar.poll writes the bit of each thread that bar.wait would let go on, or in the U form
the status word. bar.bind of a barrier in no use that is no block barrier binds it to the set that S[b] names, or
unbinds it, and P stays; otherwise it takes trap 0x0A (R204 to R209, R213). That bar.arv and bar.sync test nothing
where no thread executes and the others do (notes/assumptions/83.md), that a malformed set handle traps 0x0A (38.md),
and that an arrival counts at once though its phase waits for earlier accesses (41.md), are the model's readings. -/
def Obligations.BarrierInstructionsComplete : Prop :=
  (∀ (i : Instr) (x : Enc) (s : State) (bk : Nat),
    i = .barArv x ∨ i = .barWait x ∨ i = .barSync x ∨ i = .barPoll x ∨ i = .barBind x → Passes s bk (rowOf i) x →
    (i = .barArv x ∨ i = .barSync x → (s.bundle bk).executing x ≠ 0) → s.barKey (coreOfBundle bk) ((s.bundle bk).syncField x) = none →
    exec i s = .next (s.trapSync bk 0x0A ((s.bundle bk).syncField x))) ∧
  (∀ (i : Instr) (x : Enc) (s : State) (bk : Nat), i = .barArv x ∨ i = .barSync x → Passes s bk (rowOf i) x →
    (s.bundle bk).executing x = 0 → exec i s = .next (after s bk { s.bundle bk with thr := pastUnit (s.bundle bk) x })) ∧
  (∀ (i : Instr) (x : Enc) (s : State) (bk key : Nat), i = .barArv x ∨ i = .barSync x → Passes s bk (rowOf i) x →
    (s.bundle bk).executing x ≠ 0 → s.barKey (coreOfBundle bk) ((s.bundle bk).syncField x) = some key →
    (¬ MayArrive s (s.bundle bk) ((s.bundle bk).executing x) (s.bar key) →
      exec i s = .next (s.trapSync bk 0x0A ((s.bundle bk).syncField x))) ∧
    (MayArrive s (s.bundle bk) ((s.bundle bk).executing x) (s.bar key) →
      (∀ n, n ∈ threadsOf (s.bundle bk) ((s.bundle bk).executing x) → n ∈ (s.bar key).arr0 → n ∉ (s.bar key).arr1) →
      ∃ (t : State) (y : Bar), exec i s = .next t ∧ ArrivedAt (threadsOf (s.bundle bk) ((s.bundle bk).executing x)) (s.bar key) y ∧
        Evaluated s t key y ∧ (∀ k, k ≠ key → t.bar k = s.bar k) ∧ t.issuing = none ∧
        SameButThreads { s.bundle bk with rel := (s.bundle bk).rel ||| (s.bundle bk).executing x } (t.bundle bk) ∧
        t.mem = s.mem ∧ t.pool = s.pool ∧ t.sets = s.sets ∧ (∀ o, o ∈ t.ops → o ∉ s.ops → o.cls = 8) ∧
        (i = .barSync x → ∀ u, u < 64 → hasBit ((s.bundle bk).executing x) u = true → ((s.bundle bk).thread u).cond = .running →
          (t.bundle bk).thread u = passedThread x ((t.bar key).holds (s.bundle bk).ser u) (.barrier key) ((s.bundle bk).thread u)))) ∧
  (∀ (x : Enc) (s : State) (bk key : Nat), Passes s bk (rowOf (.barWait x)) x →
    s.barKey (coreOfBundle bk) ((s.bundle bk).syncField x) = some key →
    ∃ c t, exec (.barWait x) s = .next t ∧ Watched (after s bk c) t ∧ SameButThreads (s.bundle bk) c ∧
      ((c.active = (s.bundle bk).active &&& c.running ∧ c.active ≠ 0) ∨ c.onChosenPath) ∧
      c.thr = (s.bundle bk).thr.map (fun (e : Nat × Thread) => if hasBit (s.bundle bk).active e.1 then
        (e.1, passedThread x (hasBit ((s.bundle bk).executing x) e.1 && (s.bar key).holds (s.bundle bk).ser e.1) (.barrier key) e.2) else e)) ∧
  (∀ (x : Enc) (s : State) (bk key : Nat), Passes s bk (rowOf (.barPoll x)) x →
    s.barKey (coreOfBundle bk) ((s.bundle bk).syncField x) = some key →
    ∃ c t, exec (.barPoll x) s = .next t ∧ Watched (after s bk c) t ∧ (x.u = true → t = after s bk c) ∧ c = { s.bundle bk with thr := pastUnit (s.bundle bk) x, m := c.m, s := c.s } ∧
      (x.u = true → c.m = (s.bundle bk).m ∧ ∀ n, c.sreg n = if n = x.d.toNat then pollWord (s.bar key) else (s.bundle bk).sreg n) ∧
      (x.u = false → c.s = (s.bundle bk).s ∧ MaskResult (s.bundle bk) c x x.d.toNat (fun t => !(s.bar key).holds (s.bundle bk).ser t))) ∧
  (∀ (x : Enc) (s : State) (bk key : Nat), Passes s bk (rowOf (.barBind x)) x →
    s.barKey (coreOfBundle bk) ((s.bundle bk).syncField x) = some key →
    let unused := (s.bar key).arr0 = [] ∧ (s.bar key).arr1 = [] ∧ (s.bar key).eng0 = 0 ∧ (s.bar key).eng1 = 0 ∧ (s.bar key).eb0 = [] ∧ (s.bar key).eb1 = [] ∧
      ∀ (l : Nat × Launch) (k : Nat × Block), l ∈ s.launches → k ∈ l.2.live → k.2.bar ≠ key
    let binds := BindsTo s (coreOfBundle bk) ((s.bundle bk).syncField x / 2 ^ 14) (((s.bundle bk).sreg x.b.toNat).toNat % 2 ^ 16)
    (¬ unused ∨ (∀ bound, ¬ binds bound) → exec (.barBind x) s = .next (s.trapSync bk 0x0A ((s.bundle bk).syncField x))) ∧
    (∀ bound, unused → binds bound →
      ∃ (t : State), exec (.barBind x) s = .next { after s bk { s.bundle bk with thr := pastUnit (s.bundle bk) x } with bars := t.bars } ∧
        ∀ k, t.bar k = if k = key then { s.bar key with bound := bound } else s.bar k))

/-- For a unit that passes. set.new of level 1, 2 or 3: if a set of the unit's own core, chiplet or package is free,
the lowest free one is allocated and S[d] holds its handle; if none is free S[d] is 0xFFFF and no set changes; nothing
else changes but the place of the path. set.join adds each executing thread that is no member yet, set.leave takes
each executing thread out, in both cases of the set that the handle names; every other set, every register and every
byte is as it was, and every bound barrier has been evaluated: none of them could complete its current phase any more
(a barrier still bound is one that was bound before). A handle that names no set takes trap 0x0A (R81, R84, R204,
R210, R211, R213). -/
def Obligations.SetInstructionsComplete : Prop :=
  (∀ (x : Enc) (s : State) (bk : Nat), Passes s bk (rowOf (.setNew x)) x → 1 ≤ x.b.toNat → x.b.toNat ≤ 3 →
    let lvl := x.b.toNat
    let key := fun n => s.keyFor (coreOfBundle bk) lvl n
    let limit := [0, 256, 512, 256].getD lvl 0
    let done := fun h => { s.bundle bk with thr := pastUnit (s.bundle bk) x, s := FMap.write (s.bundle bk).s 0 x.d.toNat (BitVec.ofNat 64 h) }
    (∀ n, n < limit → FreeSet s (key n) → (∀ k, k < n → ¬ FreeSet s (key k)) →
      ∃ (t : State), exec (.setNew x) s = .next { after s bk (done (lvl * 2 ^ 14 + n)) with sets := t.sets } ∧
        ∀ k, t.setRec k = if k = key n then { s.setRec k with alloc := true } else s.setRec k) ∧
    ((∀ n, n < limit → ¬ FreeSet s (key n)) → exec (.setNew x) s = .next (after s bk (done 0xFFFF)))) ∧
  (∀ (i : Instr) (x : Enc) (s : State) (bk : Nat), i = .setJoin x ∨ i = .setLeave x → Passes s bk (rowOf i) x →
    (s.setKeyOf (coreOfBundle bk) ((s.bundle bk).syncField x) = none →
      exec i s = .next (s.trapSync bk 0x0A ((s.bundle bk).syncField x))) ∧
    (∀ key, s.setKeyOf (coreOfBundle bk) ((s.bundle bk).syncField x) = some key →
      ∃ t, exec i s = .next t ∧ t.issuing = none ∧ t.mem = s.mem ∧ t.pool = s.pool ∧ t.ops = s.ops ∧
        SameButThreads (s.bundle bk) (t.bundle bk) ∧ (∀ k, k ≠ key → t.setRec k = s.setRec k) ∧
        (t.setRec key).alloc = (s.setRec key).alloc ∧ (t.setRec key).initial = (s.setRec key).initial ∧
        (∀ n, n ∈ (t.setRec key).members ↔
          if i = .setJoin x then n ∈ (s.setRec key).members ∨ n ∈ threadsOf (s.bundle bk) ((s.bundle bk).executing x)
          else n ∈ (s.setRec key).members ∧ n ∉ threadsOf (s.bundle bk) ((s.bundle bk).executing x)) ∧
        ((s.setRec key).members.Nodup → (t.setRec key).members.Nodup) ∧
        (∀ k, (s.bar k).bound ≠ none → (t.bar k).complete (t.members (t.bar k).bound) (t.barBusy k) = false)))

/-- Let a lane have started set.free of a set that the handle names. If the set has members, or a barrier is bound to
it, or it is an initial set, exec takes trap 0x0A with the handle as detail and does nothing else. Otherwise exec
answers a next state in which the set is no longer allocated, and `set.new` may take it again; nothing else has
changed but the place of the path. -/
def Obligations.SetFreeReturnsTheSet : Prop :=
  ∀ (x : Enc) (s : State) (bk key : Nat), Passes s bk (rowOf (.setFree x)) x →
    s.setKeyOf (coreOfBundle bk) ((s.bundle bk).syncField x) = some key →
    ((s.setRec key).members ≠ [] ∨ BoundSomewhere s key ∨ (s.setRec key).initial = true →
      exec (.setFree x) s = .next (s.trapSync bk 0x0A ((s.bundle bk).syncField x))) ∧
    ((s.setRec key).members = [] → ¬ BoundSomewhere s key → (s.setRec key).initial = false →
      ∃ (t : State), exec (.setFree x) s = .next { after s bk { s.bundle bk with thr := pastUnit (s.bundle bk) x } with sets := t.sets } ∧
        (∀ k, t.setRec k = if k = key then { s.setRec k with alloc := false } else s.setRec k) ∧
        FreeSet { s with sets := t.sets } key)

/-- For a unit that passes. fence: the path goes on, and, where some thread acts, an operation waits for their
accesses before it; while it is in progress the bundle can hand off no instruction of classes 5, 6, 7, 9, 10 and 11
and of class-12 ops 06 to 0F, and it ends once those accesses are performed. opfence: the path goes on if no write of
the bundle is unperformed, and the engines read no byte of the core from before a store any more; otherwise the bundle
stalls where it is. waitf, with no held transfer error on its flags: the path goes on if every flag of the mask is
zero, and is parked past the unit on the mask otherwise. acq.remote that may hand off: a core outside the partition
takes trap 0x05; otherwise one acquire operation is in progress; its request reaches the core, and its answer, with no
strong read of its threads left before it, ends it and lowers its flag. scopeof: each executing thread, or the bundle,
gets the level of R35 of its operand, an agent word of kind 0x80 to 0x84 or a translated address; any other operand
takes trap 0x04. No byte changes (R35, R54, R214 to R218). -/
def Obligations.FencesAndFlagWaitsComplete : Prop :=
  (∀ (x : Enc) (s : State) (bk : Nat), Passes s bk (rowOf (.fence x)) x → (s.bundle bk).acting x = 0 →
    exec (.fence x) s = .next (after s bk { s.bundle bk with thr := pastUnit (s.bundle bk) x })) ∧
  (∀ (x : Enc) (s : State) (bk : Nat), Passes s bk (rowOf (.fence x)) x → (s.bundle bk).acting x ≠ 0 →
    ∃ o, exec (.fence x) s = .next { after s bk { s.bundle bk with
          thr := pastUnit (s.bundle bk) x, rel := (s.bundle bk).rel ||| (s.bundle bk).acting x } with
        nextId := s.nextId + 1, ops := s.ops ++ [o] } ∧ FenceOf s bk x o ∧
      ∀ (t : State) (cls op : Nat), o ∈ t.ops → (t.bundle bk).ser = o.ser → fenceHolds cls op = true → t.fenced (t.bundle bk) cls op = true) ∧
  (∀ (x : Enc) (s : State) (bk : Nat) (o : Op), FenceOf s bk x o → (∀ t : State, t.op? o.id = some o → t.runs o.bk = true → t.accessesBefore o = false →
    ∃ u v, exec (.homePerform o.id 0) t = .next u ∧ Observing t v ∧ u = { v with ops := u.ops } ∧ ∀ p, p ∈ u.ops → p.id ≠ o.id)) ∧
  (∀ (x : Enc) (s : State) (bk : Nat), Passes s bk (rowOf (.opfence x)) x →
    ((∀ (o : Op) (r : Req), o ∈ s.ops → o.ser = (s.bundle bk).ser → o.isData = true → o.id < s.nextId → r ∈ o.reqs → r.writes = false) →
      exec (.opfence x) s = .next (after (s.setCore (coreOfBundle bk) { s.core (coreOfBundle bk) with stale := [] }) bk
        { s.bundle bk with thr := pastUnit (s.bundle bk) x })) ∧
    (∀ (o : Op) (r : Req), o ∈ s.ops → o.ser = (s.bundle bk).ser → o.isData = true → o.id < s.nextId → r ∈ o.reqs → r.writes = true → r.t < 64 ∨ (64 ≤ r.t ∧ o.ex ≠ 0) →
      exec (.opfence x) s = .next (after s bk { s.bundle bk with stalled := true }))) ∧
  (∀ (x : Enc) (s : State) (bk : Nat), Passes s bk (rowOf (.waitf x)) x →
    let w : BitVec 12 := BitVec.ofNat 12 ((s.bundle bk).syncField x)
    (∀ e, e ∈ s.xerrs → e.ser = (s.bundle bk).ser → e.onFlags w.toNat = false) →
    ∃ c, exec (.waitf x) s = .next (after s bk c) ∧ SameButThreads (s.bundle bk) c ∧
      (flagsClear (s.bundle bk) w = true → c = { s.bundle bk with thr := pastUnit (s.bundle bk) x }) ∧
      (flagsClear (s.bundle bk) w = false → c.onChosenPath ∧
        c.thr = (s.bundle bk).thr.map (fun (e : Nat × Thread) =>
          if hasBit (s.bundle bk).active e.1 then (e.1, passedThread x true (.flags w.toNat) e.2) else e))) ∧
  (∀ (x : Enc) (s : State) (bk : Nat), MayHandOff s bk (rowOf (.acqRemote x)) x →
    let c := (((s.bundle bk).sreg x.a.toNat).toNat / 2 ^ 16 % 2 ^ 10 + if x.form = .extended then x.w2.toNat / 2 ^ 6 % 2 ^ 10 else 0) % 1024
    (s.coresOf (partOfCtx (ctxOfBundle bk)) ≤ c → exec (.acqRemote x) s = .next (s.trapSync bk 0x05 c)) ∧
    (c < s.coresOf (partOfCtx (ctxOfBundle bk)) → (s.bundle bk).acting x ≠ 0 →
      ∃ o, exec (.acqRemote x) s = .next (withOp s bk x o) ∧ StartedBy s bk x o ∧ o.cls = 8 ∧ o.opn = 11 ∧ o.ord = 1 ∧ o.lvl = scopeOf x ∧
        o.ws = [] ∧ o.reqs = [{ uid := 0, t := 64, stage := .home, act := .sys 2 c 0 0 }] ∧ o.fin = .none)) ∧
  (∀ (s : State) (o : Op), s.op? o.id = some o → o.cls = 8 → o.opn = 11 →
    (∃ (t : State), exec (.acqRemoteRequest o.id) s = .next { s with ops := t.ops } ∧
      ({ s with ops := t.ops } : State).op? o.id = some { o with reqs := o.reqs.map (fun (r : Req) => { r with stage := .fabric }) }) ∧
    (∀ k, (∀ r, r ∈ o.reqs → r.stage = .fabric) → s.strongBefore o o.ex = false → o.ws = [] → o.fin = .none → o.failed = false → o.flag = some k →
      (s.bundle o.bk).ser = o.ser → (s.bundle o.bk).live ≠ 0 →
      ∃ t, exec (.acqRemoteAnswer o.id) s = .next t ∧ (∀ p, p ∈ t.ops → p.id ≠ o.id) ∧ t.mem = s.mem ∧ t.pool = s.pool ∧
        (t.bundle o.bk).v = (s.bundle o.bk).v ∧ (t.bundle o.bk).s = (s.bundle o.bk).s ∧
        ∀ j, (t.bundle o.bk).flag j = if j = k then (s.bundle o.bk).flag k - 1 else (s.bundle o.bk).flag j)) ∧
  (∀ (x : Enc) (s : State) (bk : Nat), Passes s bk (rowOf (.scopeof x)) x →
    (∀ (l₁ l₂ : List (Nat × Nat)) (t a : Nat), (s.bundle bk).parties x = l₁ ++ (t, a) :: l₂ →
      (∀ p, p ∈ l₁ → s.scopeLevel bk p.1 p.2 ≠ none) → s.scopeLevel bk t a = none → exec (.scopeof x) s = .next (s.trapSync bk 0x04 a)) ∧
    ((∀ p, p ∈ (s.bundle bk).parties x → s.scopeLevel bk p.1 p.2 ≠ none) →
      (∀ p, p ∈ (s.bundle bk).parties x → s.walkBad (ctxOfBundle bk) (s.sliceOf bk) (microOf bk) p.2 = none) →
      ∃ c t, exec (.scopeof x) s = .next (after t bk c) ∧ Walked s t ∧ c = { s.bundle bk with thr := pastUnit (s.bundle bk) x, v := c.v, s := c.s } ∧
        (∀ n, c.sreg n = if x.u = true ∧ n = x.d.toNat then BitVec.ofNat 64 ((s.scopeLevel bk 64 ((s.bundle bk).address x 0).toNat).getD 0)
          else (s.bundle bk).sreg n) ∧
        (∀ u n, u < 64 → c.vreg u n = if x.u = false ∧ hasBit ((s.bundle bk).executing x) u = true ∧ n = x.d.toNat
          then BitVec.ofNat 32 ((s.scopeLevel bk u ((s.bundle bk).address x u).toNat).getD 0) else (s.bundle bk).vreg u n))) ∧
  (∀ (s : State) (bk t w : Nat), w < 2 ^ 64 →
    let ck := coreOfBundle bk
    let pkg := w / 2 ^ 50 % 64
    let chip := pkg * 8 + partOfCtx (ctxOfBundle bk) % 16 / 2 + w / 2 ^ 45 % 8
    let outer := if pkg ≠ pkgOfBundle bk then some 6 else if chip / 2 ≠ s.chipletOf ck / 2 then some 5
      else if chip ≠ s.chipletOf ck then some 4 else none
    (w / 2 ^ 56 = 0x84 → s.scopeLevel bk t w = some 7) ∧
    (w / 2 ^ 56 = 0x83 → s.scopeLevel bk t w = some (if pkg ≠ pkgOfBundle bk then 6 else 5)) ∧
    (w / 2 ^ 56 = 0x82 → s.scopeLevel bk t w = some (outer.getD 3)) ∧
    (w / 2 ^ 56 = 0x81 → s.scopeLevel bk t w = some (outer.getD
      (if w / 2 ^ 41 % 16 ≠ s.denseDl ck then 3 else if w / 2 ^ 30 % 1024 ≠ denseOfCore ck then 2 else 1))) ∧
    (w / 2 ^ 56 = 0x80 → s.scopeLevel bk t w = some (outer.getD
      (if w / 2 ^ 41 % 16 ≠ s.denseDl ck then 3 else if w / 2 ^ 30 % 1024 ≠ denseOfCore ck then 2
        else if w / 2 ^ 27 % 8 ≠ laneOfBundle bk / 8 then 1 else 0))))

/-- For a unit that a compute core's bundle passes. mfs writes the value of the named special register, sr.pos with
each thread's own fields, and clk the package clock or the context's active cycles, to the pair of each executing
thread, zeros where zeroing reaches, or to S[d] in the U form. mts of sr.status replaces its writable bits by those of
S[a], reserved bits stay 0 and a rounding field of 0 or 7 becomes 1. In each case every other register, mask and flag
is unchanged and the path stands at the next unit. snap that may hand off: one operation is in progress; where it is
performed, a kernel's trigger that is disabled yields 0 and changes no snapshot, a held snapshot is joined and
unchanged, and otherwise the clock is latched with source 1; S[d] is owed the latched count (R36, R226 to R230, R445).
-/
def Obligations.SpecialRegisterInstructionsComplete : Prop :=
  (∀ (x : Enc) (s : State) (bk : Nat), Passes s bk (rowOf (.mfs x)) x → isFw bk = false →
    ∃ c, exec (.mfs x) s = .next (after s bk c) ∧
      PairWritten (s.bundle bk) c x (fun t => specialValue s bk t (if x.form = .extended then x.w2.toNat / 2 ^ 16 else x.a.toNat))) ∧
  (∀ (x : Enc) (s : State) (bk : Nat), Passes s bk (rowOf (.clk x)) x → isFw bk = false →
    ∃ c, exec (.clk x) s = .next (after s bk c) ∧
      PairWritten (s.bundle bk) c x (fun _ => BitVec.ofNat 64 (if x.b = 0 then s.cycle else (s.ctx (ctxOfBundle bk)).active))) ∧
  (∀ (x : Enc) (s : State) (bk : Nat), Passes s bk (rowOf (.mts x)) x →
    let v := (s.bundle bk).sreg x.a.toNat
    exec (.mts x) s = .next (after s bk { s.bundle bk with thr := pastUnit (s.bundle bk) x, status := (v &&& 0x9FC0) ||| (if v.toNat % 8 = 0 ∨ v.toNat % 8 = 7 then 1 else BitVec.ofNat 64 (v.toNat % 8)) })) ∧
  (∀ (x : Enc) (s : State) (bk : Nat), MayHandOff s bk (rowOf (.snap x)) x →
    ∃ o, exec (.snap x) s = .next (withOp s bk x o) ∧ StartedBy s bk x o ∧ o.cls = 12 ∧ o.opn = 5 ∧ o.ws = [] ∧ o.fin = .none ∧
      o.reqs = [{ uid := 0, t := 64, stage := .home, act := .sys 6 0 0 x.d.toNat }]) ∧
  (∀ (s : State) (o : Op) (r : Req) (d : Nat), InProgress s o r → r.act = .sys 6 0 0 d → r.stage = .home → s.runs o.bk = true →
    let old := (s.pkg (pkgOfBundle o.bk)).snap
    ∃ t, exec (.homePerform o.id r.uid) s = .next t ∧ Served t o.id r.uid ∧ t.mem = s.mem ∧ t.pool = s.pool ∧
      (old.getLsbD 2 = true ∧ isFw o.bk = false →
        (t.pkg (pkgOfBundle o.bk)).snap = old ∧ Owes t o { t := 64, ws := [.s d 0] }) ∧
      (¬ (old.getLsbD 2 = true ∧ isFw o.bk = false) → Owes t o { t := 64, ws := [.s d ((t.pkg (pkgOfBundle o.bk)).snap >>> 16)] } ∧
        (old.getLsbD 1 = true → (t.pkg (pkgOfBundle o.bk)).snap = old) ∧
        (old.getLsbD 1 = false → (t.pkg (pkgOfBundle o.bk)).snap =
          BitVec.ofNat 64 (s.cycle % 2 ^ 48 * 2 ^ 16 + 1 * 2 ^ 8 + (if old.getLsbD 2 then 4 else 0) + 2))))

/-- For a unit that passes. tid.wr tK: where the 128 bits of S[a+1] and S[a] are no valid entry, exec takes trap 0x09
of the unit and the table is unchanged; otherwise exec answers a next state in which entry K of the core is those
bits, and nothing else has changed but the place of the path. tid.rd tK: exec answers a next state in which S[d] and
S[d+1] hold bits 63 to 0 and 127 to 64 of entry K, valid or not, and nothing else has changed but the place of the
path. An entry just written, and 0 where an entry was never written, reads back exactly. -/
def Obligations.TensorIdentifierInstructions : Prop :=
  (∀ (x : Enc) (s : State) (bk : Nat), Passes s bk (rowOf (.tidWr x)) x →
    let k := x.w2.toNat % 256
    let e : BitVec 128 := BitVec.ofNat 128 (((s.bundle bk).sreg (x.a.toNat + 1)).toNat * 2 ^ 64 + ((s.bundle bk).sreg x.a.toNat).toNat)
    ((tidOf e).valid = false → exec (.tidWr x) s = .next (s.trapSync bk 0x09 k)) ∧
    ((tidOf e).valid = true →
      ∃ c : Core, exec (.tidWr x) s = .next { after s bk { s.bundle bk with thr := pastUnit (s.bundle bk) x } with
          cores := FMap.put s.cores (coreOfBundle bk) c } ∧
        c = { s.core (coreOfBundle bk) with tid := c.tid } ∧
        ∀ j, FMap.look c.tid 0 j = if j = k then e else FMap.look (s.core (coreOfBundle bk)).tid 0 j)) ∧
  (∀ (x : Enc) (s : State) (bk : Nat), Passes s bk (rowOf (.tidRd x)) x →
    let e := FMap.look (s.core (coreOfBundle bk)).tid 0 (x.w2.toNat % 256)
    ∃ c, exec (.tidRd x) s = .next (after s bk c) ∧ c = { s.bundle bk with thr := pastUnit (s.bundle bk) x, s := c.s } ∧
      ∀ n, c.sreg n = if n = x.d.toNat + 1 then BitVec.ofNat 64 (e.toNat / 2 ^ 64) else if n = x.d.toNat then BitVec.ofNat 64 e.toNat
        else (s.bundle bk).sreg n)

/-- For mx.loop, mx.loops, mx.zero, mx.win, mx.read, mx.store, mx.load, mx.stat and mx.move that may hand off: a tile
that does not exist takes trap 0x09 with its number, and then the first check of R274, R276, R277 or R279 that fails
takes its trap; nothing else changes. A full FIFO stalls the bundle where it is. Otherwise exec answers a next state
with one entry more at the end of the core's FIFO, which holds the identifiers, addresses, registers and mode as they
stand now. One that names a barrier with fewer than 255 enrolments enrols the bundle in its current phase and no flag
counts it; mx.read and mx.stat are in progress on their flag. No register has changed, and no byte and no tile but for
the marks and unspecified tiles of races, of which a quiet core has none (R207, R264, R267, R270, R273 to R280). Which
of two identifiers s63 names for n = 0 is the model's choice (notes/assumptions/107.md). -/
def Obligations.MatrixInstructionsHandOff : Prop :=
  ∀ (i : Instr) (x : Enc) (e : MxEntry) (s : State) (bk : Nat), mxCaptured i s bk = some (x, e) → MayHandOff s bk (rowOf i) x →
    let ck := coreOfBundle bk
    let key := s.keyFor ck 1 (x.w2.toNat / 2 ^ 3 % 128)
    ((s.core ck).tiles ≤ e.tile → exec i s = .next (s.trapSync bk 0x09 e.tile)) ∧
    (e.tile < (s.core ck).tiles →
      (∀ n d, mxFault i x s bk e = some (n, d) → exec i s = .next (s.trapSync bk n d)) ∧
      (mxFault i x s bk e = none → 16 ≤ (s.core ck).mq.length → exec i s = .next (after s bk { s.bundle bk with stalled := true })) ∧
      (mxFault i x s bk e = none → (s.core ck).mq.length < 16 → mxNamesBarrier i = false →
        ∃ (u : State) (o : Op) (c : Core), RaceMarks s u ck ∧ u.cores = FMap.put s.cores ck c ∧ exec i s = .next (withOp u bk x o) ∧ QueuedMx s ck c e ∧
          StartedBy s bk x o ∧ o.cls = 9 ∧ o.opn = e.op ∧ o.ws = [] ∧ o.fin = .none ∧
          o.reqs = [{ uid := 0, t := 64, stage := .fabric, act := .sys 5 0 0 0 }]) ∧
      (mxFault i x s bk e = none → (s.core ck).mq.length < 16 → mxNamesBarrier i = true → (s.bar key).eng (s.bar key).p < 255 →
        ∃ (u t : State) (c : Core), RaceMarks s u ck ∧ u.cores = FMap.put s.cores ck c ∧
          exec i s = .next { after u bk { s.bundle bk with thr := pastUnit (s.bundle bk) x } with
            nextId := s.nextId + 1, bars := t.bars } ∧
          QueuedMx s ck c { e with bar := some (key, (s.bar key).p) } ∧ Enrolled (s.bar key) (t.bar key) (s.bundle bk).ser ∧
          ∀ k, k ≠ key → t.bar k = s.bar k))

/-- Let the context run, with no slice end under way, and no tile element that is read be in uncorrectable error.
TILE_PORT_DISPATCH of an entry that no race marks, at the head of the FIFO: mx.zero leaves zeros and the new window;
mx.win divides or multiplies every element, truncating or saturating, and keeps the flags it does not set; mx.store
writes the tile's image to the scratchpad; mx.load reads it back, or is held while a line is absent; mx.move copies a
tile; mx.read owes each active thread its row's codes and mx.stat the status word. LOOP_STEP takes the next loop to
the free cell array, which asks for a grant, its core's only request, where the array has been idle for 256 cycles; a
granted one adds, in a step whose lines are present, exactly the truncated products of its columns to every cell of
A's and B's rows, marking NaN and inexactness, as long as the sums stay in range; the last step frees the array and
owes the arrival. SURGE_GRANT grants the next request if fewer than four were granted in the window. No other tile
byte and no memory byte changes (R258 to R279, R404). -/
def Obligations.MatrixEngineWorks : Prop :=
  (∀ (s : State) (ck : Nat) (e : MxEntry) (rest : List MxEntry), s.enginesGo ck = true → (s.core ck).port = none → (s.core ck).mq = e :: rest →
    e.raced = [] → AreasSound s ck e.readAreas →
    let w := (s.core ck).status e.tile
    let new := readAs true 16 e.ra.toNat
    let range := frameKey ck ((s.core ck).spBase + e.ra.toNat)
    (e.op = 2 → ∃ t, exec (.tilePortDispatch ck) s = .next t ∧ (t.core ck).mq = rest ∧ OwesArrival t e.opId e.bar ∧
      Stored s.pool t.pool 0 (tileKey s ck e.tile) 49152 0 ∧ t.mem = s.mem ∧ StatusIs ((t.core ck).status e.tile) new false false false) ∧
    (e.op = 3 → ∃ t, exec (.tilePortDispatch ck) s = .next t ∧ (t.core ck).mq = rest ∧ OwesArrival t e.opId e.bar ∧ OnlyTile s t ck e.tile ∧
      (let d := new - statusL w
       let exact := fun i j => s.elem ck e.tile i j * 2 ^ (-d).toNat
       (∀ i j, i < 64 → j < 64 → t.elem ck e.tile i j = if 0 < d then Int.tdiv (s.elem ck e.tile i j) (2 ^ d.toNat)
         else max (-2 ^ 95) (min (2 ^ 95 - 1) (exact i j))) ∧
       statusL ((t.core ck).status e.tile) = new ∧ ((t.core ck).status e.tile).getLsbD 18 = w.getLsbD 18 ∧
       (((t.core ck).status e.tile).getLsbD 16 = true ↔ w.getLsbD 16 = true ∨
         ∃ i j, i < 64 ∧ j < 64 ∧ d < 0 ∧ (exact i j < -2 ^ 95 ∨ 2 ^ 95 ≤ exact i j)) ∧
       (((t.core ck).status e.tile).getLsbD 17 = true ↔ w.getLsbD 17 = true ∨
         ∃ i j, i < 64 ∧ j < 64 ∧ 0 < d ∧ ¬ (2 : Int) ^ d.toNat ∣ s.elem ck e.tile i j))) ∧
    (∀ o, e.op = 4 → s.op? e.opId = some o → (∃ r, o.reqs = [r] ∧ r.uid = 0 ∧ r.slot = 0) →
      let f := (tidOf e.ta).f
      let row := e.ra.toNat / 2 ^ 8 % 64
      let codes := fun t => (List.range (e.ra.toNat / 2 ^ 24 % 128)).map (fun k =>
        f.write e.rnd (elementValue w e.keep (s.elem ck e.tile (row + t) (e.ra.toNat / 2 ^ 16 % 64 + k))) 1)
      let rows : List WB := ((bitsOf e.ex).filter (fun t => row + t < 64)).map (fun t =>
        { t := t, ws := packedRow (e.ra.toNat % 256) f.container (codes t) })
      rows ≠ [] → ∃ t o', exec (.tilePortDispatch ck) s = .next t ∧ (t.core ck).mq = rest ∧ t.op? o.id = some o' ∧ o'.reqs = [] ∧
        o'.ws = o.ws ++ rows ∧ t.pool = s.pool ∧ t.mem = s.mem) ∧
    (e.op = 5 → ∃ t, exec (.tilePortDispatch ck) s = .next t ∧ (t.core ck).mq = rest ∧ OwesArrival t e.opId e.bar ∧ t.mem = s.mem ∧
      Stored s.pool t.pool 0 range 49168 (natOfBytes (s.tileBytes ck e.tile) + 2 ^ (8 * 49152) * w.toNat)) ∧
    (e.op = 6 → e.old = [] → (∀ n, n ∈ linesOf e.ra.toNat 49168 → FMap.look (s.core ck).tagV true n = true) →
      s.frameBad ck ((s.core ck).spBase + e.ra.toNat) 49168 = none →
      ∃ t, exec (.tilePortDispatch ck) s = .next t ∧ (t.core ck).mq = rest ∧ OwesArrival t e.opId e.bar ∧ t.mem = s.mem ∧
        Stored s.pool t.pool 0 (tileKey s ck e.tile) 49152 (natOfBytes (s.spRead ck e.ra.toNat 49152)) ∧
        (t.core ck).status e.tile = BitVec.ofNat 64 (natOfBytes (s.spRead ck (e.ra.toNat + 49152) 8) % 2 ^ 19) ∧
        (t.core ck).tagV = (s.core ck).tagV ∧
        ∀ n, FMap.look (t.core ck).tagC true n = (FMap.look (s.core ck).tagC true n || (e.consume && decide (n ∈ linesOf e.ra.toNat 49168)))) ∧
    (e.op = 6 → (∃ n, n ∈ linesOf e.ra.toNat 49168 ∧ FMap.look (s.core ck).tagV true n = false) →
      exec (.tilePortDispatch ck) s = .next (s.setCore ck { s.core ck with mq := rest, port := some e })) ∧
    (∀ o, e.op = 7 → s.op? e.opId = some o → (∃ r, o.reqs = [r] ∧ r.uid = 0 ∧ r.slot = 0) →
      ∃ t o', exec (.tilePortDispatch ck) s = .next t ∧ (t.core ck).mq = rest ∧ t.op? o.id = some o' ∧ o'.reqs = [] ∧
        o'.ws = o.ws ++ [{ t := 64, ws := [.s e.d w] }] ∧ t.pool = s.pool ∧ t.mem = s.mem) ∧
    (e.op = 8 → ∃ t, exec (.tilePortDispatch ck) s = .next t ∧ (t.core ck).mq = rest ∧ OwesArrival t e.opId e.bar ∧ t.mem = s.mem ∧
      Stored s.pool t.pool 0 (tileKey s ck e.tile) 49152 (natOfBytes (s.tileBytes ck e.src)) ∧
      (t.core ck).status e.tile = (s.core ck).status e.src)) ∧
  (∀ (s : State) (ck : Nat) (e : MxEntry) (rest : List MxEntry), s.enginesGo ck = true → (s.core ck).loop = none → (s.core ck).port = none →
    (s.core ck).mq = e :: rest → e.op ≤ 1 →
    ∃ (t : State) (l : MxEntry), exec (.loopStep ck) s = .next t ∧ t.core ck = { s.core ck with mq := rest, loop := some l } ∧
      l = { e with grant := l.grant, ovf0 := l.ovf0 } ∧
      (l.grant = true ↔ s.cycle < FMap.look (s.part (partOfCtx (ctxOfCore ck))).idle 0 (denseOfCore ck) + 256) ∧
      (l.grant = false → FMap.look (t.pkg (pkgOfCtx (ctxOfCore ck))).surge [] (s.chipletOf ck % 8) =
        (FMap.look (s.pkg (pkgOfCtx (ctxOfCore ck))).surge [] (s.chipletOf ck % 8)).filter (fun r =>
          decide (partOfCtx (ctxOfCore r.1) ≠ partOfCtx (ctxOfCore ck) ∨ denseOfCore r.1 ≠ denseOfCore ck)) ++ [(ck, s.cycle)]) ∧
      t.pool = s.pool ∧ t.mem = s.mem) ∧
  (∀ (s : State) (ck : Nat) (e : MxEntry), s.enginesGo ck = true → (s.core ck).loop = some e → e.grant = true → s.admits (ctxOfCore ck) 0 = true →
    (∀ p n, p ∈ e.reads e.step → n ∈ linesOf p.1 p.2 → FMap.look (s.core ck).tagV true n = true) → s.stepBad ck e = none → AreasSound s ck e.readAreas → e.raced = [] →
    (tidOf e.ta).rows ≤ 64 → (tidOf e.tb).rows ≤ 64 →
    let w := (s.core ck).status e.tile
    let rowA := s.loopRow ck e 0 e.step
    let rowB := s.loopRow ck e 1 e.step
    let prods := fun i j => loopProducts (e.op == 1) (statusL w) (rowA i) (rowB j)
    w.getLsbD 16 = false →
    (∀ i j, i < (tidOf e.ta).rows → j < (tidOf e.tb).rows →
      (s.elem ck e.tile i j).natAbs + ((prods i j).map (fun q => (truncated q).natAbs)).sum < 2 ^ 95) →
    ∃ t, exec (.loopStep ck) s = .next t ∧ OnlyTile s t ck e.tile ∧
      (∀ i j, i < 64 → j < 64 → t.elem ck e.tile i j = s.elem ck e.tile i j +
        (if i < (tidOf e.ta).rows ∧ j < (tidOf e.tb).rows then ((prods i j).map truncated).sum else 0)) ∧
      statusL ((t.core ck).status e.tile) = statusL w ∧ ((t.core ck).status e.tile).getLsbD 16 = false ∧
      (((t.core ck).status e.tile).getLsbD 17 = true ↔ w.getLsbD 17 = true ∨
        ∃ i j q, i < (tidOf e.ta).rows ∧ j < (tidOf e.tb).rows ∧ q ∈ prods i j ∧ (truncated q : Rat) ≠ q) ∧
      (((t.core ck).status e.tile).getLsbD 18 = true ↔ w.getLsbD 18 = true ∨
        (∃ i p, i < (tidOf e.ta).rows ∧ p ∈ rowA i ∧ p.2 = .nan) ∨ ∃ j p, j < (tidOf e.tb).rows ∧ p ∈ rowB j ∧ p.2 = .nan) ∧
      (e.step + 1 = e.rb.toNat / 2 ^ 48 → (t.core ck).loop = none ∧ OwesArrival t e.opId e.bar) ∧
      (e.step + 1 ≠ e.rb.toNat / 2 ^ 48 → (t.core ck).loop = some { e with step := e.step + 1 })) ∧
  (∀ (s : State) (pkg k : Nat) (r : Nat × Nat) (e : MxEntry), k < 8 →
    nextSurge (FMap.look (s.pkg pkg).surge [] k) (FMap.look (s.pkg pkg).lastGrant 255 k) = some r →
    (FMap.look (s.pkg pkg).grants 0 k / 8 ≠ s.cycle / 128 ∨ FMap.look (s.pkg pkg).grants 0 k % 8 < 4) → (s.core r.1).loop = some e →
    ∃ t, exec (.surgeGrant (8 * pkg + k)) s = .next t ∧ (t.core r.1).loop = some { e with grant := true } ∧
      FMap.look (t.pkg pkg).surge [] k = (FMap.look (s.pkg pkg).surge [] k).erase r ∧ FMap.look (t.pkg pkg).grants 0 k / 8 = s.cycle / 128 ∧
      FMap.look (t.pkg pkg).grants 0 k % 8 = (if FMap.look (s.pkg pkg).grants 0 k / 8 = s.cycle / 128 then FMap.look (s.pkg pkg).grants 0 k % 8 else 0) + 1 ∧
      t.pool = s.pool ∧ t.mem = s.mem)

/-- For a class-10 instruction that may hand off: the first check that fails takes its trap; a full queue stalls it; a
step without an executing thread only passes. Otherwise exec answers a next state with one entry more in the queue,
enrolled on its barrier or in progress on its flag; sig.cfg has written DIM, N, BASE and the windows of its
descriptor. What s63 names for trap 0x09 is the model's reading (notes/assumptions/58.md). Where the context runs, no
slice ends, no read before it is unfinished, no tile element that it reads is in uncorrectable error and the lines
that it reads are present, SIG_DISPATCH of an unmarked entry: sig.cfg sets L0; sig.one makes all the tiles zero at
their windows and L0 1; a step, join or log, whose contributions are finite and whose sums stay in range in tiles
without overflow, leaves in every element the old value (or 0) plus the truncated contributions of R285, R286 or R287,
and the level-0 value that they give; sig.read and sig.stat owe the registers. No byte outside the tiles changes
(R207, R281 to R287, R290 to R297). -/
def Obligations.SignatureInstructionsComplete : Prop :=
  (∀ (i : Instr) (x : Enc) (e : SigEntry) (s : State) (bk : Nat), sigCaptured i s bk = some (x, e) → MayHandOff s bk (rowOf i) x →
    let ck := coreOfBundle bk
    let key := s.keyFor ck 1 (x.w2.toNat / 2 ^ 3 % 128)
    (∀ n d, sigFault i x s bk e = some (n, d) → exec i s = .next (s.trapSync bk n d)) ∧
    (sigFault i x s bk e = none →
      let runs := isStep i = false ∨ (s.bundle bk).executing x ≠ 0
      (¬ runs → exec i s = .next (after s bk { s.bundle bk with thr := pastUnit (s.bundle bk) x })) ∧
      (runs → 8 ≤ (s.core ck).sq.length → exec i s = .next (after s bk { s.bundle bk with stalled := true })) ∧
      (runs → (s.core ck).sq.length < 8 → sigNamesBarrier e.op = false →
        ∃ (u : State) (o : Op) (c : Core), RaceMarks s u ck ∧ u.cores = FMap.put s.cores ck c ∧ exec i s = .next (withOp u bk x o) ∧ QueuedSig s ck c e ∧
          StartedBy s bk x o ∧ o.cls = 10 ∧ o.opn = e.op ∧ o.ws = [] ∧ o.fin = .none ∧
          o.reqs = [{ uid := 0, t := 64, stage := .fabric, act := .sys 5 0 0 0 }]) ∧
      (runs → (s.core ck).sq.length < 8 → sigNamesBarrier e.op = true → (s.bar key).eng (s.bar key).p < 255 →
        ∃ (u t : State) (c : Core), RaceMarks s u ck ∧ u.cores = FMap.put s.cores ck c ∧
          exec i s = .next { after u bk { s.bundle bk with thr := pastUnit (s.bundle bk) x } with
            nextId := s.nextId + 1, bars := t.bars } ∧
          QueuedSig s ck c { e with bar := some (key, (s.bar key).p) } ∧ Enrolled (s.bar key) (t.bar key) (s.bundle bk).ser ∧
          ∀ k, k ≠ key → t.bar k = s.bar k))) ∧
  (∀ (x : Enc) (s : State) (bk : Nat), MayHandOff s bk (rowOf (.sigCfg x)) x →
    let ck := coreOfBundle bk
    let w := ((s.bundle bk).sreg x.a.toNat).toNat
    let k := x.w2.toNat / 2 ^ 22 % 4
    let n := w / 2 ^ 20 % 16
    let base := x.w2.toNat / 2 ^ 10 % 64
    let d : SigDesc := { dim := w / 2 ^ 13 % 128, n := n, base := base, l0 := (FMap.look (s.core ck).desc {} k).l0,
                         win1 := BitVec.ofNat 64 (((s.bundle bk).sreg (x.a.toNat + 1)).toNat % 2 ^ (16 * min n 4)),
                         win2 := BitVec.ofNat 64 (((s.bundle bk).sreg (x.a.toNat + 2)).toNat % 2 ^ (16 * (n - 4))) }
    let bad := d.dim < 2 ∨ 64 < d.dim ∨ n < 1 ∨ 8 < n ∨ (s.core ck).tiles < base + d.tiles
    (bad → exec (.sigCfg x) s = .next (s.trapSync bk 0x09 base)) ∧
    (¬ bad → 8 ≤ (s.core ck).sq.length → exec (.sigCfg x) s = .next (after s bk { s.bundle bk with stalled := true })) ∧
    (¬ bad → (s.core ck).sq.length < 8 →
      ∃ (t : State) (c : Core) (e : SigEntry), exec (.sigCfg x) s = .next t ∧ (∀ j, FMap.look c.desc {} j = if j = k then d else FMap.look (s.core ck).desc {} j) ∧
        QueuedSig (s.setCore ck { s.core ck with desc := c.desc }) ck c e ∧ e.op = 0 ∧ e.k = k ∧ e.bar = none ∧ t.core ck = c ∧
        t.bundles = FMap.put s.bundles bk { s.bundle bk with thr := pastUnit (s.bundle bk) x } ∧ t.ops = s.ops ∧ t.issuing = none ∧ t.pool = s.pool ∧
        t.mem = s.mem ∧ t.bars = s.bars)) ∧
  (∀ (s : State) (ck : Nat) (e : SigEntry) (rest : List SigEntry), s.enginesGo ck = true → (s.core ck).sgo = none → AreasSound s ck e.readAreas → (s.core ck).sq = e :: rest → e.raced = [] →
    (∀ p n, p ∈ e.reads → n ∈ linesOf p.1 p.2 → FMap.look (s.core ck).tagV true n = true) → s.sigBad ck e = none →
    let l0 := fun k => (FMap.look (s.core ck).desc {} k).l0
    (e.op = 0 → ∃ t, exec (.sigDispatch ck) s = .next t ∧ (t.core ck).sq = rest ∧ (FMap.look (t.core ck).desc {} e.k).l0 = true ∧
      t.pool = s.pool ∧ t.mem = s.mem) ∧
    (e.op = 1 → ∃ t, exec (.sigDispatch ck) s = .next t ∧ (t.core ck).sq = rest ∧ (FMap.look (t.core ck).desc {} e.k).l0 = true ∧
      OwesArrival t e.opId e.bar ∧ OnlyTiles s t ck e.dx ∧
      ∀ k g, 1 ≤ k → k ≤ e.dx.n → g < e.dx.group k → StatusIs ((t.core ck).status (e.dx.start k + g)) (e.dx.win k) false false false ∧
        ∀ i j, i < 64 → j < 64 → t.elem ck (e.dx.start k + g) i j = 0) ∧
    (2 ≤ e.op → e.op ≤ 5 →
      let terms := signatureTerms s ck e (l0 e.k)
      let start := fun k n => signatureStart e (l0 e.y) (s.sigElem ck e.dx k n)
      let part := fun k (v : FVal) => truncated (v.rat * (2 : Rat) ^ (-(e.dx.win k)))
      2 ≤ e.dx.dim → (e.op = 2 → (s.increments ck e).length = e.dx.dim) → (e.op = 3 ∨ e.op = 4 → e.dy.dim = e.dx.dim) →
      (∀ n, n < e.dx.tiles → ((s.core ck).status (e.dx.base + n)).getLsbD 16 = false) →
      (∀ k n, 1 ≤ k → k ≤ e.dx.n → n < e.dx.dim ^ k → (∀ v, v ∈ terms k n → v.isFin = true) ∧
        (start k n).natAbs + ((terms k n).map (fun v => (part k v).natAbs)).sum < 2 ^ 95) →
      ∃ t, exec (.sigDispatch ck) s = .next t ∧ (t.core ck).sq = rest ∧ OwesArrival t e.opId e.bar ∧ OnlyTiles s t ck e.dx ∧
        (∀ k n, 1 ≤ k → k ≤ e.dx.n → n < e.dx.dim ^ k → t.sigElem ck e.dx k n = start k n + ((terms k n).map (part k)).sum) ∧
        (FMap.look (t.core ck).desc {} e.k).l0 = (if e.op = 2 then l0 e.k else if e.op = 5 then false else l0 e.k && l0 e.y)) ∧
    (∀ o, e.op = 6 → s.op? e.opId = some o → (∃ r, o.reqs = [r] ∧ r.uid = 0 ∧ r.slot = 0) →
      let f := (tidOf e.tid).f
      let w := e.ra.toNat
      let nc := w / 2 ^ 24 % 128
      let lev := w / 2 ^ 60
      let code := fun x => if e.dx.dim ^ lev ≤ x then (0, 0)
        else if lev = 0 then f.write e.rnd (intVal (if l0 e.k then 1 else 0)) 1
        else f.write e.rnd (if ((s.core ck).status (e.dx.tileOf lev x)).getLsbD 18 then .nan else signatureValue s ck e.dx lev x) 1
      let rows : List WB := ((bitsOf e.ex).filter (fun t => w / 2 ^ 32 % 2 ^ 24 + t * nc < e.dx.dim ^ lev)).map (fun t =>
        { t := t, ws := packedRow (w % 256) f.container ((List.range nc).map (fun j => code (w / 2 ^ 32 % 2 ^ 24 + t * nc + j))) })
      rows ≠ [] → ∃ t o', exec (.sigDispatch ck) s = .next t ∧ (t.core ck).sq = rest ∧ t.op? o.id = some o' ∧ o'.reqs = [] ∧
        o'.ws = o.ws ++ rows ∧ t.pool = s.pool ∧ t.mem = s.mem) ∧
    (∀ o, e.op = 7 → s.op? e.opId = some o → (∃ r, o.reqs = [r] ∧ r.uid = 0 ∧ r.slot = 0) →
      ∃ t o', exec (.sigDispatch ck) s = .next t ∧ (t.core ck).sq = rest ∧ t.op? o.id = some o' ∧ o'.reqs = [] ∧
        o'.ws = o.ws ++ [{ t := 64, ws := [.s e.d (signatureStatus s ck e.dx (l0 e.k))] }] ∧ t.pool = s.pool ∧ t.mem = s.mem))

/-- For xf.put, xf.get and xf.cpy that may hand off, that the budgets admit and for which a replay entry is free: the
first check of R331 that fails takes its trap; a copy of length 0 passes and leaves no operation; otherwise exec
answers a next state with one operation whose requests are consecutive non-empty parts of the range that cross no 4
KiB boundary of the destination and, but for a put, no page of the source, those of one 4 KiB of the destination being
one packet, and xf.cpy has made its destination lines absent. A delivered write packet of a put writes exactly its
bytes and is acknowledged; a read request is answered by the bytes of memory; a reply that is a packet's only part
writes exactly its bytes of the scratchpad and adds their number to the counter, if one is named and no arming is
reached by it. xf.drain hands off an operation that ends once no earlier copy of the bundle is in progress and no
earlier strong read of its threads, which an acquire stands behind (R45; notes/assumptions/98.md), is (R326, R330 to
R336, R338). -/
def Obligations.BulkCopiesComplete : Prop :=
  (∀ (i : Instr) (x : Enc) (kind : Nat) (s : State) (bk : Nat), copyKind i = some (x, kind) → MayHandOff s bk (rowOf i) x → MemoryAdmitted s bk → ReplayRoom s bk →
    let b := s.bundle bk
    let ck := coreOfBundle bk
    let dst := (b.sreg x.d.toNat).toNat
    let src := (b.sreg x.a.toNat).toNat
    let len := if x.i then x.w2.toNat / 2 ^ 8 % 2 ^ 24 * 16 else (b.sreg x.b.toNat).toNat
    let ctr := if x.c = 0 ∨ (b.sreg x.c.toNat).toNat = 2 ^ 64 - 1 then none else some (b.sreg x.c.toNat).toNat
    let glob := if kind = 0 then dst else src
    let sp := if kind = 0 then src else dst
    (∀ n d, copyTrap s ck kind dst src len ctr = some (n, d) → exec i s = .next (s.trapSync bk n d)) ∧
    (copyTrap s ck kind dst src len ctr = none → len = 0 → s.numbered → b.live ≠ 0 →
      ∃ t, exec i s = .next t ∧ t.ops = s.ops ∧ t.mem = s.mem ∧ t.pool = s.pool ∧ t.cores = s.cores ∧ t.issuing = none ∧
        (t.bundle bk).v = b.v ∧ (t.bundle bk).s = b.s ∧ ∀ k, (t.bundle bk).flag k = b.flag k) ∧
    (copyTrap s ck kind dst src len ctr = none → len ≠ 0 →
      ∃ (o : Op) (ps : List (Nat × Nat × Nat)) (c : Core), exec i s = .next (if kind = 2 then { withOp s bk x o with cores := FMap.put s.cores ck c } else withOp s bk x o) ∧
        StartedBy s bk x o ∧ o.cls = 11 ∧ o.opn = kind ∧ o.ord = 2 ∧ o.lvl = scopeOf x ∧ o.early = true ∧ o.ws = [] ∧ CopyParts kind dst src len ps ∧
        o.reqs = ps.zipIdx.map (fun q => { uid := q.2, t := 64, stage := .walk, addr := glob + q.1.1, n := q.1.2.1, seq := q.1.2.2,
                                           act := .bulk kind (sp + q.1.1) ctr }) ∧
        o.fin = (if kind = 2 then .setV ck (dst / 256) ((dst + len - 1) / 256) else .none) ∧ c = { s.core ck with tagV := c.tagV } ∧
        ∀ n, FMap.look c.tagV true n = (FMap.look (s.core ck).tagV true n && !decide (n ∈ linesOf dst len)))) ∧
  (∀ (s : State) (p : Packet) (o : Op) (r : Req) (kind sp : Nat) (ctr : Option Nat), Delivered s p o r → r.act = .bulk kind sp ctr →
    let ck := coreOfBundle o.bk
    (p.op = 0 → p.ctr = none → s.target o.orig r.pa r.n = .mem →
      ∃ t, exec (.writePacket p.id) s = .next t ∧ Answered s t p 5 [] ∧
        Stored s.mem t.mem Memory.unlisted p.dst p.data.length (natOfBytes p.data) ∧ t.pool = s.pool ∧ t.ops = s.ops) ∧
    (p.op = 1 → s.target o.orig r.pa r.n = .mem → s.memBad r.pa r.n = none →
      ∃ t, exec (.readRequest p.id) s = .next t ∧ Answered s t p 2 (s.memRead r.pa r.n) ∧ t.mem = s.mem ∧ t.pool = s.pool ∧ t.ops = s.ops) ∧
    let only := o.reqs.filter r.samePacket = [r] ∧
      s.pkts.find? (fun q => q.op == 2 && q.opId == o.id && q.uid == r.uid && s.onLink q) = some p
    (p.op = 2 → only → ctr = none → ∃ t, exec (.readReply p.id) s = .next t ∧ Served t o.id r.uid ∧
      Stored s.pool t.pool 0 (spKey s ck sp) p.data.length (natOfBytes p.data) ∧ t.mem = s.mem) ∧
    (∀ a, p.op = 2 → only → ctr = some a → s.spBad ck a 8 = none → a + 8 ≤ sp ∨ sp + p.data.length ≤ a → (s.ctx (ctxOfCore ck)).running = true →
      Unreached s (ctrKey ck a) (s.ctrValue ck a + BitVec.ofNat 64 p.data.length) →
      ∃ t, exec (.readReply p.id) s = .next t ∧ Served t o.id r.uid ∧ t.mem = s.mem ∧
        t.ctrValue ck a = s.ctrValue ck a + BitVec.ofNat 64 p.data.length ∧
        (∀ k, k < p.data.length → FMap.look t.pool 0 (spKey s ck sp + k) = p.data.getD k 0) ∧
        ∀ k, (k < spKey s ck sp ∨ spKey s ck sp + p.data.length ≤ k) → (k < spKey s ck a ∨ spKey s ck a + 8 ≤ k) →
          FMap.look t.pool 0 k = FMap.look s.pool 0 k)) ∧
  (∀ (x : Enc) (s : State) (bk : Nat), MayHandOff s bk (rowOf (.xfDrain x)) x → MemoryAdmitted s bk →
    ∃ o, exec (.xfDrain x) s = .next (withOp s bk x o) ∧ StartedBy s bk x o ∧ o.cls = 11 ∧ o.opn = 3 ∧ o.ord = 1 ∧ o.ws = [] ∧ o.fin = .none ∧
      o.reqs = [{ uid := 0, t := 64, stage := .wait, act := .drain 1 }]) ∧
  (∀ (s : State) (o : Op) (r : Req), InProgress s o r → r.act = .drain 1 → r.stage = .wait → s.runs o.bk = true → o.fin = .none →
    (∀ p, p ∈ s.ops → p.ser = o.ser → p.cls = 11 → p.opn ≤ 2 → o.id ≤ p.id) → s.strongBefore o (o.affected r) = false →
    ∃ t, exec (.homePerform o.id r.uid) s = .next t ∧ Served t o.id r.uid ∧ t.mem = s.mem ∧ t.pool = s.pool)

/-- For ctr.set, ctr.add, ctr.arm and xq.take that may hand off and that the budgets admit: a misaligned offset takes
trap 0x03, one beyond the scratchpad 0x05; otherwise exec answers a next state with one operation that carries the
values as they stand now, ctr.arm while its chiplet's table has room, and enrolled on its barrier if it names one (a
bad handle takes trap 0x0A). xq.push with fit sources and addresses hands off one push per thread. A set stores its
value, an add adds modulo 2^64, an arming is installed, each where it reaches no arming, no word it reads is in error
and the transfer engine takes it in the order of its cores. ctr.wait, with its armings installed, no fence before it
and no error held, passes and consumes the bundle's armings on the counter when all are reached, and parks the path at
it otherwise. A push that a queue accepts takes slot TAIL, one that it refuses is answered by a notice; a held row
within the capacity, which fills no batch, is written to its slot and acknowledged; xq.take 0 hands out TAKE, 1 frees
a batch or reports 0x0B, 2 closes the queue (R16, R337 to R341, R353 to R356); that xq.take checks its descriptor's
place and alignment at hand-off is the model's reading of R353 (notes/assumptions/52.md). -/
def Obligations.CountersAndQueuesComplete : Prop :=
  (∀ (i : Instr) (x : Enc) (kind : Nat) (s : State) (bk : Nat), counterKind i = some (x, kind) → MayHandOff s bk (rowOf i) x → MemoryAdmitted s bk →
    let a := ((s.bundle bk).sreg x.a.toNat).toNat
    (∀ n d, counterTrap s (coreOfBundle bk) a = some (n, d) → exec i s = .next (s.trapSync bk n d)) ∧
    (counterTrap s (coreOfBundle bk) a = none →
      ∃ o, exec i s = .next (withOp s bk x o) ∧ StartedBy s bk x o ∧ o.cls = 11 ∧ o.opn = 4 + kind ∧ o.ord = 2 ∧ o.lvl = scopeOf x ∧ o.ws = [] ∧
        o.fin = .none ∧ o.reqs = [{ uid := 0, t := 64, stage := .home, addr := a, n := 8,
                                    act := .ctr kind ((s.bundle bk).sreg x.d.toNat).toNat none (scopeOf x) }])) ∧
  (∀ (x : Enc) (s : State) (bk : Nat), MayHandOff s bk (rowOf (.ctrArm x)) x → MemoryAdmitted s bk → s.armsFull (s.chipletOf (coreOfBundle bk)) = false →
    let a := ((s.bundle bk).sreg x.a.toNat).toNat
    (∀ n d, counterTrap s (coreOfBundle bk) a = some (n, d) → exec (.ctrArm x) s = .next (s.trapSync bk n d)) ∧
    (counterTrap s (coreOfBundle bk) a = none →
      let h := if x.form = .extended then x.w2.toNat / 2 ^ 16 else 0
      let done := fun (o : Op) (bar : Option (Nat × Bool)) => StartedBy s bk x o ∧ o.cls = 11 ∧ o.opn = 6 ∧ o.lvl = scopeOf x ∧ o.ws = [] ∧
        o.fin = .none ∧ o.reqs = [{ uid := 0, t := 64, stage := .home, addr := a, n := 8,
                                    act := .ctr 2 ((s.bundle bk).sreg x.d.toNat).toNat bar (scopeOf x) }]
      (h = 0 → ∃ o, exec (.ctrArm x) s = .next (withOp s bk x o) ∧ done o none) ∧
      (h ≠ 0 → h / 2 ^ 14 ≠ 1 ∨ s.barKey (coreOfBundle bk) h = none → exec (.ctrArm x) s = .next (s.trapSync bk 0x0A h)) ∧
      (∀ key, h / 2 ^ 14 = 1 → s.barKey (coreOfBundle bk) h = some key → (s.bar key).eng (s.bar key).p < 255 →
        ∃ (o : Op) (t : State), exec (.ctrArm x) s = .next { withOp s bk x o with bars := t.bars } ∧ done o (some (key, (s.bar key).p)) ∧
          Enrolled (s.bar key) (t.bar key) (s.bundle bk).ser ∧ ∀ k, k ≠ key → t.bar k = s.bar k))) ∧
  (∀ (s : State) (o : Op) (r : Req) (kind v lvl : Nat) (bar : Option (Nat × Bool)), InProgress s o r → r.act = .ctr kind v bar lvl → r.stage = .home →
    (s.ctx (ctxOfBundle o.bk)).running = true → s.blocked o r false = false → s.counterBehind o r = false → o.fin = .none →
    s.inOrder (s.transferEngine o) o.bk = true → s.spBad (coreOfBundle o.bk) r.addr 8 = none →
    let ck := coreOfBundle o.bk
    let old := s.ctrValue ck r.addr
    let new := if kind = 0 then BitVec.ofNat 64 v else old + BitVec.ofNat 64 v
    (kind ≤ 1 → Unreached s (ctrKey ck r.addr) new →
      ∃ t, exec (.homePerform o.id r.uid) s = .next t ∧ Served t o.id r.uid ∧ Stored s.pool t.pool 0 (spKey s ck r.addr) 8 new.toNat ∧
        t.mem = s.mem ∧ t.arms = s.arms) ∧
    (kind = 2 → (s.arms.filter (fun a => a.key == ctrKey ck r.addr && !a.reached)).length < 16 → Unreached s (ctrKey ck r.addr) old →
      2 ^ 63 ≤ (old - BitVec.ofNat 64 v).toNat →
      ∃ (t : State) (a : Arming), exec (.homePerform o.id r.uid) s = .next t ∧ Served t o.id r.uid ∧ t.arms = s.arms ++ [a] ∧
        a.key = ctrKey ck r.addr ∧ a.bk = o.bk ∧ a.ser = o.ser ∧ a.target = BitVec.ofNat 64 v ∧ a.bar = bar ∧ a.reached = false ∧
        t.pool = s.pool ∧ t.mem = s.mem)) ∧
  (∀ (x : Enc) (s : State) (bk : Nat), Passes s bk (rowOf (.ctrWait x)) x →
    let a := ((s.bundle bk).sreg x.a.toNat).toNat
    let key := ctrKey (coreOfBundle bk) a
    let mine := fun (y : Arming) => y.ser = (s.bundle bk).ser ∧ y.key = key ∧ y.bar = none
    (∀ n d, counterTrap s (coreOfBundle bk) a = some (n, d) → exec (.ctrWait x) s = .next (s.trapSync bk n d)) ∧
    (counterTrap s (coreOfBundle bk) a = none →
      (∀ (p : Op) (q : Req), p ∈ s.ops → p.ser = (s.bundle bk).ser → p.cls = 11 → p.opn = 6 → q ∈ p.reqs → q.addr ≠ a) →
      (∀ e, e ∈ s.xerrs → e.ser ≠ (s.bundle bk).ser) → s.fenced (s.bundle bk) 11 7 = false →
      ((∀ y, y ∈ s.arms → mine y → y.reached = true) →
        ∃ (t u : State), exec (.ctrWait x) s = .next u ∧
          Watched { after s bk { s.bundle bk with thr := pastUnit (s.bundle bk) x } with arms := t.arms } u ∧
          ∀ y, y ∈ t.arms ↔ y ∈ s.arms ∧ ¬ mine y) ∧
      ((∃ y, y ∈ s.arms ∧ mine y ∧ y.reached = false) →
        ∃ c u, exec (.ctrWait x) s = .next u ∧ Watched (after s bk c) u ∧ SameButThreads (s.bundle bk) c ∧ c.onChosenPath ∧
          c.thr = (s.bundle bk).thr.map (fun (e : Nat × Thread) =>
            if hasBit (s.bundle bk).active e.1 then (e.1, { e.2 with cond := .counter key (unitLen x) }) else e)))) ∧
  (∀ (x : Enc) (s : State) (bk : Nat), MayHandOff s bk (rowOf (.xqPush x)) x → MemoryAdmitted s bk → ReplayRoom s bk → s.numbered →
    let len := x.w2.toNat / 2 ^ 8 % 2 ^ 24 * 16
    let ps := pushesOf x (s.bundle bk)
    1 ≤ len → len ≤ 4096 → ps ≠ [] → (∀ p, p ∈ ps → p.2.1 % 64 = 0 ∧ p.2.2 % 16 = 0 ∧ p.2.2 + len ≤ (s.core (coreOfBundle bk)).spg * 65536) →
    ∃ o, exec (.xqPush x) s = .next (withOp s bk x o) ∧ StartedBy s bk x o ∧ o.cls = 11 ∧ o.opn = 10 ∧ o.ord = 2 ∧ o.lvl = scopeOf x ∧
      o.early = true ∧ o.ws = [] ∧ o.fin = .none ∧
      o.reqs = ps.zipIdx.map (fun q => { uid := q.2, t := q.1.1, stage := .walk, addr := q.1.2.1, n := len, act := .push q.1.2.2 })) ∧
  (∀ (x : Enc) (s : State) (bk : Nat), MayHandOff s bk (rowOf (.xqTake x)) x → MemoryAdmitted s bk →
    let a := ((s.bundle bk).sreg x.a.toNat).toNat
    (a % 64 ≠ 0 → exec (.xqTake x) s = .next (s.trapSync bk 0x03 a)) ∧
    (a % 64 = 0 → (s.core (coreOfBundle bk)).spg * 65536 < a + 64 → exec (.xqTake x) s = .next (s.trapSync bk 0x05 a)) ∧
    (a % 64 = 0 → a + 64 ≤ (s.core (coreOfBundle bk)).spg * 65536 →
      ∃ o, exec (.xqTake x) s = .next (withOp s bk x o) ∧ StartedBy s bk x o ∧ o.cls = 11 ∧ o.opn = 11 ∧ o.ws = [] ∧ o.fin = .none ∧
        o.reqs = [{ uid := 0, t := 64, stage := .home, addr := a, n := 64,
                    act := .sys 3 x.b.toNat ((s.bundle bk).sreg x.d.toNat).toNat x.d.toNat }])) ∧
  (∀ (s : State) (o : Op) (r : Req) (m v d : Nat), InProgress s o r → r.act = .sys 3 m v d → r.stage = .home → s.runs o.bk = true →
    s.spBad (coreOfBundle o.bk) r.addr 64 = none →
    let ck := coreOfBundle o.bk
    let q := r.addr
    (m = 0 → ∃ t, exec (.homePerform o.id r.uid) s = .next t ∧ Served t o.id r.uid ∧ t.mem = s.mem ∧
      Stored s.pool t.pool 0 (spKey s ck q + 32) 8 ((s.xqField ck q 32 8 + 1) % 2 ^ 64) ∧
      Owes t o { t := 64, ws := [.s d (BitVec.ofNat 64 (s.xqField ck q 32 8))] }) ∧
    (m = 1 → o.cls = 11 → s.xqField ck q 32 8 ≤ v ∨ v < s.xqField ck q 40 8 ∨ (ctrKey ck q, v) ∈ s.freed →
      ∃ t, exec (.homePerform o.id r.uid) s = .next t ∧ Served t o.id r.uid ∧ Reported s t o r 0x0B 5 (BitVec.ofNat 64 q) ∧ t.mem = s.mem ∧
        t.pool = s.pool) ∧
    (m = 1 → v < s.xqField ck q 32 8 → v = s.xqField ck q 40 8 → (ctrKey ck q, v) ∉ s.freed → (ctrKey ck q, v + 1) ∉ s.freed →
      ∃ t, exec (.homePerform o.id r.uid) s = .next t ∧ Served t o.id r.uid ∧ t.mem = s.mem ∧
        Stored s.pool t.pool 0 (spKey s ck q + 40) 8 (v + 1) ∧ Owes t o { t := 64, ws := [.s d (BitVec.ofNat 64 (v + 1))] }) ∧
    (m = 2 → (∀ h, h ∈ s.rows → h.core = ck → h.desc ≠ q) →
      ∃ t, exec (.homePerform o.id r.uid) s = .next t ∧ Served t o.id r.uid ∧ t.mem = s.mem ∧
        Stored s.pool t.pool 0 (spKey s ck q + 12) 4 (s.xqField ck q 12 4 / 2 * 2 + 1) ∧
        Owes t o { t := 64, ws := [.s d (BitVec.ofNat 64 (s.xqField ck q 16 8))] })) ∧
  (∀ (s : State) (p : Packet) (o : Op) (r : Req) (sp ck d : Nat), Delivered s p o r → p.op = 0 → r.act = .push sp → s.target o.orig p.dst 64 = .sp ck d → s.spBad ck d 64 = none →
    let row := s.xqField ck d 4 2 % 512 * 16
    let accepted := s.xqField ck d 12 4 % 2 = 0 ∧ row ≠ 0 ∧ row = p.data.length ∧
      s.xqField ck d 0 4 + 128 * s.xqField ck d 6 2 * row ≤ (s.core ck).spg * 65536
    (accepted → ∃ (t : State) (h : HeldRow), exec (.xqPushArrival p.id) s = .next t ∧ t.rows = s.rows ++ [h] ∧ h.core = ck ∧ h.desc = d ∧
      h.slot = s.xqField ck d 16 8 ∧ h.data = p.data ∧ h.landed = false ∧ h.opId = p.opId ∧ h.uid = p.uid ∧ t.mem = s.mem ∧
      Stored s.pool t.pool 0 (spKey s ck d + 16) 8 ((s.xqField ck d 16 8 + 1) % 2 ^ 64) ∧ t.pkts = s.pkts.filter (fun q => q.id != p.id)) ∧
    (¬ accepted → ∃ t, exec (.xqPushArrival p.id) s = .next t ∧ Answered s t p 6 [] ∧ t.rows = s.rows ∧ t.pool = s.pool ∧ t.mem = s.mem)) ∧
  (∀ (s : State) (h : HeldRow), s.rows.find? (fun r => r.id == h.id) = some h → h.landed = false →
    let cap := 128 * s.xqField h.core h.desc 6 2
    let at_ := s.xqField h.core h.desc 0 4 + h.slot % cap * (s.xqField h.core h.desc 4 2 % 512 * 16)
    s.spBad h.core h.desc 64 = none → h.slot < 128 * s.xqField h.core h.desc 40 8 + cap → (at_ + h.data.length ≤ h.desc ∨ h.desc + 64 ≤ at_) →
    s.xqField h.core h.desc 12 4 % 2 = 0 →
    (s.rows.filter (fun r => r.core == h.core && r.desc == h.desc && decide (128 * s.xqField h.core h.desc 24 8 ≤ r.slot) &&
      decide (r.slot < 128 * s.xqField h.core h.desc 24 8 + 128))).length < 128 →
    ∃ (t : State) (q : Packet), exec (.xqRowLanding h.id) s = .next t ∧ Stored s.pool t.pool 0 (spKey s h.core at_) h.data.length (natOfBytes h.data) ∧
      t.mem = s.mem ∧ t.rows = s.rows.map (fun (r : HeldRow) => if r.id = h.id then { r with landed := true } else r) ∧
      t.pkts = s.pkts ++ [q] ∧ q.op = 5 ∧ q.opId = h.opId ∧ q.uid = h.uid ∧ q.dst = h.dst ∧ q.tag = h.tag ∧ q.path = h.path ∧ q.data = [])

/-- coll.post, where it may hand off and the launch's collective has the chunk, hands off one operation with its scope
as a release; otherwise it takes trap 0x0E. Performed, once no access of the bundle stands before it, it posts the
source bytes as they are now and owes 0, or owes 1 where the chunk was posted. A chunk whose blocks have all ended and
whose writes are performed is posted with them likewise. A collective whose bindings differ or that has a member down
ends a member's launch, once its results that have not landed are unspecified, with status 4 and every live thread of
its bundles dead. For OP 3 and 4, with every post decided and the results apart from the source, a combination writes
at the member exactly the pieces of R346, and the chunk has landed; a piece of one 4 KiB page that overlaps no source
is written to exactly its bytes. For OP 1 and 2 the code of an element whose contributions are finite and stay in
range is one rounding of the exact sum of the contributions truncated at L, whatever the order (R346 to R348). -/
def Obligations.CollectivesComplete : Prop :=
  (∀ (x : Enc) (s : State) (bk : Nat), MayHandOff s bk (rowOf (.collPost x)) x → MemoryAdmitted s bk → ReplayRoom s bk →
    let l := s.launch (s.bundle bk).launch
    let k := ((s.bundle bk).sreg x.a.toNat).toNat
    (l.collOp = 0 ∨ l.chunks ≤ k → ∃ d, exec (.collPost x) s = .next (s.trapSync bk 0x0E d)) ∧
    (l.collOp ≠ 0 → k < l.chunks → ∃ o, exec (.collPost x) s = .next (withOp s bk x o) ∧ StartedBy s bk x o ∧ o.cls = 11 ∧ o.opn = 8 ∧ o.ord = 2 ∧
      o.lvl = scopeOf x ∧ o.ws = [] ∧ o.fin = .none ∧ o.reqs = [{ uid := 0, t := 64, stage := .home, act := .sys 4 k 0 x.d.toNat }])) ∧
  (∀ (s : State) (o : Op) (r : Req) (k z d : Nat), InProgress s o r → r.act = .sys 4 k z d → r.stage = .home → s.runs o.bk = true →
    s.unperformed o.ser o.id (widthMask 64) = false →
    (k ∈ (s.launch o.launch).posted → ∃ t, exec (.homePerform o.id r.uid) s = .next t ∧ Served t o.id r.uid ∧ t.mem = s.mem ∧ t.pool = s.pool ∧
      t.posts = s.posts ∧ Owes t o { t := 64, ws := [.s d 1] }) ∧
    (∀ data, k ∉ (s.launch o.launch).posted → SourceBytes s o.launch k data →
      (∀ g, (s.core (s.launch o.launch).collCore).sgo = some g → g.opId ≠ o.id) →
      (∀ e, (s.core (s.launch o.launch).collCore).port = some e → e.opId ≠ o.id) → ∃ t, exec (.homePerform o.id r.uid) s = .next t ∧ Served t o.id r.uid ∧
      ChunkPosted s t o.launch k data ∧ Owes t o { t := 64, ws := [.s d 0] })) ∧
  (∀ (s : State) (lid k : Nat) (data : List Byte), MayPost s lid k → SourceBytes s lid k data →
    ∃ t, exec (.collChunkPost lid k) s = .next t ∧ ChunkPosted s t lid k data) ∧
  (∀ (s : State) (lid k : Nat), (s.launch lid).collOp ≠ 0 → (s.launch lid).complete = false → (s.launch lid).killed = false →
    s.collBroken (s.launch lid) = true →
    (∀ t, s.collError lid = .ok t → exec (.collCombine lid k) s = .next t ∧ (t.launch lid).killed = true ∧ (t.launch lid).status = 4 ∧
      ∀ bk, (t.bundle bk).launch = lid → (t.bundle bk).fw = none → (t.bundle bk).live = 0) ∧
    ((∀ j, j < (s.launch lid).chunks → j ∈ (s.launch lid).landed) → ∃ t, s.collError lid = .ok t ∧ t.mem = s.mem ∧ t.pool = s.pool)) ∧
  (∀ (s : State) (lid k r : Nat) (l : List (Nat × Launch)) (datas : List (List Byte)) (s' : State),
    let x := s.launch lid
    let ps := datas.zipIdx.map (fun p => receivedPiece x k r l.length p.2 p.1)
    x.collOp = 3 ∨ x.collOp = 4 → x.complete = false → x.killed = false → s.collBroken x = false → s.partners x = some l → k ∉ x.landed →
    (l.map Prod.fst).idxOf lid = r → r < l.length → (∀ e, e ∈ l → k ∈ e.2.posted) → datas.length = l.length →
    (∀ j e, l[j]? = some e → ∃ p, s.post? e.1 k = some p ∧ p.fixed = true ∧ p.data = datas.getD j []) →
    (∀ p, p ∈ ps → ApartFromSource x p.1 p.2.length) → s.writePieces x.ctx ps = .ok s' →
    ∃ t, exec (.collCombine lid k) s = .next t ∧ t.mem = s'.mem ∧ t.pool = s'.pool ∧ (t.launch lid).landed = k :: (s'.launch lid).landed) ∧
  (∀ (s s' : State) (c va pa : Nat) (l : List Byte), l ≠ [] → va / 4096 = (va + l.length - 1) / 4096 → s.collReach c va .dst l.length = .ok pa s' →
    s.target (some c) pa l.length = .mem → (∀ r, r ∈ s.collSources → pa + l.length ≤ r.1 ∨ r.1 + r.2 ≤ pa) →
    ∃ t, s.writePieces c [(va, l)] = .ok t ∧ Stored s.mem t.mem Memory.unlisted pa l.length (natOfBytes l) ∧ t.pool = s.pool) ∧
  (∀ (s : State) (x : Launch) (e : Nat) (l : List (List Byte)),
    let f := x.resultTid.f
    let v := fun (b : List Byte) => x96Contribution x.collElem (natOfBytes b)
    let n := fun (b : List Byte) => truncated ((v b).rat * (2 : Rat) ^ (-x.collL))
    x.collElem < 4 → f.rnd ≠ 0 → (∀ b, b ∈ l → (v b).isFin = true) → (l.map (fun b => (n b).natAbs)).sum < 2 ^ 95 →
    s.sumCode x e l = (f.write f.rnd (.fin (decide ((l.map n).sum < 0)) (l.map n).sum.natAbs x.collL) 1).1)

/-- sh.evict and sh.touch that may hand off with a replay entry free leave one operation on the address; pg.inval too,
but takes trap 0x04 for an address that is not canonical. Walking alone for the page, or judged behind nothing that
was held on it before, the operation ends and reports 0x0F where the walk meets an uncorrectable error, 0x04 without a
leaf, 0x05 for a page of another kind; a walk that finds a shard page leaves it to be judged. sh.evict ends at once in
SHARDED; in GATHERED with no proposal outstanding, or LOST, it gives the page up: SHARDED, EVACK sent, every byte but
the entry and other ranks' units as it was; in PARTIAL, once no access of the bundle stands before it and none of the
context is in flight on the page, it begins the reduction, and ends once the page has left REDUCING. sh.touch 0 in
SHARDED, no member down, nothing asked for and no access of the bundle before it, sends PROP and waits; sh.touch 1
makes the page PARTIAL with 512 zero slots at LG; sh.touch ends at once in a state that fits, and reports 0x05 in one
that does not, 0x06 in LOST. pg.inval, once no access of the bundle stands before it, removes exactly the cached
translations of the address in its scope, and ends once no access translated through them before is in progress (R364,
R365, R373, R376 to R379). -/
def Obligations.ShardInstructionsComplete : Prop :=
  (∀ (i : Instr) (x : Enc) (s : State) (bk opn kind m ord : Nat), (i = .shEvict x ∧ opn = 6 ∧ kind = 7 ∧ m = 0 ∧ ord = 2) ∨
      (i = .shTouch x ∧ opn = 7 ∧ kind = 8 ∧ m = x.d.toNat ∧ ord = 1) → MayHandOff s bk (rowOf i) x → ReplayRoom s bk →
    ∃ o, exec i s = .next (withOp s bk x o) ∧ StartedBy s bk x o ∧ o.cls = 12 ∧ o.opn = opn ∧ o.ord = ord ∧ o.ws = [] ∧ o.fin = .none ∧
      o.reqs = [{ uid := 0, t := 64, stage := .walk, addr := ((s.bundle bk).sreg x.a.toNat).toNat, n := 1, act := .sys kind m 0 0 }]) ∧
  (∀ (x : Enc) (s : State) (bk : Nat), MayHandOff s bk (rowOf (.pgInval x)) x →
    let va := ((s.bundle bk).sreg x.a.toNat).toNat
    (canonical va = false → exec (.pgInval x) s = .next (s.trapSync bk 0x04 va)) ∧
    (canonical va = true → ∃ o, exec (.pgInval x) s = .next (withOp s bk x o) ∧ StartedBy s bk x o ∧ o.cls = 12 ∧ o.opn = 8 ∧ o.ord = 2 ∧ o.ws = [] ∧
      o.fin = .none ∧ o.reqs = [{ uid := 0, t := 64, stage := .home, addr := va, n := 1, act := .sys 9 x.b.toNat 0 0 }])) ∧
  (∀ (s : State) (o : Op) (r : Req), InProgress s o r → o.cls = 12 → r.stage = .walk → s.runs o.bk = true → isFw o.bk = false →
    s.inOrder (s.sliceEngine o) o.bk = true → (∀ p q, p ∈ s.ops → q ∈ p.reqs → s.joins o.bk r.addr p q = true → p = o ∧ q = r) →
    let c := ctxOfBundle o.bk
    let found := s.findLeaf c (s.sliceOf o.bk) (microOf o.bk) r.addr
    let bad := s.walkBad c (s.sliceOf o.bk) (microOf o.bk) r.addr
    let failed := fun (code a : Nat) => ∃ t, exec (.pageWalkComplete o.id r.uid) s = .next t ∧ Served t o.id r.uid ∧
      Reported s t o r code 6 (BitVec.ofNat 64 a) ∧ t.mem = s.mem
    (∀ a, bad = some a → failed 0x0F a) ∧ (bad = none → found = none → failed 0x04 r.addr) ∧
    (∀ (l : Leaf) (u : State), bad = none → found = some (l, u) → (leafKind l.word ≠ 3 → failed 0x05 r.addr) ∧
      (leafKind l.word = 3 → ∃ t o', exec (.pageWalkComplete o.id r.uid) s = .next t ∧ t.op? o.id = some o' ∧ t.mem = s.mem ∧
        o'.reqs = o.reqs.map (fun q => if q.uid = r.uid then { r with stage := .shard } else q)))) ∧
  (∀ (s : State) (o : Op) (r : Req) (kind m z d : Nat), InProgress s o r → r.act = .sys kind m z d → kind = 7 ∨ kind = 8 ∧ z ≠ 2 → o.cls = 12 →
    r.stage = .shard → s.runs o.bk = true → s.heldBefore o r = false →
    let c := ctxOfBundle o.bk
    let p := pageOf r.addr
    let found := s.findLeaf c (s.sliceOf o.bk) (microOf o.bk) r.addr
    let failed := fun (code a : Nat) => ∃ t, exec (.pageWalkComplete o.id r.uid) s = .next t ∧ Served t o.id r.uid ∧
      Reported s t o r code 6 (BitVec.ofNat 64 a) ∧ t.mem = s.mem
    let trapped := fun (code : Nat) => failed code r.addr
    let ended := ∃ t, exec (.pageWalkComplete o.id r.uid) s = .next t ∧ Served t o.id r.uid ∧ t.mem = s.mem ∧ t.msgs = s.msgs ∧ t.reports = s.reports
    (∀ a, s.walkBad c (s.sliceOf o.bk) (microOf o.bk) r.addr = some a → failed 0x0F a) ∧
    (s.walkBad c (s.sliceOf o.bk) (microOf o.bk) r.addr = none → found = none → trapped 0x04) ∧
    (∀ (l : Leaf) (u : State), s.walkBad c (s.sliceOf o.bk) (microOf o.bk) r.addr = none → found = some (l, u) → leafKind l.word ≠ 3 → trapped 0x05) ∧
    (∀ (l y : Leaf) (u : State), s.walkBad c (s.sliceOf o.bk) (microOf o.bk) r.addr = none → found = some (l, u) → ShardPage s c p y → y.word = l.word →
      let g := leafGroup l.word
      let sst := leafSst l.word
      (kind = 7 ∧ m = 0 → sst = 0 → ended) ∧
      (kind = 7 ∧ m = 0 → (sst = 2 ∧ p ∉ (s.ctx c).props) ∨ sst = 5 →
        ∃ t, exec (.pageWalkComplete o.id r.uid) s = .next t ∧ Served t o.id r.uid ∧ GivenUp s t c g p y) ∧
      (kind = 7 ∧ m = 0 → sst = 3 → s.unperformed o.ser o.id (widthMask 64) = false → s.pageBusy c p = false →
        ∃ t o', exec (.pageWalkComplete o.id r.uid) s = .next t ∧ Reducing s t c g p y ∧ t.op? o.id = some o' ∧
          o'.reqs = o.reqs.map (fun q => if q.uid = r.uid then { r with act := .sys 7 1 0 0 } else q)) ∧
      (kind = 7 ∧ m = 1 → sst ≠ 4 → ended) ∧
      (kind = 8 → m = 1 ∧ l.grants .write = false → trapped 0x05) ∧
      (kind = 8 → m ≠ 1 ∨ l.grants .write = true → sst = 5 → trapped 0x06) ∧
      (kind = 8 → m = 1 ∧ l.grants .write = true ∧ sst = 2 ∨ m = 2 ∧ sst = 3 → trapped 0x05) ∧
      (kind = 8 → m = 0 ∧ (sst = 2 ∨ sst = 3) ∨ m = 1 ∧ l.grants .write = true ∧ sst = 3 ∨ m = 2 ∧ (sst = 2 ∨ sst = 0 ∧ s.stagingOpen c g p = false) → ended) ∧
      (kind = 8 ∧ m = 0 → sst = 0 → (∀ q, q ∈ (s.ctx c).ranks g → (s.ctx c).down g q = false) → (s.ctx c).asked p = false →
        s.unperformed o.ser o.id (widthMask 64) = false →
        ∃ t o', exec (.pageWalkComplete o.id r.uid) s = .next t ∧ Sent s t 0 c (s.coordinator c g p) g p ∧ (t.ctx c).props = (s.ctx c).props ++ [p] ∧
          t.mem = s.mem ∧ t.op? o.id = some o' ∧ o'.reqs = o.reqs.map (fun q => if q.uid = r.uid then { r with act := .sys 8 0 1 0 } else q)) ∧
      (kind = 8 ∧ m = 1 → l.grants .write = true → sst = 0 → s.stagingOpen c g p = false →
        ∃ t, exec (.pageWalkComplete o.id r.uid) s = .next t ∧ Served t o.id r.uid ∧
          SstPut s t y 3 (fun a => leafFrame y.word ≤ a ∧ a < leafFrame y.word + 8192) ∧
          ∀ k, k < 512 → slotOf (t.memRead (leafFrame y.word + 16 * k) 16) = { l := (s.ctx c).groupLg g }))) ∧
  (∀ (s : State) (o : Op) (r : Req) (k lv cut : Nat), InProgress s o r → r.act = .sys 9 k lv cut → r.stage = .home → s.runs o.bk = true → o.fin = .none →
    let c := ctxOfBundle o.bk
    let inScope := fun (chip : Nat) => k == 1 || chip == s.sliceOf o.bk
    (lv = 0 → s.unperformed o.ser o.id (widthMask 64) = false →
      ∃ t, exec (.homePerform o.id r.uid) s = .next t ∧ t.mem = s.mem ∧
        ∀ e, e ∈ (t.ctx c).tlb ↔ e ∈ (s.ctx c).tlb ∧ ¬ (e.page = r.addr / 2 ^ pageBits e.level ∧ inScope e.chiplet = true)) ∧
    (lv ≠ 0 → s.stillThrough c r.addr (lv - 1) cut inScope = false →
      ∃ t, exec (.homePerform o.id r.uid) s = .next t ∧ Served t o.id r.uid ∧ t.mem = s.mem ∧ t.ctxs = s.ctxs))

/-- ctx.drain that may hand off leaves one operation, which ends once nothing that the bundle handed off before it is
in progress and every arming is reached. For a save or load whose bundle's flags are all zero: a misaligned address
takes trap 0x03; ctx.svb that is not the last unit of its clause, in a handler or beside a thread parked elsewhere
takes 0x01, and with an arrival of the bundle in an open phase 0x0A; ctx.svd and ctx.ldd with a core barrier in use
take 0x0A; a tile range beyond the region takes 0x09. Otherwise a save hands off the stores of exactly the bytes of
its record as the state stands, and then its length; a load hands off the reads of its header. A header that does not
fit ends the load with 0x09 reported; one that fits has the rest read. A bundle record that is fit, leaves no live
thread out and lets one run restores the uniform registers, the masks and the vector registers of the threads present;
a core record restores the tensor identifiers and which sets are allocated, a tile record the bytes of each tile that
nothing in progress or unobserved touches (R415 to R424). The order of the checks of one instruction is the model's
(notes/assumptions/63.md), and so are the details of 0x09 (notes/assumptions/58.md). -/
def Obligations.ContextInstructionsComplete : Prop :=
  (∀ (x : Enc) (s : State) (bk : Nat), MayHandOff s bk (rowOf (.ctxDrain x)) x →
    ∃ o, exec (.ctxDrain x) s = .next (withOp s bk x o) ∧ StartedBy s bk x o ∧ o.cls = 12 ∧ o.opn = 9 ∧ o.ord = 1 ∧ o.ws = [] ∧ o.fin = .none ∧
      o.reqs = [{ uid := 0, t := 64, stage := .wait, act := .drain 0 }]) ∧
  (∀ (s : State) (o : Op) (r : Req), InProgress s o r → r.act = .drain 0 → r.stage = .wait → s.runs o.bk = true →
    (∀ p, p ∈ s.ops → p.ser = o.ser → o.id ≤ p.id) → (s.core (coreOfBundle o.bk)).mxOpen = [] → (s.core (coreOfBundle o.bk)).sq = [] →
    (∀ a, a ∈ s.arms → a.ser = o.ser → a.reached = true) →
    ∃ t, exec (.homePerform o.id r.uid) s = .next t ∧ Served t o.id r.uid ∧ t.mem = s.mem ∧ t.pool = s.pool) ∧
  (∀ (x : Enc) (s : State) (bk : Nat), MaySave s bk (rowOf (.ctxSvb x)) x →
    let b := s.bundle bk
    let va := (b.sreg x.a.toNat).toNat
    let last := (b.thread b.lead).clo + unitLen x = (b.thread b.lead).hdr.toNat % 64 + 1
    (¬ last ∨ b.hidden ≠ none ∨ b.strayPark = true → exec (.ctxSvb x) s = .next (s.trapSync bk 0x01 0)) ∧
    (∀ h, last → b.hidden = none → b.strayPark = false → s.arrivedOn b = some h → exec (.ctxSvb x) s = .next (s.trapSync bk 0x0A h)) ∧
    (last → b.hidden = none → b.strayPark = false → s.arrivedOn b = none → va % 16 ≠ 0 → exec (.ctxSvb x) s = .next (s.trapSync bk 0x03 va)) ∧
    (last → b.hidden = none → b.strayPark = false → va % 16 = 0 →
      (∀ e, e ∈ s.bars → ∀ t, t < b.width → b.ser * 64 + t ∉ e.2.arr0 ∧ b.ser * 64 + t ∉ e.2.arr1) →
      ∃ o l, exec (.ctxSvb x) s = .next (withOp s bk x o) ∧ SaveOf s bk x 0x1A va l o ∧ BundleRecordOf b x l)) ∧
  (∀ (x : Enc) (s : State) (bk : Nat), MaySave s bk (rowOf (.ctxSvd x)) x →
    let ck := coreOfBundle bk
    let va := ((s.bundle bk).sreg x.a.toNat).toNat
    (va % 16 ≠ 0 → exec (.ctxSvd x) s = .next (s.trapSync bk 0x03 va)) ∧
    (∀ h, va % 16 = 0 → s.coreBarUsed ck = some h → exec (.ctxSvd x) s = .next (s.trapSync bk 0x0A h)) ∧
    (va % 16 = 0 → (∀ n, n < 128 → (s.bar (s.keyFor ck 1 n)).inUse = false) →
      ∃ o l, exec (.ctxSvd x) s = .next (withOp s bk x o) ∧ SaveOf s bk x 0x1C va l o ∧ CoreRecordOf s ck l)) ∧
  (∀ (x : Enc) (s : State) (bk : Nat), MaySave s bk (rowOf (.ctxSvx x)) x →
    let ck := coreOfBundle bk
    let va := ((s.bundle bk).sreg x.a.toNat).toNat
    let w := ((s.bundle bk).sreg x.b.toNat).toNat
    let f := w % 64
    let n := w / 2 ^ 8 % 64
    let fits := w = f + n * 2 ^ 8 ∧ n ≠ 0 ∧ f + n ≤ (s.core ck).tiles
    (va % 16 ≠ 0 → exec (.ctxSvx x) s = .next (s.trapSync bk 0x03 va)) ∧
    (va % 16 = 0 → ¬ fits → exec (.ctxSvx x) s = .next (s.trapSync bk 0x09 f)) ∧
    (va % 16 = 0 → fits → ∃ o l, exec (.ctxSvx x) s = .next (withOp s bk x o) ∧ SaveOf s bk x 0x1E va l o ∧ o.tiles = List.range' f n ∧ TileRecordOf s ck (s.bundle bk).ser f n l)) ∧
  (∀ (i : Instr) (x : Enc) (opn : Nat) (s : State) (bk : Nat), loadKind i = some (x, opn) → MaySave s bk (rowOf i) x →
    let ck := coreOfBundle bk
    let va := ((s.bundle bk).sreg x.a.toNat).toNat
    let w := ((s.bundle bk).sreg x.b.toNat).toNat
    (va % 16 ≠ 0 → exec i s = .next (s.trapSync bk 0x03 va)) ∧
    (∀ h, va % 16 = 0 → opn = 0x1D → s.coreBarUsed ck = some h → exec i s = .next (s.trapSync bk 0x0A h)) ∧
    (va % 16 = 0 → opn = 0x1F → 64 ≤ w ∨ (s.core ck).tiles ≤ w → exec i s = .next (s.trapSync bk 0x09 (w % 64))) ∧
    (va % 16 = 0 → (opn = 0x1D → ∀ n, n < 128 → (s.bar (s.keyFor ck 1 n)).inUse = false) → (opn = 0x1F → w < 64 ∧ w < (s.core ck).tiles) →
      ∃ o, exec i s = .next (withOp s bk x o) ∧ LoadOf s bk x opn va (if opn = 0x1F then w else 0) o)) ∧
  (∀ (s : State) (o : Op) (r : Req) (n d : Nat), AtItsEnd s o r 0 n d →
    ∃ t, exec (.homePerform o.id r.uid) s = .next t ∧ Served t o.id r.uid ∧ Owes t o { t := 64, ws := [.s d (BitVec.ofNat 64 n)] } ∧ t.mem = s.mem) ∧
  (∀ (s : State) (o : Op) (r : Req) (n d : Nat), AtItsEnd s o r 1 n d →
    let wanted := fun (len : Nat) => s.lengthWanted o (recordWord o.record 8).toNat d = some len ∧
      recordWord o.record 0 = BitVec.ofNat 64 (len * 2 ^ 32 + 2 ^ 8 + o.recordType)
    ((∀ len, ¬ wanted len) → ∃ t, exec (.homePerform o.id r.uid) s = .next t ∧ (∀ p, p ∈ t.ops → p.id ≠ o.id) ∧ t.mem = s.mem ∧ t.pool = s.pool ∧
      ∃ e : Report, t.reports = s.reports ++ [e] ∧ e.code = 0x09 ∧ e.ser = o.ser ∧ e.threads = o.ex ∧ e.detail = BitVec.ofNat 64 r.addr) ∧
    (∀ len, len < 2 ^ 32 → wanted len → ∃ t o', exec (.homePerform o.id r.uid) s = .next t ∧ t.op? o.id = some o' ∧ o'.ws = o.ws ∧ t.mem = s.mem ∧
      o'.reqs.map (fun q => (q.addr, q.n)) =
        (List.range ((len - 16 + 7) / 8)).map (fun i => ((r.addr + 16 + 8 * i) % 2 ^ 64, min 8 (len - 16 - 8 * i))) ++ [(r.addr, r.n)])) ∧
  (∀ (s : State) (o : Op) (r : Req) (n d u : Nat), AtItsEnd s o r 2 n d → o.opn = 0x1B →
    let b := s.bundle o.bk
    let l := o.record
    let present := recordWord l 0x2D8
    b.ser = o.ser → b.ser ≠ 0 → (s.launch b.launch).killed = false → s.bundleFit o.bk b l = true → b.live &&& ~~~present = 0 →
    u < b.width → u < 64 → hasBit present u = true → (recordWord l (threadBlockAt b u + 8)).toNat / 2 ^ 8 % 4 = 0 →
    ∃ t, exec (.homePerform o.id r.uid) s = .next t ∧ (∀ p, p ∈ t.ops → p.id ≠ o.id) ∧ t.mem = s.mem ∧ t.pool = s.pool ∧
      (∀ k, k < 64 → (t.bundle o.bk).sreg k = recordWord l (0x10 + 8 * k)) ∧
      (∀ k, 1 ≤ k → k ≤ 7 → (t.bundle o.bk).mreg k = recordWord l (0x208 + 8 * k) &&& widthMask b.width) ∧
      ∀ j k, j < b.width → j < 64 → k < b.allot → (t.bundle o.bk).vreg j k =
        if hasBit present j then (recordWord l (threadBlockAt b j + 48 + 4 * k)).truncate 32 else b.vreg j k) ∧
  (∀ (s : State) (o : Op) (r : Req) (n d : Nat), AtItsEnd s o r 2 n d → o.fin = .none →
    let ck := coreOfBundle o.bk
    let l := o.record
    (o.opn = 0x1D → s.coreBarUsed ck = none → s.coreRecordFit ck l = true →
      ∃ t, exec (.homePerform o.id r.uid) s = .next t ∧ t.mem = s.mem ∧ t.pool = s.pool ∧
        ∀ k, k < 256 → FMap.look (t.core ck).tid 0 k = BitVec.ofNat 128 (natOfBytes ((l.drop (0x10 + 16 * k)).take 16)) ∧
          ((t.setRec (s.keyFor ck 1 k)).alloc = true ∨ (t.setRec (s.keyFor ck 1 k)).initial = true ↔
            (l.getD (0x1090 + k / 8) 0).toNat / 2 ^ (k % 8) % 2 = 1)) ∧
    (o.opn = 0x1F → ∃ t, exec (.homePerform o.id r.uid) s = .next t ∧ t.mem = s.mem ∧
      ∀ i k, i < (recordWord l 8).toNat / 2 ^ 8 % 64 → k < 0xC000 → 0x10 + i * 0xC010 + 0xC010 ≤ l.length → s.tileBusy ck o.ser (d + i) = false → d + i ∉ o.raced →
        FMap.look t.pool 0 (tileKey s ck (d + i) + k) = l.getD (0x10 + i * 0xC010 + k) 0))

/-- LANE_ISSUE of a bundle that may begin (R16, R71) and has no record to take starts it: it goes on with its path, or
with the one of R74 where none runs or its path had parked, its lane has acted in this cycle, and nothing else
changes; of one that may not begin it changes nothing. TRAP_ENTRY of a bundle that may begin, is in no handler and has
a pending record takes the first of the lowest code, where its kernel has a vector: the record goes, and the bundle
enters its handler with KIND 1 and the record's fields, RPC the path's PC. FAULT_REPORT takes a report to its bundle:
one whose threads are all dead is discarded; one of a pending code keeps the record, adds 1 to its count up to 255 and
adds its threads (the latter is the model's reading, notes/assumptions/22.md); another starts a record of count 1.
SLEEP_EXPIRY makes exactly the threads run whose count of active cycles is reached (R71, R200, R222, R223). -/
def Obligations.LaneEventsComplete : Prop :=
  (∀ (s : State) (bk : Nat), MayBegin s bk → (s.bundle bk).hidden ≠ none ∨ (s.bundle bk).pend = [] →
    ∃ c, GoesOn (s.bundle bk) c ∧
      exec (.laneIssue bk) s = .next { s with cores := coresActed s bk, issuing := some bk, bundles := FMap.put s.bundles bk c }) ∧
  (∀ (s : State) (bk : Nat), ¬ MayBegin s bk → exec (.laneIssue bk) s = .next s) ∧
  (∀ (s : State) (bk : Nat) (r : TrapRec), MayBegin s bk → (s.bundle bk).hidden = none → FirstRecord (s.bundle bk).pend r →
    r.cnt < 256 → r.eng < 16 → r.code < 256 → s.vector bk ≠ 0xFFFFFFFF →
    ∃ b c, GoesOn (s.bundle bk) b ∧
      exec (.trapEntry bk) s = .next { s with cores := coresActed s bk, bundles := FMap.put s.bundles bk c } ∧
      Entered { b with pend := b.pend.filter (fun p => p.code != r.code) } c (s.vector bk) r.upc b.pc 1 r.cnt r.eng r.code r.threads r.detail) ∧
  (∀ (s : State) (r : Report), s.reports.find? (fun q => q.id == r.id) = some r →
    let b := s.bundle r.bk
    let gone := s.reports.filter (fun q => q.id != r.id)
    let held := fun (l : List TrapRec) => exec (.faultReport r.id) s = .next { s with reports := gone, bundles := FMap.put s.bundles r.bk { b with pend := l } }
    (b.ser ≠ r.ser → exec (.faultReport r.id) s = .next { s with reports := gone }) ∧
    (b.ser = r.ser → r.threads &&& b.live = 0 → held b.pend) ∧
    (b.ser = r.ser → r.threads &&& b.live ≠ 0 → (∃ p, p ∈ b.pend ∧ p.code = r.code) →
      held (b.pend.map (fun (p : TrapRec) => if p.code = r.code then { p with cnt := min 255 (p.cnt + 1), threads := p.threads ||| r.threads } else p))) ∧
    (b.ser = r.ser → r.threads &&& b.live ≠ 0 → (∀ p, p ∈ b.pend → p.code ≠ r.code) →
      held (b.pend ++ [{ code := r.code, cnt := 1, eng := r.eng, upc := r.upc, threads := r.threads, detail := r.detail }]))) ∧
  (∀ (s : State) (bk u till : Nat) (th : Thread), s.runs bk = true → (u, th) ∈ (s.bundle bk).thr → th.cond = .sleep till → till ≤ s.activeCycles bk →
    ∃ c, exec (.sleepExpiry bk) s = .next { s with bundles := FMap.put s.bundles bk c } ∧ SameButThreads (s.bundle bk) c ∧
      ((c.active = (s.bundle bk).active &&& c.running ∧ c.active ≠ 0) ∨ c.onChosenPath) ∧
      c.thr = (s.bundle bk).thr.map (fun (e : Nat × Thread) => match e.2.cond with
        | .sleep k => if k ≤ s.activeCycles bk then (e.1, { e.2 with cond := .running }) else e
        | _ => e))

/-- A message behind another of its path waits (notes/assumptions/86.md), and so does one of data while flits of it
wait for a link. PROP at a coordinator whose record the page may use claims it for the sender's shard unit
(notes/assumptions/47.md), sets the ACK bits of ranks that are down, and is answered by REPLY with the cell's
decision, the winner and the ACK bit: WON where the cell was unarmed. REPLY at a running member ends its proposal; a
won one sends GSTART to every member; a lost one of a copy already evicted waits for FREE. GSTART sends the member's
own units as SHARD to every other member, once, and SHARDED becomes GATHERING, or LOST where units of a rank that is
down are missing. SHARD lands in the frame; with the last units the page is GATHERED, before that GATHERING. EVACK
sets the ACK bit, one of a record moved on is dropped (notes/assumptions/61.md); the last one resets the cell, frees
the record and sends FREE to all. FREE lets waiters propose again. SLICE adds each slot into the open staging, counts
it and is answered by SACK; without a free staging frame it stays, marked. SACK counts, and the last one makes the
page SHARDED. DOWN sets DN of every rank of that package at once (notes/assumptions/49.md). A pressure eviction of a
gathered or partial page of a running member gives it up or begins its reduction. REPLY, FREE and SACK are kept while
the member does not run (R370 to R376). -/
def Obligations.ShardMessagesComplete : Prop :=
  (∀ (s : State) (m : Msg) (i : Instr) (k : Nat), k ≤ 8 → Receives i k m.id → OnItsWay s m k → s.msgBehind m = true ∨ s.msgLeft m = false → exec i s = .next s) ∧
  (∀ (s : State) (m : Msg), Pending s m 0 →
    let n := (s.ctx m.dst).groupN m.group
    let a := s.recordAt m.dst m.group m.page
    let pid := 2 ^ 31 + pkgOfCtx m.src % 64 * 2 ^ 25
    (s.recordOpen m.dst m.group m.page = false → exec (.prop m.id) s = .next s) ∧
    (s.recordOpen m.dst m.group m.page = true → m.page < 2 ^ 40 → (∃ q, q < n ∧ q < 64 ∧ s.word (a + 24) / 2 ^ q % 2 = 0 ∧ (s.ctx m.dst).down m.group q = false) →
      ∃ (t : State) (won : Bool), exec (.prop m.id) s = .next t ∧
      Replaced s t m [(1, m.dst, m.src, m.group, m.page, m.rank, won, s.word (a + 24) / 2 ^ m.rank % 2 == 1, [])] ∧ t.word (a + 16) = 2 ^ 63 + m.page ∧
      (t.msgs.getLast?).map (fun q => q.winner) = some (t.word a) ∧
      (s.word (a + 8) % 8 = 0 → won = true ∧ t.word a = pid ∧ t.word (a + 8) = pid * 2 ^ 32 + 3) ∧
      (s.word (a + 8) % 2 ^ 32 = 3 → won = false ∧ t.word a = s.word a ∧ t.word (a + 8) = s.word (a + 8)) ∧
      (∀ q, q < 64 → (t.word (a + 24) / 2 ^ q % 2 = 1 ↔ s.word (a + 24) / 2 ^ q % 2 = 1 ∨ (q < n ∧ (s.ctx m.dst).down m.group q = true))) ∧
      ∀ x, x < a ∨ a + 32 ≤ x → FMap.look t.mem Memory.unlisted x = FMap.look s.mem Memory.unlisted x)) ∧
  (∀ (s : State) (m : Msg), Pending s m 1 →
    let c := m.dst
    ((s.ctx c).running = false → ∃ t, exec (.reply m.id) s = .next t ∧ Replaced s t m [] ∧ KeptFor s t m) ∧
    ((s.ctx c).running = true → ∃ t, exec (.reply m.id) s = .next t ∧ t.mem = s.mem ∧ (t.ctx c).props = (s.ctx c).props.filter (fun q => q != m.page) ∧
      (m.won = false → m.ackd = true → m.page ∈ (t.ctx c).acked) ∧
      (m.won = true ∨ m.ackd = false → (t.ctx c).acked = (s.ctx c).acked ∧ (s.sst c m.page = 0 → m.page ∈ (t.ctx c).decided)) ∧
      Replaced s t m (if m.won then (List.range ((s.ctx c).groupN m.group)).map (fun r =>
        (2, c, memberCtx ((s.ctx c).member m.group r), m.group, m.page, (s.rankIn c m.group).getD 0, true, false, [])) else []))) ∧
  (∀ (s : State) (m : Msg) (me : Nat) (l : Leaf), Pending s m 2 → s.rankIn m.dst m.group = some me →
    let c := m.dst
    let n := (s.ctx c).groupN m.group
    (s.stagingOpen c m.group m.page = true → exec (.gstart m.id) s = .next s) ∧
    (s.stagingOpen c m.group m.page = false → hasBit (FMap.look (s.ctx c).got 0 m.page) me = true →
      ∃ t, exec (.gstart m.id) s = .next t ∧ Replaced s t m [] ∧ t.mem = s.mem ∧ t.ctxs = s.ctxs) ∧
    (s.stagingOpen c m.group m.page = false → hasBit (FMap.look (s.ctx c).got 0 m.page) me = false → me < 64 → ShardPage s c m.page l → leafSst l.word = 0 →
      (s.ctx c).running = true → ¬ GatheredWith s c m.group m.page me →
      ∃ t, exec (.gstart m.id) s = .next t ∧
        (NoneDown s c m.group → SstPut s t l 1 (fun _ => False) ∧ hasBit (FMap.look (t.ctx c).got 0 m.page) me = true) ∧
        ((∃ q, q < n ∧ q < 64 ∧ q ≠ me ∧ (s.ctx c).down m.group q = true ∧ hasBit (FMap.look (s.ctx c).got 0 m.page) q = false) →
          SstPut s t l 5 (fun _ => False)) ∧
        Replaced s t m (((List.range n).filter (fun r => r != me)).map (fun r =>
          (3, c, memberCtx ((s.ctx c).member m.group r), m.group, m.page, me, false, false, ownBytes s c m.group me l))))) ∧
  (∀ (s : State) (m : Msg) (l : Leaf), Pending s m 3 → ShardPage s m.dst m.page l → leafSst l.word ≤ 1 → (s.ctx m.dst).running = true → m.rank < 64 →
    let c := m.dst
    let at_ := leafFrame l.word + 256 * unitFrom ((s.ctx c).groupN m.group) m.rank
    NoneDown s c m.group → 256 * unitFrom ((s.ctx c).groupN m.group) m.rank + m.data.length ≤ 8192 →
    ∃ t, exec (.shard m.id) s = .next t ∧ (∀ k, k < m.data.length → FMap.look t.mem Memory.unlisted (at_ + k) = m.data.getD k 0) ∧
      (GatheredWith s c m.group m.page m.rank → SstPut s t l 2 (fun a => at_ ≤ a ∧ a < at_ + m.data.length)) ∧
      (¬ GatheredWith s c m.group m.page m.rank → SstPut s t l 1 (fun a => at_ ≤ a ∧ a < at_ + m.data.length) ∧
        hasBit (FMap.look (t.ctx c).got 0 m.page) m.rank = true)) ∧
  (∀ (s : State) (m : Msg), Pending s m 4 → m.rank < 64 →
    let c := m.dst
    let a := s.recordAt c m.group m.page
    let n := (s.ctx c).groupN m.group
    let acked := fun q => q = m.rank ∨ s.word (a + 24) / 2 ^ q % 2 = 1
    (s.word (a + 16) ≠ tagFor m.page → ∃ t, exec (.evack m.id) s = .next t ∧ Replaced s t m [] ∧ t.mem = s.mem ∧ t.ctxs = s.ctxs) ∧
    (s.word (a + 16) = tagFor m.page → (∃ q, q < n ∧ ¬ acked q) → ∃ t, exec (.evack m.id) s = .next t ∧ Replaced s t m [] ∧
      Stored s.mem t.mem Memory.unlisted (a + 24) 8 (s.word (a + 24) ||| 2 ^ m.rank)) ∧
    (s.word (a + 16) = tagFor m.page → (∀ q, q < n → acked q) → s.word (a + 8) % 8 ≠ 0 → s.word (a + 32) / 2 ^ 63 = 0 →
      ∃ t, exec (.evack m.id) s = .next t ∧ t.word a = 0 ∧ t.word (a + 8) = 0 ∧ t.word (a + 16) = 0 ∧ t.word (a + 24) = 0 ∧
        Replaced s t m ((List.range n).map (fun r =>
          (5, c, memberCtx ((s.ctx c).member m.group r), m.group, m.page, r, false, false, []))))) ∧
  (∀ (s : State) (m : Msg), Pending s m 5 →
    ((s.ctx m.dst).running = false → ∃ t, exec (.free m.id) s = .next t ∧ Replaced s t m [] ∧ KeptFor s t m) ∧
    ((s.ctx m.dst).running = true → ∃ t, exec (.free m.id) s = .next t ∧ Replaced s t m [] ∧ t.mem = s.mem ∧ (t.ctx m.dst).asked m.page = (s.ctx m.dst).props.contains m.page)) ∧
  (∀ (s : State) (m : Msg), Pending s m 6 → m.rank < 64 → m.data.length ≤ 8192 → m.data.length % 16 = 0 →
    let c := m.dst
    let a := s.recordAt c m.group m.page
    let n := (s.ctx c).groupN m.group
    let at_ := s.stagingAt c m.group (s.frameNo c m.page) + 256 * unitFrom n ((s.rankIn c m.group).getD 0)
    (s.openStaging c m.group m.page = none →
      exec (.slice m.id) s = .next { s with msgs := s.msgs.map (fun (q : Msg) => if q.id = m.id then { q with held := true } else q) }) ∧
    (s.stagingOpen c m.group m.page = true → NoneDown s c m.group → (∃ q, q < n ∧ q ≠ m.rank ∧ s.word (a + 40) / 2 ^ q % 2 = 0) →
      ∃ t, exec (.slice m.id) s = .next t ∧
        (∀ k, k < m.data.length / 16 → slotOf (t.memRead (at_ + 16 * k) 16) =
          (slotOf (s.memRead (at_ + 16 * k) 16)).join (slotOf ((m.data.drop (16 * k)).take 16))) ∧
        t.word (a + 32) = (s.word (a + 32) + 1) % 2 ^ 64 ∧ t.word (a + 40) = s.word (a + 40) ||| 2 ^ m.rank ∧
        (∀ x, x < a + 32 ∨ a + 48 ≤ x → x < at_ ∨ at_ + m.data.length ≤ x → FMap.look t.mem Memory.unlisted x = FMap.look s.mem Memory.unlisted x) ∧
        Replaced s t m [(7, c, m.src, m.group, m.page, (s.rankIn c m.group).getD 0, false, false, [])])) ∧
  (∀ (s : State) (m : Msg) (w : DWord) (l : Leaf), Pending s m 7 → FMap.find (s.ctx m.dst).sacks m.page = some w →
    let c := m.dst
    ((s.ctx c).running = false → ∃ t, exec (.sack m.id) s = .next t ∧ Replaced s t m [] ∧ KeptFor s t m) ∧
    ((s.ctx c).running = true → w &&& ~~~bitMask m.rank ≠ 0 → ∃ t, exec (.sack m.id) s = .next t ∧ Replaced s t m [] ∧ t.mem = s.mem ∧
      FMap.find (t.ctx c).sacks m.page = some (w &&& ~~~bitMask m.rank)) ∧
    ((s.ctx c).running = true → w &&& ~~~bitMask m.rank = 0 → ShardPage s c m.page l → leafSst l.word = 4 → RecordApart l (s.recordAt c m.group m.page) →
      s.stagingOpen c m.group m.page = false →
      ∃ t, exec (.sack m.id) s = .next t ∧ Replaced s t m [] ∧ SstPut s t l 0 (fun _ => False) ∧ FMap.find (t.ctx c).sacks m.page = none)) ∧
  (∀ (s : State) (m : Msg), Pending s m 8 → ∃ t, exec (.down m.id) s = .next t ∧
    ∀ g r, g < 64 → r < (s.ctx m.dst).groupN g → (s.ctx m.dst).member g r % 64 = m.page → (t.ctx m.dst).down g r = true) ∧
  (∀ (s : State) (c va : Nat) (l : Leaf), ShardPage s c (pageOf va) l → (s.ctx c).running = true → pageOf va ∉ (s.ctx c).props → s.pageBusy c (pageOf va) = false →
    (leafSst l.word = 2 → ∃ t, exec (.pressureEviction c va) s = .next t ∧ GivenUp s t c (leafGroup l.word) (pageOf va) l) ∧
    (leafSst l.word = 3 → ∃ t, exec (.pressureEviction c va) s = .next t ∧ Reducing s t c (leafGroup l.word) (pageOf va) l))

/-- Where packets of a queue may begin, and the turn is its: a packet of level 0 that lies fetched, within the tail,
and breaks no rule is the next one; a faulty next packet stops the queue with its code and EOFF, whichever packet
event happens, once it may begin. A packet that begins, and does not end its object, leaves the queue past it: NOP
changes nothing else; FETCHFENCE forgets what is fetched; INDIRECT and GRAPH enter their object, a non-reentrant graph
noting its replay; LOOP enters its body, or skips it with a count of 0; PRED in jump form skips where its condition
fails, in wait form polls until it holds; COPY copies its bytes (one piece within 4 KiB); SIGNAL writes its value and
posts its record, or waits while the log is full. PRED_POLL reads a waiting PRED's word again after 256 base-die
cycles, though its queue has stopped, and skips by whole packets. SHAWM_FETCH fetches the bytes at the place of one of
the queue's levels. A write of QTAIL out of range stops a running queue with code 6, and so does a size that leaves it
out of range. A write of the control word starts, restarts or stops a queue; that one started anew keeps the launches,
the waiting PRED and the records of packets begun before is the model's reading (notes/assumptions/73.md) (R383 to
R393, R406, R407). -/
def Obligations.CommandPacketsComplete : Prop :=
  (∀ (s : State) (c q : Nat) (ws : List DWord), QueueTurns s c q → FetchedPacket (queueAt s c q) ws → s.nextPacket c q = .packet ws s) ∧
  (∀ (i : Instr) (s : State) (c q kind k : Nat) (early : Bool), packetOf i = some (c, q, kind) → QueueTurns s c q → s.firstQueue c q = true → (queueAt s c q).signal = none →
    s.nextPacket c q = .error k early →
    (early = true ∨ s.queueBusy c q = false → ∃ u, exec i s = .next u ∧ Stopped (queueAt s c q) (queueAt u c q) k (queueAt s c q).origin) ∧
    (early = false → s.queueBusy c q = true → exec i s = .next s)) ∧
  (∀ (i : Instr) (s t : State) (c q kind : Nat) (ws : List DWord), packetOf i = some (c, q, kind) → PacketBegins s c q kind ws t →
    (queueAt s c q).signal = none →
    let x := queueAt t c q
    let n := 8 * ws.length
    let w := ws.getD 0 0
    let va := (ws.getD 1 0).toNat
    let t₀ := taken s t c q
    let u₀ := pastPacket t₀ c q n
    Unfinished x n →
    (kind = 0 → ∃ u, exec i s = .next u ∧ OnlyQueue t₀ u c q ∧ Past x (queueAt u c q) n) ∧
    (kind = 6 → ∃ u, exec i s = .next u ∧ OnlyQueue t₀ u c q ∧ Past x (queueAt u c q) n ∧ (queueAt u c q).fetched = []) ∧
    (kind = 3 → ∃ u z h, exec i s = .next u ∧ OnlyQueue t₀ u c q ∧ Past x z n ∧ queueAt u c q = { z with head := h, levels :=
      ({ kind := 1, inQueue := false, start := va, len := pkArg w } :: z.levels) }) ∧
    (kind = 5 → va = 0 → ∃ u z, exec i s = .next u ∧ OnlyQueue t₀ u c q ∧ Past x z n ∧ queueAt u c q = { z with skip := pkArg w }) ∧
    (kind = 5 → va ≠ 0 → ∃ u z h, exec i s = .next u ∧ OnlyQueue t₀ u c q ∧ Past x z (n + pkArg w) ∧ queueAt u c q = { z with head := h, levels :=
      ({ kind := 0, inQueue := x.here.1, start := x.here.2.1 + 16, len := pkArg w, left := va,
         patches := (match x.levels with
           | [] => []
           | l :: _ => l.patches) } :: z.levels) }) ∧
    (∀ l v, kind = 7 → u₀.shawmBytes c va 32 = .ok l v →
      let d := fun k => (wordOf l k).toNat
      let p := (List.range (pkArg w % 32)).map (fun j => ((ws.getD (2 + 2 * j) 0).toNat, ws.getD (3 + 2 * j) 0))
      graphFaults ((List.range 4).map (wordOf l)) p = [] →
      d 2 % 2 = 1 ∨ ((∀ r, r ∈ v.activeReplays (partOfCtx c) → r.desc ≠ va) ∧ (v.activeReplays (partOfCtx c)).length < 64) →
      ∃ u z h, exec i s = .next u ∧ u.mem = v.mem ∧ Past x z n ∧ queueAt u c q = { z with head := h, levels :=
        ({ kind := 2, inQueue := false, start := d 0, len := d 1, patches := (p.map (fun e => (d 0 + e.1, e.2))),
           desc := (if d 2 % 2 = 1 then none else some va) } :: z.levels) } ∧
        (d 2 % 2 = 0 → ∃ r, r ∈ (u.part (partOfCtx c)).replays ∧ r.desc = va ∧ r.ctx = c ∧ r.q = q)) ∧
    (∀ v a, kind = 4 → u₀.readVa c va = .ok a v →
      let holds := predHolds (pkArg w % 8) (a &&& ws.getD 3 0) (ws.getD 2 0) = true
      ∃ u z, exec i s = .next u ∧ u.mem = v.mem ∧ Past x z n ∧
        (holds → queueAt u c q = { z with polling := none }) ∧
        (¬ holds → pkFlags w ≠ 0 → queueAt u c q = { z with skip := pkArg w / 2 ^ 16 }) ∧
        (¬ holds → pkFlags w = 0 → queueAt u c q = { z with polling :=
          (some { va := va, value := ws.getD 2 0, mask := ws.getD 3 0, cmp := pkArg w % 8, since := s.cycle, origin := x.origin }) })) ∧
    (kind = 2 → pkArg w = 0 → ∃ u, exec i s = .next u ∧ u.mem = t.mem ∧ Past x (queueAt u c q) n) ∧
    (∀ pa pd v y, kind = 2 → pkArg w ≠ 0 → va % 4096 + pkArg w ≤ 4096 → (ws.getD 2 0).toNat % 4096 + pkArg w ≤ 4096 →
      u₀.collReach c va .src (pkArg w) = .ok pa v → v.target (some c) pa (pkArg w) = .mem → v.memBad pa (pkArg w) = none →
      v.collReach c (ws.getD 2 0).toNat .dst (pkArg w) = .ok pd y → y.target (some c) pd (pkArg w) = .mem →
      ∃ u, exec i s = .next u ∧ Past x (queueAt u c q) n ∧
        Stored t.mem u.mem Memory.unlisted pd (pkArg w) (natOfBytes (t.memRead pa (pkArg w)))) ∧
    (∀ pa v, kind = 8 → u₀.shawmReach c va .st 8 = .ok pa v →
      let y := v.memWrite pa (bytesOfNat 8 (ws.getD 2 0).toNat)
      let f := v.fn c
      (pkFlags w = 0 → ∃ u, exec i s = .next u ∧ Past x (queueAt u c q) n ∧ Stored t.mem u.mem Memory.unlisted pa 8 (ws.getD 2 0).toNat) ∧
      (pkFlags w ≠ 0 → f.closed = false → f.len = true → (f.ltail - f.lhead).toNat = 4096 * 2 ^ f.lsize →
        ∃ u z, exec i s = .next u ∧ Past x z n ∧ u.mem = y.mem ∧ queueAt u c q = { z with signal := (some (pkArg w, ws.getD 2 0)) }) ∧
      (∀ pl e, pkFlags w ≠ 0 → f.closed = false → f.len = true → (f.ltail - f.lhead).toNat ≠ 4096 * 2 ^ f.lsize →
        y.shawmReach c (f.lbase + f.ltail.toNat % (4096 * 2 ^ f.lsize)) .st 16 = .ok pl e →
        ∃ u, exec i s = .next u ∧ Past x (queueAt u c q) n ∧ (u.fn c).ltail = f.ltail + 16 ∧ (u.fn c).seq = f.seq + 1 ∧
          Stored y.mem u.mem Memory.unlisted pl 16 (f.seq % 2 ^ 32 * 2 ^ 32 + pkArg w % 2 ^ 16 * 2 ^ 16 + q * 2 ^ 8 +
            2 ^ 64 * (ws.getD 2 0).toNat)))) ∧
  (∀ (s : State) (c q : Nat) (p : Poll) (v : State) (a : DWord), s.pollTurns c = true → (queueAt s c q).polling = some p →
    p.since + 231 ≤ s.cycle → s.readVa c p.va = .ok a v →
    ∃ u, exec (.predPoll c q) s = .next u ∧ u.mem = v.mem ∧
      queueAt u c q = { queueAt s c q with polling := (if predHolds p.cmp (a &&& p.mask) p.value then none else some { p with since := s.cycle }) }) ∧
  (∀ (s v : State) (c q n : Nat) (w : DWord), QueueTurns s c q → (queueAt s c q).polling = none → pkWords w = some n → (queueAt s c q).skip = 8 * n → 0 < n → Unfinished (queueAt s c q) (8 * n) →
    (queueAt s c q).here.1 = false ∨ (queueAt s c q).here.2.1 + 8 * n ≤ (queueAt s c q).tail.toNat →
    s.fetchWord c q (queueAt s c q).here.1 (queueAt s c q).here.2.1 = .ok w v →
    ∃ u, exec (.predPoll c q) s = .next u ∧ u.mem = v.mem ∧ (queueAt u c q).skip = 0 ∧
      (queueAt u c q).here = ((queueAt s c q).here.1, (queueAt s c q).here.2.1 + 8 * n, (queueAt s c q).here.2.2)) ∧
  (∀ (s v : State) (c q bytes : Nat) (w : DWord), QueueTurns s c q → (queueAt s c q).owes = [] → 8 ≤ bytes →
    let y := ({ queueAt s c q with levels := (queueAt s c q).levels.drop (Config.fetchLevel s.tick % ((queueAt s c q).levels.length + 1)) } : Queue)
    let h := y.here
    h.2.1 + 8 ≤ (if h.1 then min (queueAt s c q).tail.toNat (h.2.2.getD (queueAt s c q).tail.toNat) else h.2.2.getD 0) →
    s.readVa c ((queueAt s c q).va h.1 h.2.1) = .ok w v →
    ∃ u, exec (.shawmFetch c q bytes) s = .next u ∧
      ∀ j, j < 8 → FMap.find (queueAt u c q).fetched (fetchKey (depthOf y.levels) (h.2.1 + j)) = some ((w >>> (8 * j)).truncate 8)) ∧
  (∀ (s : State) (c q v : Nat), q < 8 →
    let x := queueAt s c q
    let ahead := (BitVec.ofNat 64 v - x.head).toNat
    let bad := x.en = true ∧ x.err = false ∧ (2 ^ 63 ≤ ahead ∨ 4096 * 2 ^ x.size < ahead)
    (bad → ∃ u, exec (.qtailWrite c q v) s = .next u ∧ Stopped { x with tail := BitVec.ofNat 64 v } (queueAt u c q) 6 x.pos) ∧
    (¬ bad → ∃ u, exec (.qtailWrite c q v) s = .next u ∧ OnlyQueue s u c q ∧ queueAt u c q = { x with tail := BitVec.ofNat 64 v })) ∧
  (∀ (s : State) (c q v : Nat), q < 8 →
    let x := queueAt s c q
    (x.en = false → v % 2 = 1 → v / 2 ^ 8 % 16 < 13 → ∃ u, exec (.queueEnable c q v) s = .next u ∧ OnlyQueue s u c q ∧
      queueAt u c q = { base := v / 2 ^ 12 % 2 ^ 52 * 4096, size := v / 2 ^ 8 % 16, en := true,
                              owes := x.owes, signal := x.signal, sigAt := x.sigAt, open_ := x.open_, polling := x.polling }) ∧
    (x.en = false → v % 2 = 1 → 13 ≤ v / 2 ^ 8 % 16 → ∃ u, exec (.queueEnable c q v) s = .next u ∧ (queueAt u c q).err = true ∧ (queueAt u c q).code = 1) ∧
    (x.en = true → v % 2 = 0 → ∃ u, exec (.queueEnable c q v) s = .next u ∧ OnlyQueue s u c q ∧
      queueAt u c q = { x with en := false, size := v / 2 ^ 8 % 16 }) ∧
    (x.en = true → v % 2 = 1 → v / 2 ^ 8 % 16 < 13 →
      let ahead := (x.tail - x.head).toNat
      let inside := ahead < 2 ^ 63 ∧ ahead ≤ 4096 * 2 ^ (v / 2 ^ 8 % 16)
      (x.err = true ∨ inside → ∃ u, exec (.queueEnable c q v) s = .next u ∧ OnlyQueue s u c q ∧ queueAt u c q = { x with size := v / 2 ^ 8 % 16 }) ∧
      (x.err = false → ¬ inside → ∃ u, exec (.queueEnable c q v) s = .next u ∧
        Stopped { x with size := v / 2 ^ 8 % 16 } (queueAt u c q) 6 x.pos)) ∧
    (x.en = true → x.err = false → v % 2 = 1 → 13 ≤ v / 2 ^ 8 % 16 → ∃ u, exec (.queueEnable c q v) s = .next u ∧
      (queueAt u c q).err = true ∧ (queueAt u c q).code = 1))

/-- A LAUNCH that begins with a reachable or absent completion pointer and a readable header: where no word breaks
R394 to R396 the launch joins its queue's open ones with its record and header, otherwise no launch is made and the
completion record, if one is asked for, holds status 2 and the lowest failing word; a misaligned pointer stops the
queue with code 2. BLOCK_PLACEMENT of the launch whose turn it is places its next block where the plan for the core
puts it: the bundles start with their sizes, registers, sets and barrier as R62, R68, R69, R82 and R83 say, and a
core's first block of the launch brings its tensor identifiers; where no core can hold it the block waits. fetchwk
checks its mailbox, makes its line absent and hands off; the distributor withdraws the next block, if one is left, and
the mailbox lands with its number and coordinates, or all ones. LAUNCH_COMPLETE of a launch that is over writes
exactly its completion record and closes it (R394 to R400). -/
def Obligations.LaunchesComplete : Prop :=
  (∀ (s t : State) (c q : Nat) (ws : List DWord), PacketBegins s c q 1 ws t → (queueAt s c q).signal = none → Unfinished (queueAt t c q) (8 * ws.length) →
    let x := queueAt t c q
    let y := askedLaunch x c q ws
    let u₀ := pastPacket (taken s t c q) c q (8 * ws.length)
    (y.word 7 % 32 ≠ 0 → ∃ u, exec (.launch c q) s = .next u ∧ (queueAt u c q).err = true ∧ (queueAt u c q).code = 2 ∧ (queueAt u c q).eoff = x.origin % 2 ^ 56 ∧
      u.launches = s.launches) ∧
    (∀ (z : Launch) (v e : State) (bad readable : Bool), y.word 7 % 32 = 0 →
      (y.word 7 = 0 ∧ v = u₀) ∨ (y.word 7 ≠ 0 ∧ ∃ pa, u₀.shawmReach c (y.word 7) .st 32 = .ok pa v) → v.readHeader y = .ok (z, bad, readable, e) →
      let faults := e.recordFaults z ++ (if readable then z.headerFaults bad else [0])
      (faults = [] → ∃ u n, exec (.launch c q) s = .next u ∧ u.mem = e.mem ∧
        u.launch e.nextId = { z with collSeq := n, codeBase := z.word 0 + (64 + 24 * (z.head 3 % 2 ^ 9) + 63) / 64 * 64 } ∧
        (queueAt u c q).open_ = x.open_ ++ [e.nextId] ∧ ∀ k, k ≠ e.nextId → u.launch k = s.launch k) ∧
      (faults ≠ [] → y.word 7 = 0 → ∃ u, exec (.launch c q) s = .next u ∧ u.mem = e.mem ∧ u.launches = s.launches ∧ Past x (queueAt u c q) (8 * ws.length)) ∧
      (∀ pb k, faults ≠ [] → y.word 7 ≠ 0 → e.shawmReach c (y.word 7) .st 32 = .ok pb k →
        ∃ u, exec (.launch c q) s = .next u ∧ u.launches = s.launches ∧ Past x (queueAt u c q) (8 * ws.length) ∧
          Stored e.mem u.mem Memory.unlisted pb 32 (completionNumber y 2 (faults.foldl min 255))))) ∧
  (∀ (s : State) (lid core : Nat),
    let x := s.launch lid
    (s.ctx x.ctx).running = true → s.nextLaunch x.ctx = some lid → core < s.coresOf (partOfCtx x.ctx) →
    (∀ keys, s.planAt x core = some keys → keys ≠ [] → keys.Nodup → keys.length = x.bundles →
      ∃ t y, exec (.blockPlacement lid core) s = .next t ∧ Placed s t lid keys y ∧
        ∀ ck, ck ∈ keys.map coreOfBundle → ck ∉ x.seen → (x.tids.map Prod.fst).Nodup → ∀ e, e ∈ x.tids → FMap.look (t.core ck).tid 0 e.1 = e.2) ∧
    (s.planAt x core = none → s.anyPlan x = true → exec (.blockPlacement lid core) s = .next s) ∧
    (s.anyPlan x = false → exec (.blockPlacement lid core) s = .next { s with launches := FMap.put s.launches lid { x with waiting := true } })) ∧
  (∀ (x : Enc) (s : State) (bk : Nat), MayHandOff s bk (rowOf (.fetchwk x)) x → MemoryAdmitted s bk →
    let ck := coreOfBundle bk
    let m := ((s.bundle bk).sreg x.a.toNat).toNat
    (m % 16 ≠ 0 → exec (.fetchwk x) s = .next (s.trapSync bk 0x03 m)) ∧
    (m % 16 = 0 → (s.core ck).spg * 65536 < m + 16 → exec (.fetchwk x) s = .next (s.trapSync bk 0x05 m)) ∧
    (m % 16 = 0 → m + 16 ≤ (s.core ck).spg * 65536 → ∃ (o : Op) (c : Core) (ls : FMap Launch),
      exec (.fetchwk x) s = .next { withOp s bk x o with cores := FMap.put s.cores ck c, launches := ls } ∧ StartedBy s bk x o ∧ o.cls = 11 ∧ o.opn = 9 ∧
        o.early = true ∧ o.ws = [] ∧ o.fin = .setV ck (m / 256) (m / 256) ∧ c = { s.core ck with tagV := c.tagV } ∧
        o.reqs = [{ uid := 0, t := 64, stage := .home, addr := m, n := 16, act := .sys 11 (s.bundle bk).blk 0 0 }] ∧
        (∀ n, FMap.look c.tagV true n = (FMap.look (s.core ck).tagV true n && n != m / 256)) ∧
        (∀ k y, FMap.find (s.launch (s.bundle bk).launch).live (s.bundle bk).blk = some y → k ∈ y.claims →
          FMap.look (FMap.look ls {} (s.bundle bk).launch).ended false k = true ∧ k ∉ (FMap.look ls {} (s.bundle bk).launch).drawn))) ∧
  (∀ (s : State) (o : Op) (r : Req) (blk z : Nat), InProgress s o r → r.act = .sys 11 blk 0 z → r.stage = .home → s.runs o.bk = true →
    let x := s.launch o.launch
    let left := x.killed = false ∧ x.complete = false ∧ x.next < x.blocks
    (left → ∃ t o', exec (.homePerform o.id r.uid) s = .next t ∧ (t.launch o.launch).next = x.next + 1 ∧ t.op? o.id = some o' ∧
      o'.reqs = o.reqs.map (fun q => if q.uid = r.uid then { r with stage := .fabric, act := .sys 11 blk 1 (x.next + 1) } else q) ∧ t.pool = s.pool) ∧
    (¬ left → ∃ t o', exec (.homePerform o.id r.uid) s = .next t ∧ (t.launch o.launch).next = x.next ∧ t.op? o.id = some o' ∧
      o'.reqs = o.reqs.map (fun q => if q.uid = r.uid then { r with stage := .fabric, act := .sys 11 blk 1 0 } else q) ∧ t.pool = s.pool)) ∧
  (∀ (s : State) (o : Op) (r : Req) (blk k : Nat), InProgress s o r → r.act = .sys 11 blk 1 k → r.stage = .fabric →
    ∃ t, exec (.homePerform o.id r.uid) s = .next t ∧ Served t o.id r.uid ∧ t.mem = s.mem ∧
      Stored s.pool t.pool 0 (spKey s (coreOfBundle o.bk) r.addr) 16 (mailboxWord (s.launch o.launch) k)) ∧
  (∀ (s : State) (lid : Nat), s.launchOver lid = true →
    let x := s.launch lid
    let closed := fun (t : State) => exec (.launchComplete lid) s = .next t ∧ (t.launch lid).complete = true ∧ lid ∉ (queueAt t x.ctx x.q).open_
    (x.word 7 = 0 → ∃ t, closed t ∧ t.mem = s.mem) ∧
    (∀ pa v, x.word 7 ≠ 0 → s.shawmReach x.ctx (x.word 7) .st 32 = .ok pa v →
      ∃ t, closed t ∧ Stored s.mem t.mem Memory.unlisted pa 32 (completionNumber x x.status x.detail)))

/-- On a compute core lease.cas and measure trap 0x01. For a bundle that may hand off, lease.cas at an address that is
not the lease's traps 0x05 with it; otherwise each hands off one request with its operands. lease.cas is performed
with nothing older of its core in progress: where the lease reads as the wanted value and has lapsed or is the core's
own, it becomes the core's with an expiry 14,400,000 cycles on, and S[d] and S[d+1] are owed the new word and 1;
otherwise it is unchanged, and they are owed the word found and 0; nothing else of the package changes. measure, with
the earlier accesses of its core performed, makes its target SHA-384 of the 48 bytes of the target and of the SHA-384
of the bytes it reads; the first byte that faults is reported, and the target unchanged. wfe on a compute core or with
a mask of 0 traps 0x01; otherwise the core parks on its mask, or, where an event of the mask stands, runs on with
those events in S[d], and they are cleared (R18, R431 to R433, R436, R437). That measure acts in one step is the
model's choice (notes/assumptions/28.md). -/
def Obligations.FirmwareInstructionsComplete : Prop :=
  (∀ (i : Instr) (x : Enc) (s : State) (bk : Nat), i = .leaseCas x ∨ i = .measure x → Passes s bk (rowOf i) x → isFw bk = false →
    exec i s = .next (s.trapSync bk 0x01 0)) ∧
  (∀ (x : Enc) (s : State) (bk : Nat), MayHandOff s bk (rowOf (.leaseCas x)) x →
    let b := s.bundle bk
    let a := (b.sreg x.a.toNat).toNat
    (isFw bk = true → a ≠ 0x3F0000000000 → exec (.leaseCas x) s = .next (s.trapSync bk 0x05 a)) ∧
    (isFw bk = true → a = 0x3F0000000000 →
      ∃ o, exec (.leaseCas x) s = .next (withOp s bk x o) ∧ StartedBy s bk x o ∧ o.cls = 12 ∧ o.opn = 0x10 ∧ o.ord = 4 ∧ o.ws = [] ∧ o.fin = .none ∧
        o.reqs = [{ uid := 0, t := 64, stage := .home, addr := a, n := 8, act := .sys 10 (b.sreg x.b.toNat).toNat 0 x.d.toNat }])) ∧
  (∀ (s : State) (o : Op) (r : Req) (want k d : Nat), InProgress s o r → r.act = .sys 10 want k d → r.stage = .home → s.runs o.bk = true →
    (∀ p, p ∈ s.ops → p.ser = o.ser → o.id ≤ p.id) →
    let pkg := pkgOfBundle o.bk
    let old := (s.pkg pkg).lease
    let me := (o.bk - fwBase) % 16
    let now := s.cycle % 2 ^ 48
    let wins := old.toNat = want ∧ (Lapsed old now ∨ old.toNat / 2 ^ 59 = me)
    ∃ t w, exec (.homePerform o.id r.uid) s = .next t ∧ Served t o.id r.uid ∧ t.mem = s.mem ∧ t.pool = s.pool ∧
      t.pkgs = FMap.put s.pkgs pkg { s.pkg pkg with lease := w } ∧
      (wins → w = BitVec.ofNat 64 (me * 2 ^ 59 + (now + 14400000) % 2 ^ 48) ∧ Owes t o { t := 64, ws := [.s d w, .s (d + 1) 1] }) ∧
      (¬ wins → w = old ∧ Owes t o { t := 64, ws := [.s d w, .s (d + 1) 0] })) ∧
  (∀ (x : Enc) (s : State) (bk : Nat), MayHandOff s bk (rowOf (.measure x)) x →
    let b := s.bundle bk
    let named := if x.form = .extended then x.w2.toNat / 2 ^ 16 else 0
    (isFw bk = true →
      ∃ o, exec (.measure x) s = .next (withOp s bk x o) ∧ StartedBy s bk x o ∧ o.cls = 12 ∧ o.opn = 0x11 ∧ o.ws = [] ∧ o.fin = .none ∧
        o.reqs = [{ uid := 0, t := 64, stage := .home, addr := (b.sreg x.a.toNat).toNat, n := 1,
                    act := .sys 13 ((b.sreg x.b.toNat).toNat % 2 ^ 32) (if named = 0 then x.d.toNat else 16 + named % 2 ^ 8) 0 }])) ∧
  (∀ (s : State) (o : Op) (r : Req) (n target k : Nat), InProgress s o r → r.act = .sys 13 n target k → r.stage = .home → s.runs o.bk = true → o.cls = 12 →
    s.unperformed o.ser o.id (widthMask 64) = false →
    let p := s.pkg (pkgOfBundle o.bk)
    (∀ l : List Byte, l.length = n → (∀ j, j < n → s.measuredByte o (r.addr + j) = .ok (l.getD j 0)) →
      ∃ t m f, exec (.homePerform o.id r.uid) s = .next t ∧ Served t o.id r.uid ∧ t.mem = s.mem ∧ t.pool = s.pool ∧ t.reports = s.reports ∧
        t.pkg (pkgOfBundle o.bk) = { p with meas := m, fmeas := f, hbm := (t.pkg (pkgOfBundle o.bk)).hbm } ∧
        (∀ q, q ≠ pkgOfBundle o.bk → t.pkg q = { s.pkg q with hbm := (t.pkg q).hbm }) ∧
        (∀ j, FMap.look m 0 j = if target < 16 ∧ j = target
          then BitVec.ofNat 384 (natOfBytes (sha384 (bytesOfNat 48 (FMap.look p.meas 0 j).toNat ++ sha384 l))) else FMap.look p.meas 0 j) ∧
        ∀ j, FMap.look f 0 j = if 16 ≤ target ∧ j = target - 16
          then BitVec.ofNat 384 (natOfBytes (sha384 (bytesOfNat 48 (FMap.look p.fmeas 0 j).toNat ++ sha384 l))) else FMap.look p.fmeas 0 j) ∧
    (∀ j code detail, j < n → (∀ i, i < j → ∃ v, s.measuredByte o (r.addr + i) = .ok v) → s.measuredByte o (r.addr + j) = .error (code, detail) →
      ∃ t, exec (.homePerform o.id r.uid) s = .next t ∧ Served t o.id r.uid ∧ t.mem = s.mem ∧ t.pkgs = s.pkgs ∧
        Reported s t o r code (engineOf code) (BitVec.ofNat 64 detail))) ∧
  (∀ (x : Enc) (s : State) (bk : Nat), Passes s bk (rowOf (.wfe x)) x →
    let b := s.bundle bk
    let mask := b.sreg x.a.toNat
    let pkg := pkgOfBundle bk
    let n := (bk - fwBase) % 16
    let ev := FMap.look (s.pkg pkg).evt 0 n
    let goes := fun (c : Cond) => (pastUnit b x).map (fun (q : Nat × Thread) => if q.1 = 0 then (q.1, { q.2 with cond := c }) else q)
    ((isFw bk = false ∨ mask = 0) → exec (.wfe x) s = .next (s.trapSync bk 0x01 0)) ∧
    (isFw bk = true → mask ≠ 0 → ev &&& mask = 0 →
      ∃ c, exec (.wfe x) s = .next (after s bk c) ∧ SameButThreads b c ∧ c.onChosenPath ∧ c.thr = goes (.event x.d.toNat mask)) ∧
    (isFw bk = true → ev &&& mask ≠ 0 → (FMap.find b.thr 0).isSome = true →
      ∃ c e, exec (.wfe x) s = .next { after s bk c with pkgs := FMap.put s.pkgs pkg { s.pkg pkg with evt := e } } ∧
        (∀ k, FMap.look e 0 k = if k = n then ev &&& ~~~mask else FMap.look (s.pkg pkg).evt 0 k) ∧
        c = { b with s := c.s, thr := c.thr, active := c.active } ∧ c.onChosenPath ∧ c.thr = goes .running ∧
        ∀ k, c.sreg k = if k = x.d.toNat then ev &&& mask else b.sreg k))

/-- FW_TIMER of a core of a package that is on, with a 2 ms interval to count, counts it and sets EVT bit 0, and the
leader's counts its reads of its neighbours' leases that fail one after another, up to two; without one it changes
nothing. DOOR sets EVT bit 16 + n of the core for a firmware core n that writes it, and bit 2 for any other agent.
EVT_CLEAR clears the bits written, and nothing else. FWSTAT_RUN starts a halted core, with FAULT kept, HALT cleared
and RUN set, and changes nothing of another. Setting a bit that a core's wfe waits for wakes it, with the bits of its
mask in its register and cleared. LEASE_LAPSE of a package that is on and whose lease has lapsed sets EVT bit 1 of its
sixteen cores, and every context of a package of which some context's rank stands next to that package in a group sets
DN of each rank of the package and sends DOWN to every member of each group that lists it; of any other package, the
contexts whose package could not read its lease twice do so, and where there is none it changes nothing (R375, R430 to
R434, R437, R438). When the leader reads is the model's choice (notes/assumptions/99.md). -/
def Obligations.FirmwareEventsComplete : Prop :=
  (∀ (s : State) (core : Nat),
    let p := s.pkg (core / 16)
    let k := FMap.look p.timer 0 (core % 16)
    ((FMap.find s.pkgs (core / 16) = none ∨ s.cycle / 3600000 ≤ k) → exec (.fwTimer core) s = .next s) ∧
    (FMap.find s.pkgs (core / 16) ≠ none → k < s.cycle / 3600000 →
      ∃ u m,
        EventsSet { s with pkgs := FMap.put s.pkgs (core / 16) { p with timer := FMap.put p.timer (core % 16) (k + 1) } } u (core / 16) (core % 16) 1 ∧
        exec (.fwTimer core) s = .next (if p.lease.toNat / 2 ^ 59 = core % 16
          then { u with pkgs := FMap.put u.pkgs (core / 16) { u.pkg (core / 16) with missed := m } } else u) ∧
        ∀ q, (q ∉ s.nearPackages (core / 16) → FMap.look m 0 q = FMap.look p.missed 0 q) ∧
          (q ∈ s.nearPackages (core / 16) →
            (FMap.find s.pkgs q = none ∨ (∀ e, e ∈ p.links → e.2.inService = false) → FMap.look m 0 q = min 2 (FMap.look p.missed 0 q + 1)) ∧
            (FMap.find s.pkgs q ≠ none → (∃ e, e ∈ p.links ∧ e.2.inService = true) → FMap.look m 0 q = 0)))) ∧
  (∀ (s : State) (agent core : Nat), ∃ t, exec (.door agent core) s = .next t ∧
    EventsSet s t (core / 16) (core % 16) (BitVec.ofNat 64 (2 ^ (if agent < 16 then 16 + agent else 2)))) ∧
  (∀ (s : State) (core mask : Nat), ∃ e,
    exec (.evtClear core mask) s = .next { s with pkgs := FMap.put s.pkgs (core / 16) { s.pkg (core / 16) with evt := e } } ∧
    ∀ k, FMap.look e 0 k = if k = core % 16 then FMap.look (s.pkg (core / 16)).evt 0 k &&& ~~~BitVec.ofNat 64 mask else FMap.look (s.pkg (core / 16)).evt 0 k) ∧
  (∀ (s : State) (core : Nat),
    let p := s.pkg (core / 16)
    let st := FMap.look p.fwstat 0 (core % 16)
    let bk := fwKey (core / 16) (core % 16)
    (st / 2 % 2 = 0 → exec (.fwstatRun core) s = .next s) ∧
    (st / 2 % 2 = 1 → ∃ c f, exec (.fwstatRun core) s = .next { s with
          pkgs := FMap.put s.pkgs (core / 16) { p with fwstat := f }, bundles := FMap.put s.bundles bk c } ∧
      (∀ k, FMap.look f 0 k = if k = core % 16 then st / 4 % 2 * 4 + 1 else FMap.look p.fwstat 0 k) ∧
      SameButThreads (s.bundle bk) c ∧ c.onChosenPath ∧
      c.thr = (s.bundle bk).thr.map (fun (q : Nat × Thread) => if q.1 = 0 then (q.1, { q.2 with cond := .running }) else q))) ∧
  (∀ (s : State) (pkg : Nat),
    let told := fun (t : State) (c g : Nat) => ∀ q, q < (s.ctx c).groupN g →
      ∃ m, m ∈ t.msgs ∧ m.kind = 8 ∧ m.src = c ∧ m.dst = memberCtx ((s.ctx c).member g q) ∧ m.group = g ∧ m.page = pkg
    (FMap.find s.pkgs pkg = none ∨ ¬ Lapsed (s.pkg pkg).lease (s.cycle % 2 ^ 48) →
      ((∀ e, e ∈ s.ctxs → FMap.look (s.pkg (pkgOfCtx e.1)).missed 0 pkg < 2) → exec (.leaseLapse pkg) s = .next s) ∧
      ∃ t, exec (.leaseLapse pkg) s = .next t ∧ ∀ e g r, e ∈ s.ctxs → s.ctx e.1 = e.2 → 2 ≤ FMap.look (s.pkg (pkgOfCtx e.1)).missed 0 pkg →
        Lists s e.1 pkg g r → e.2.down g r = false → (t.ctx e.1).down g r = true ∧ told t e.1 g) ∧
    (FMap.find s.pkgs pkg ≠ none → Lapsed (s.pkg pkg).lease (s.cycle % 2 ^ 48) →
      ∃ t u, exec (.leaseLapse pkg) s = .next t ∧ EventsSetAll s u pkg 2 ∧ (∀ q, (t.pkg q).evt = (u.pkg q).evt) ∧ t.bundles = u.bundles ∧
        ∀ c e, FMap.find s.ctxs c ≠ none → FMap.find s.ctxs e ≠ none → NextTo s e pkg → pkgOfCtx e = pkgOfCtx c → ∀ g r, Lists s c pkg g r →
          (t.ctx c).down g r = true ∧ told t c g))

/-- OCTL_ARM and OCTL_RESET_FORCE: of an agent that is no firmware core, or while BUSY, the write is counted in DENY
and changes nothing else; otherwise BUSY stands with the command. The cell's home performs the command that stands,
once the earlier writes of the package's firmware cores are performed: an arm acts on an UNARMED cell as ARMW says,
OPEN, FIRST with a count or NAMED, and otherwise leaves it and sets ERR; a forced reset clears a cell of any legal
state, and leaves one of states 6 and 7 with ERR; BUSY is 0 and ERR is written. HANDO of the owner is written; of any
other agent it is counted. SNAPCTL_TRIG and SNAPCTL_RELEASE of a firmware core or the owner latch with source 3 or
release, KDIS unchanged; of others they are counted. SNAP_FABRIC_TRIGGER latches with source 2. A held snapshot is
joined. GO with bit 0 clear is only written; with it set the report stands in the mailbox at 0x100: nonce,
measurements, GO, the function's measurement or zeros, the identity and the signature over them, and bit 0 reads 0
(R441 to R445). That the report stands at once is the model's choice (notes/assumptions/13.md), and so is that a
command waits for the writes of all firmware cores (notes/assumptions/65.md) and that HANDO of a firmware core is
counted (notes/assumptions/43.md). -/
def Obligations.ManagementWritesComplete : Prop :=
  (∀ (i : Instr) (s : State) (pkg agent cmd : Nat), (i = .octlArm pkg agent ∧ cmd = 1) ∨ (i = .octlResetForce pkg agent ∧ cmd = 2) → agent ≠ 2 ^ 21 →
    let p := s.pkg pkg
    ((16 ≤ agent ∨ p.octlBusy = true) → exec i s = .next (refusedWrite s pkg)) ∧
    (agent < 16 → p.octlBusy = false →
      exec i s = .next { s with pkgs := (FMap.put s.pkgs pkg { p with octlBusy := true, octlCmd := cmd, octlAt := s.nextId }) })) ∧
  (∀ (i : Instr) (s : State) (pkg cmd : Nat), (i = .octlArm pkg (2 ^ 21) ∧ cmd = 1) ∨ (i = .octlResetForce pkg (2 ^ 21) ∧ cmd = 2) →
    let p := s.pkg pkg
    let st := p.owner1.toNat % 8
    let arm := p.armw.toNat
    let first := p.octlBusy = true ∧ p.octlCmd = cmd ∧ ∀ o, o ∈ s.ops → isFw o.bk = true → pkgOfBundle o.bk = pkg → o.id < p.octlAt →
      o.isData = true → ∀ r, r ∈ o.reqs → r.writes = false
    let leaves := fun (w0 w1 : DWord) (err : Bool) => exec i s = .next { s with pkgs :=
      (FMap.put s.pkgs pkg { p with owner0 := w0, owner1 := w1, octlErr := err, octlBusy := false, octlCmd := 0 }) }
    (¬ first → exec i s = .next s) ∧
    (first → cmd = 1 → st ≠ 0 → leaves p.owner0 p.owner1 true) ∧
    (first → cmd = 1 → st = 0 → arm % 8 = 1 → leaves 0 1 false) ∧
    (first → cmd = 1 → st = 0 → arm % 8 = 2 → arm / 2 ^ 3 % 2 ^ 29 ≠ 0 → leaves 0 (BitVec.ofNat 64 (arm / 2 ^ 3 % 2 ^ 29 * 2 ^ 3 + 2)) false) ∧
    (first → cmd = 1 → st = 0 → arm % 8 = 5 → leaves 0 (BitVec.ofNat 64 (arm / 2 ^ 32 * 2 ^ 32 + 5)) false) ∧
    (first → cmd = 1 → st = 0 → arm % 8 ≠ 1 → ¬ (arm % 8 = 2 ∧ arm / 2 ^ 3 % 2 ^ 29 ≠ 0) → arm % 8 ≠ 5 → leaves p.owner0 p.owner1 true) ∧
    (first → cmd = 2 → st = 0 → leaves p.owner0 p.owner1 false) ∧
    (first → cmd = 2 → 6 ≤ st → leaves p.owner0 p.owner1 true) ∧
    (first → cmd = 2 → 1 ≤ st → st ≤ 5 → leaves 0 0 false)) ∧
  (∀ (s : State) (pkg agent value : Nat),
    (OwnsPackage (s.pkg pkg) agent → exec (.hando pkg agent value) s =
      .next { s with pkgs := FMap.put s.pkgs pkg { s.pkg pkg with hando := BitVec.ofNat 64 value } }) ∧
    (¬ OwnsPackage (s.pkg pkg) agent → exec (.hando pkg agent value) s = .next (refusedWrite s pkg))) ∧
  (∀ (s : State) (pkg agent : Nat), 16 ≤ agent → ¬ OwnsPackage (s.pkg pkg) agent →
    exec (.snapctlTrig pkg agent) s = .next (refusedWrite s pkg) ∧ exec (.snapctlRelease pkg agent) s = .next (refusedWrite s pkg)) ∧
  (∀ (s : State) (pkg agent : Nat), agent < 16 ∨ OwnsPackage (s.pkg pkg) agent →
    (∃ t, exec (.snapctlTrig pkg agent) s = .next t ∧ Latched { s with pkgs := FMap.put s.pkgs pkg (s.pkg pkg) } t pkg 3) ∧
    exec (.snapctlRelease pkg agent) s =
      .next { s with pkgs := FMap.put s.pkgs pkg { s.pkg pkg with snap := (s.pkg pkg).snap &&& ~~~2 } }) ∧
  (∀ (s : State) (pkg : Nat), ∃ t, exec (.snapFabricTrigger pkg) s = .next t ∧ Latched s t pkg 2) ∧
  (∀ (s : State) (pkg value : Nat),
    let p := s.pkg pkg
    let report := (List.range 888).map (reportByte p pkg (value % 2 ^ 64))
    (value % 2 = 0 → exec (.go pkg value) s = .next { s with pkgs := FMap.put s.pkgs pkg { p with goWord := BitVec.ofNat 64 value } }) ∧
    (value % 2 = 1 → ∃ m, exec (.go pkg value) s = .next { s with pkgs := FMap.put s.pkgs pkg { p with goWord := (BitVec.ofNat 64 (value - 1)), mbox := m } } ∧
      ∀ k, FMap.look m 0 k = if k < 0x100 then FMap.look p.mbox 0 k else if k < 0x100 + 888 then reportByte p pkg (value % 2 ^ 64) (k - 0x100)
        else if k < 0x100 + 984 then Config.attestSignature report (k - 0x100 - 888) else FMap.look p.mbox 0 k))

/-- REGISTER_WRITE stores 8 bytes of memory that is in service; it changes nothing at an absent package, at a hole or
in the pool; of a firmware core it tells of a context that does not run where its descriptor stands in the package's
HBM and that a new context starts on the function, with its frames zero, and it writes a group table, a partition's
layers and selection table, a paused function's log counts and the internal budgets, none below its lowest
(notes/assumptions/29.md), which no other agent can. In the management block FWVEC takes a firmware core's write, DOOR
sets the writer's event, and a write to a register of the firmware by an agent that is neither a firmware core nor the
owner is counted; LNOTE of a function takes it. QOS_PERIOD of a package with a period to count refills each balance
with a budget, min(BAL, BUD) + BUD, of its functions, and no other, and reads a held snapshot out under its budget.
PAUSE_WRITE sets PAUSE. FUNCTION_RESET begins with the function closed, its queues disabled, FMEAS zero and its
launches killed with status 5; once all has settled it zeroes the log's counts, opens the function and starts a new
context; until then it changes nothing. SLICE_END stops issue and sets EVT bit 3, once until it has ended
(notes/assumptions/72.md), and when the work has settled makes the incoming context run in the frames, with two
shadows at most, delivers its held notice, and stops the outgoing one (R383, R403, R407 to R409, R411, R413, R430).
The place of the monitor's structures is the model's choice (notes/assumptions/30.md). -/
def Obligations.FunctionsAndSlicesComplete : Prop :=
  (∀ (s : State) (agent addr value : Nat), addr < 2 ^ 52 →
    (FMap.find s.pkgs (pkgOfPa addr) = none ∨ s.place addr = .nowhere ∨ (∃ k x, s.place addr = .pool k x) → exec (.registerWrite agent addr value) s = .next s) ∧
    (FMap.find s.pkgs (pkgOfPa addr) ≠ none → ∀ st, s.place addr = .hbm st →
      ∃ t, exec (.registerWrite agent addr value) s = .next t ∧ Stored s.mem t.mem Memory.unlisted addr 8 value ∧
        t = { s with mem := t.mem, poison := t.poison, soft := t.soft }) ∧
    (FMap.find s.pkgs (pkgOfPa addr) ≠ none → ∀ n, n < 16 → s.place addr = .mgmt (0xC0 + 8 * n) → agent < 16 →
      ∃ v, exec (.registerWrite agent addr value) s = .next { s with pkgs := FMap.put s.pkgs (pkgOfPa addr) { s.pkg (pkgOfPa addr) with fwvec := v } } ∧
        ∀ k, FMap.look v 0xFFFFFFFF k = if k = n then BitVec.ofNat 32 value else FMap.look (s.pkg (pkgOfPa addr)).fwvec 0xFFFFFFFF k) ∧
    (FMap.find s.pkgs (pkgOfPa addr) ≠ none → ∀ n, n < 16 → s.place addr = .mgmt (0x600 + 8 * n) →
      ∃ t, exec (.registerWrite agent addr value) s = .next t ∧
        EventsSet s t (pkgOfPa addr) n (BitVec.ofNat 64 (2 ^ (if agent < 16 then 16 + agent else 2)))) ∧
    (FMap.find s.pkgs (pkgOfPa addr) ≠ none → ∀ off, off % 8 = 0 → s.place addr = .mgmt off → ¬ (0x600 ≤ off ∧ off < 0x680) → ¬ (0x5000 ≤ off ∧ off < 0x5038) →
      16 ≤ agent → ¬ OwnsPackage (s.pkg (pkgOfPa addr)) agent → exec (.registerWrite agent addr value) s = .next (refusedWrite s (pkgOfPa addr))) ∧
    (FMap.find s.pkgs (pkgOfPa addr) ≠ none → ∀ dl off, s.place addr = .shawm dl off → off % 0x1000 = 0x118 →
      let c := 256 * pkgOfPa addr + 16 * dl + off / 0x1000
      exec (.registerWrite agent addr value) s = .next { s with fns := FMap.put s.fns c { s.fn c with lnote := BitVec.ofNat 64 value } })) ∧
  (∀ (s : State) (agent c n value : Nat), c < 2 ^ 24 → n < 2 ^ 13 →
    let word := fun k => exec (.registerWrite agent (2 ^ 52 + k) value) s
    let group := 2 ^ 40 + 2 ^ 16 * c + 8 * n
    (16 ≤ agent → word (64 * c) = .next s ∧ word group = .next s) ∧
    (agent < 16 → (s.ctx c).running = true → word (64 * c) = .next s ∧ word (64 * c + 16) = .next s) ∧
    (agent < 16 → (s.ctx c).running = false →
      word (64 * c) = .next { s with ctxs := FMap.put s.ctxs c { s.ctx c with desc := globalPa (pkgOfCtx c) (value / 64 % 2 ^ 40 * 64) } } ∧
      word (64 * c + 8) = .next s) ∧
    (agent < 16 → (s.ctx c).running = false → ∃ t, word (64 * c + 16) = .next t ∧ StartsAnew s t c ∧
      t.ctx c = { s.ctx c with active := 0 } ∧
      t.part (partOfCtx c) = { s.part (partOfCtx c) with frames := (s.part (partOfCtx c)).frames.filter (fun v => v != vfOfCtx c) }) ∧
    (agent < 16 → (s.fn c).pause = false → ∀ k, k < 2 ^ 16 → word (2 ^ 42 + 2 ^ 16 * c + k) = .next s) ∧
    (agent < 16 → (s.fn c).pause = true →
      word (2 ^ 42 + 2 ^ 16 * c + 0x110) = .next { s with fns := FMap.put s.fns c { s.fn c with ltail := BitVec.ofNat 64 value, seq := value / 16 } } ∧
      word (2 ^ 42 + 2 ^ 16 * c + 0x120) = .next { s with fns := FMap.put s.fns c { s.fn c with ldrop := value % 2 ^ 32 } } ∧
      word (2 ^ 42 + 2 ^ 16 * c + 0x128) = .next { s with fns := FMap.put s.fns c { s.fn c with heldNote := value % 2 == 1 } }) ∧
    (agent < 16 → ∀ k, k ≤ 5 → ∃ t, word (5 * 2 ^ 40 + 2 ^ 16 * c + k) = .next t ∧ t = { s with pkgs := t.pkgs } ∧
      ∀ j, (t.pkg c).budget j = if j = k then max value (if k = 0 then Config.refreshCommands else if k = 5 then 8 else 0) else (s.pkg c).budget j) ∧
    (agent < 16 →
      (∃ m, word group = .next { s with ctxs := FMap.put s.ctxs c { s.ctx c with group := m } } ∧
        ∀ k, FMap.look m 0 k = if k = n then BitVec.ofNat 64 value else FMap.look (s.ctx c).group 0 k) ∧
      word (2 ^ 41 + 2 ^ 16 * c) = .next { s with parts := FMap.put s.parts c { s.part c with layers := value % 17 } } ∧
      (∃ m, word (3 * 2 ^ 40 + 2 ^ 16 * c + n) = .next { s with parts := FMap.put s.parts c { s.part c with sel := m } } ∧
        ∀ k, FMap.look m 0 k = if k = n then BitVec.ofNat 8 value else FMap.look (s.part c).sel 0 k))) ∧
  (∀ (s : State) (pkg : Nat),
    let p := s.pkg pkg
    let r := if p.snap.getLsbD 1 then min Config.snapshotBytes (p.snapRead + p.budget 3) else p.snapRead
    (FMap.find s.pkgs pkg = none ∨ s.cycle / 18000 ≤ p.period → exec (.qosPeriod pkg) s = .next s) ∧
    (FMap.find s.pkgs pkg ≠ none → p.period < s.cycle / 18000 → ∃ t h, exec (.qosPeriod pkg) s = .next t ∧
      t = { s with fns := t.fns, pkgs := (FMap.put s.pkgs pkg { p with period := p.period + 1, used := [], hbm := h, snapRead := r }) } ∧
      (∀ k, FMap.look h {} k = { FMap.look p.hbm {} k with scrubbed := 0 }) ∧
      ∀ c, t.fn c = { s.fn c with bal := (t.fn c).bal } ∧ ∀ k, FMap.look (t.fn c).bal 0 k =
        if pkgOfCtx c = pkg ∧ k < 4 ∧ FMap.look (s.fn c).bud 0xFFFFFFFF k ≠ 0xFFFFFFFF
        then Min.min (FMap.look (s.fn c).bal 0 k) ((FMap.look (s.fn c).bud 0xFFFFFFFF k : Nat) : Int) + ((FMap.look (s.fn c).bud 0xFFFFFFFF k : Nat) : Int)
        else FMap.look (s.fn c).bal 0 k)) ∧
  (∀ (s : State) (c value : Nat), exec (.pauseWrite c value) s =
    .next { s with fns := FMap.put s.fns c { s.fn c with pause := decide (value / 4 % 2 = 1) } }) ∧
  (∀ (s : State) (c : Nat), (s.fn c).reset = false → ∃ t, exec (.functionReset c) s = .next t ∧
    (t.fn c).closed = true ∧ (t.fn c).reset = true ∧ (∀ q, (queueAt t c q).en = false ∧ (queueAt t c q).polling = none ∧ (queueAt t c q).levels = []) ∧
    FMap.look (t.pkg (pkgOfCtx c)).fmeas 0 (c % 256) = 0 ∧ t.mem = s.mem ∧ t.pool = s.pool ∧
    ∀ l x, FMap.find s.launches l = some x → x.ctx = c → x.complete = false → (t.launch l).killed = true ∧ (t.launch l).status = 5) ∧
  (∀ (s : State) (c : Nat), (s.fn c).reset = true →
    ((s.resetSettled c = false ∨ s.addressed c = true) → exec (.functionReset c) s = .next s) ∧
    (s.resetSettled c = true → s.addressed c = false → ∃ t, exec (.functionReset c) s = .next t ∧ StartsAnew s t c ∧
      t.fns = FMap.put s.fns c { s.fn c with ltail := 0, lhead := 0, ldrop := 0, closed := false, reset := false })) ∧
  (∀ (s : State) (p vf : Nat),
    let x := s.part p
    let ran := match x.cur with
      | none => x.frames
      | some c => c :: x.frames.filter (fun k => k != c)
    ((x.layers = 0 ∨ (vf < 16 ∧ FMap.find s.ctxs (p * 16 + vf) = none)) → exec (.sliceEnd p vf) s = .next s) ∧
    (x.layers ≠ 0 → (vf < 16 → FMap.find s.ctxs (p * 16 + vf) ≠ none) →
      (x.ending = none → ∃ t, exec (.sliceEnd p vf) s = .next t ∧ EventsSetAll { s with parts := FMap.put s.parts p { x with ending := some vf } } t (p / 16) 8) ∧
      (∀ v c, x.ending = some v → x.cur = some c → s.settled (p * 16 + c) = false → exec (.sliceEnd p vf) s = .next s) ∧
      (∀ v, x.ending = some v → (∀ c, x.cur = some c → s.settled (p * 16 + c) = true) → ∃ t, exec (.sliceEnd p vf) s = .next t ∧
        t.part p = { x with cur := if v < 16 then some v else none, ending := none,
                            frames := if v < 16 then (v :: ran.filter (fun k => k != v)).take 3 else ran } ∧
        (∀ c, x.cur = some c → c ≠ v ∨ 16 ≤ v → (t.ctx (p * 16 + c)).running = false) ∧
        (16 ≤ v → t.mem = s.mem ∧ t.pool = s.pool ∧ t.ops = s.ops) ∧ (v < 16 → v ∈ ran → t.pool = s.pool) ∧
        (v < 16 → (t.ctx (p * 16 + v)).running = true ∧ (t.fn (p * 16 + v)).heldNote = false ∧
          ((s.fn (p * 16 + v)).heldNote = true → (t.fn (p * 16 + v)).notes = (s.fn (p * 16 + v)).ltail :: (s.fn (p * 16 + v)).notes)))))

/-- A request of off, retention or on for a power domain that breaks the order sets ERR and nothing else; another
makes the domain change, or only records the request where the domain has that state. TRIP latches a snapshot with
source 4, then requests off: of the domain, or for a base die first of its dies and stacks, the base die itself
following once all of them are off. SETTLE of a changing domain that has waited for its SETTLE in base-die cycles
gives it its state, and a tripped base die whose dies and stacks are then all off is requested off; of another it
changes nothing. POWER_ON of a package that is not on gives it reset registers, core 0 running at SRAM address 0 with
the boot ROM there and cores 1 to 15 halted. SOFT_ERROR leaves a word with a correctable or an uncorrectable error,
and changes nothing of a word with the latter. SCRUB of a stack in service corrects and counts the soft errors in a
piece of it no longer than what is left of the budget, which it uses. A firmware core's store to its SRAM writes
exactly its bytes, but core 0's none of the boot ROM (R232, R405, R427, R439, R446, R447). Where the piece begins and
a tripped base die's order (notes/assumptions/29.md), and that POWER_ON of a package that is on changes nothing
(notes/assumptions/66.md), are the model's choices. -/
def Obligations.PowerAndErrorsComplete : Prop :=
  (∀ (i : Instr) (s : State) (pkg d req : Nat), domainRequest i = some (pkg, d, req) →
    let x := (s.pkg pkg).domain d
    (BreaksOrder (s.pkg pkg) d req → exec i s = .next (withDomain s pkg d { x with err := true })) ∧
    (¬ BreaksOrder (s.pkg pkg) d req → exec i s = .next (withDomain s pkg d (requested x req s.cycle)))) ∧
  (∀ (s : State) (pkg d : Nat), ∃ t u v, exec (.trip pkg d) s = .next t ∧ Latched s u pkg 4 ∧
    t = { u with pkgs := FMap.put u.pkgs pkg { u.pkg pkg with pd := v } } ∧
    let old := fun k => (u.pkg pkg).domain k
    (8 ≤ d → ∀ k, FMap.look v {} k = if k = d then requested (old k) 0 s.cycle else old k) ∧
    (d < 8 → (∀ k, k ≠ d → (UnderBase k d → FMap.look v {} k = requested (old k) 0 s.cycle) ∧ (¬ UnderBase k d → FMap.look v {} k = old k)) ∧
      ((∃ k, UnderBase k d ∧ (old k).state ≠ 0) → FMap.look v {} d = { old d with tripped := true }) ∧
      ((∀ k, UnderBase k d → (old k).state = 0) → FMap.look v {} d = requested { old d with tripped := false } 0 s.cycle))) ∧
  (∀ (s : State) (pkg d : Nat),
    let x := (s.pkg pkg).domain d
    let due := x.state = 3 ∧ x.settle ≤ (s.cycle - x.since) * 10 / 9
    let follows := fun b => UnderBase d b ∧ ((s.pkg pkg).domain b).tripped = true ∧ x.goal = 0 ∧ ∀ k, UnderBase k b → k ≠ d → ((s.pkg pkg).domain k).state = 0
    (¬ due → exec (.settle pkg d) s = .next s) ∧
    (due → (∀ b, ¬ follows b) → exec (.settle pkg d) s = .next (withDomain s pkg d { x with state := x.goal })) ∧
    (due → ∀ b, follows b → ∃ t v, exec (.settle pkg d) s = .next t ∧ t = { s with pkgs := FMap.put s.pkgs pkg { s.pkg pkg with pd := v } } ∧
      ∀ k, FMap.look v {} k = if k = d then { x with state := x.goal }
        else if k = b then requested { (s.pkg pkg).domain b with tripped := false } 0 s.cycle else (s.pkg pkg).domain k)) ∧
  (∀ (s : State) (pkg : Nat),
    (FMap.find s.pkgs pkg ≠ none → exec (.powerOn pkg) s = .next s) ∧
    (FMap.find s.pkgs pkg = none → ∃ t f, exec (.powerOn pkg) s = .next t ∧ t.pkg pkg = { fwstat := f } ∧
      (∀ k, k ≠ pkg → t.pkg k = s.pkg k) ∧ (∀ n, FMap.look f 0 n = if n = 0 then 1 else if n < 16 then 2 else 0) ∧
      (∀ n, n < 16 → (t.bundle (fwKey pkg n)).fw = some n ∧ (t.bundle (fwKey pkg n)).width = 1 ∧ (t.bundle (fwKey pkg n)).ser = s.nextSer + n ∧
        (t.bundle (fwKey pkg n)).s = [] ∧ ((t.bundle (fwKey pkg n)).thread 0).pc = 0 ∧
        ((t.bundle (fwKey pkg n)).thread 0).cond = (if n = 0 then .running else .halted)) ∧
      (∀ k, (k < fwKey pkg 0 ∨ fwKey pkg 16 ≤ k) → t.bundle k = s.bundle k) ∧
      t.sramRead (fwKey pkg 0) 0 (min 0x80000 Config.romImage.length) = Config.romImage.take 0x80000 ∧ t.mem = s.mem ∧ t.pool = s.pool)) ∧
  (∀ (s : State) (space addr hard : Nat),
    let w := addr / 8 * 2 + space % 2
    let inWord := fun e => e % 2 = space % 2 ∧ e / 2 / 8 = addr / 8
    (hard = 0 → (∃ e ∈ s.poison, inWord e) → exec (.softError space addr hard) s = .next s) ∧
    (hard = 0 → (∀ e ∈ s.poison, ¬ inWord e) → ∃ t, exec (.softError space addr hard) s = .next t ∧ t = { s with soft := t.soft } ∧
      ∀ e, e ∈ t.soft ↔ e = w ∨ e ∈ s.soft) ∧
    (hard ≠ 0 → ∃ t, exec (.softError space addr hard) s = .next t ∧ t = { s with soft := t.soft, poison := t.poison } ∧
      (∀ e, e ∈ t.poison ↔ e ∈ s.poison ∨ inWord e) ∧ ∀ e, e ∈ t.soft ↔ (e ≠ w ∧ e ∈ s.soft))) ∧
  (∀ (s : State) (pkg k : Nat),
    let x := stackAt s pkg k
    let n := min (Config.scrubBytes s.tick) ((s.pkg pkg).budget 1 - x.scrubbed)
    let here := fun (e : Nat) => inStack pkg k e && decide ((8 * (e / 2) + 2 ^ 36 - Config.scrubFrom s.tick % 2 ^ 36) % 2 ^ 36 < n)
    (x.inService = false → exec (.scrub pkg k) s = .next s) ∧
    (x.inService = true → exec (.scrub pkg k) s = .next { withStack s pkg k { x with
        scrubbed := x.scrubbed + n, corrected := x.corrected + (s.soft.filter here).length } with
      soft := s.soft.filter (fun e => !here e) })) ∧
  (∀ (s : State) (o : Op) (r : Req) (v : Nat), InProgress s o r → o.cls = 6 → isFw o.bk = true → r.act = .st v → r.stage = .home → 2 ^ 52 ≤ r.pa →
    s.blocked o r false = false → s.mgmtBehind o r = false → o.fin = .none →
    let x := r.pa - 2 ^ 52
    let rom := if (o.bk - fwBase) % 16 = 0 then Config.romImage.length else 0
    ∃ t, exec (.homePerform o.id r.uid) s = .next t ∧ Served t o.id r.uid ∧ t.mem = s.mem ∧ t.pool = s.pool ∧
      ∀ k, FMap.look t.sram 0 (sramKey o.bk k) = if x ≤ k ∧ k < x + r.n ∧ rom ≤ k then BitVec.ofNat 8 (v / 256 ^ (k - x))
        else FMap.look s.sram 0 (sramKey o.bk k))

/-- Each MT event starts its phase on its stack, and each LT event on a link that is not out of service; flit lock
starts the link's numbering at LTSEQ. MEMORY_TRAINING_DONE of a running phase that ends well sets DONE, and phase 8
puts the stack in service; one of phases 1 to 7 that fails records its lane, and fails the stack but for phases 4 and
5 before the lane repair. LINK_TRAINING_DONE that ends well sets DONE, and phase 5 puts the link in service; a
recalibrating link goes on from bit lock to flit lock, and then is active again; a failure returns it to phase 1,
three times, and then puts it out of service. LINK_RECALIBRATION takes a link in service to phase 2, as many per
period as the budget allows. FLIT: a bad CRC, a reserved kind or a gap asks for a resend; one in order is accepted,
its channel's slot counted, and its ACK, count and RSND act; one accepted before is dropped. a resend asked for sends
the buffer again. IDLE_FLIT of a link that has been idle sends an idle flit with the next channel's count into a free
slot. A waiting flit is sent once its link has a slot and its channel a credit, which channel 6 needs not (R325 to
R329, R405, R448 to R450). The layout of LTSEQ (notes/assumptions/32.md), that a failed stack stays out of service,
that a phase starts anew whenever it is written and that phases 4 and 5 may fail before the lane repair
(notes/assumptions/69.md) are the model's choices. -/
def Obligations.TrainingAndLinksComplete : Prop :=
  (∀ (i : Instr) (s : State) (pkg k ph : Nat), memoryPhase i = some (pkg, k, ph) →
    exec i s = .next (withStack s pkg k { stackAt s pkg k with
      phase := ph, done := false, fail := false, repaired := (stackAt s pkg k).repaired || ph == 6 })) ∧
  (∀ (s : State) (pkg k ok lane : Nat),
    let x := stackAt s pkg k
    let runs := x.phase ≠ 0 ∧ x.done = false ∧ x.fail = false
    let ends := fun (y : Stack) => exec (.memoryTrainingDone pkg k ok lane) s = .next (withStack s pkg k y)
    (FMap.find (s.pkg pkg).hbm k = none → exec (.memoryTrainingDone pkg k ok lane) s = .next s) ∧
    (FMap.find (s.pkg pkg).hbm k ≠ none →
      (¬ runs → ends x) ∧
      (runs → ok ≠ 0 → x.phase ≠ 8 ∨ x.failed = true → ends { x with done := true }) ∧
      (runs → ok ≠ 0 → x.phase = 8 → x.failed = false → ends { x with done := true, inService := true }) ∧
      (runs → ok = 0 → (x.phase = 4 ∨ x.phase = 5) → x.repaired = false → ends { x with fail := true, lane := lane % 256 }) ∧
      (runs → ok = 0 → x.phase < 8 → ¬ ((x.phase = 4 ∨ x.phase = 5) ∧ x.repaired = false) →
        ends { x with fail := true, lane := lane % 256, failed := true, inService := false }))) ∧
  (∀ (i : Instr) (s : State) (pkg l ph : Nat), linkPhase i = some (pkg, l, ph) →
    let x := linkAt s pkg l
    let start := (FMap.look (s.pkg pkg).ltseq 0 l).toNat
    (x.out = true → exec i s = .next s) ∧
    (x.out = false → ph ≠ 3 → exec i s = .next (withLink s pkg l { x with phase := ph, done := false, fail := false })) ∧
    (x.out = false → ph = 3 → ∃ y, exec i s = .next (withLink s pkg l y) ∧
      y = { x with phase := 3, done := false, fail := false, seqNext := y.seqNext, seqWant := y.seqWant, lastGood := y.lastGood, rsnd := false,
                   resendFrom := none, retry := [], sent := [], credit := [], freed := y.freed } ∧
      y.seqNext = start / 2 ^ 47 % 1024 ∧ y.seqWant = y.seqNext ∧ (y.lastGood + 1) % 1024 = y.seqNext ∧
      ∀ v, v < 8 → FMap.look y.freed 0 v = start / 2 ^ 18 % 2 ^ 16)) ∧
  (∀ (s : State) (pkg l ok : Nat),
    let x := linkAt s pkg l
    let runs := x.phase ≠ 0 ∧ x.done = false ∧ x.out = false
    let ends := fun (y : Link) => exec (.linkTrainingDone pkg l ok) s = .next ((withLink s pkg l y).feedLinks pkg)
    (FMap.find (s.pkg pkg).links l = none → exec (.linkTrainingDone pkg l ok) s = .next s) ∧
    (FMap.find (s.pkg pkg).links l ≠ none →
      (¬ runs → ends x) ∧
      (runs → ok ≠ 0 → x.recal = false → x.phase ≠ 5 → ends { x with done := true, fail := false }) ∧
      (runs → ok ≠ 0 → x.recal = false → x.phase = 5 → ends { x with done := true, fail := false, inService := true }) ∧
      (runs → ok ≠ 0 → x.recal = true → x.phase = 2 → ends { x with phase := 3 }) ∧
      (runs → ok ≠ 0 → x.recal = true → x.phase = 3 → ends { x with phase := 5, done := true, recal := false }) ∧
      (runs → ok = 0 → x.tries < 3 → ends { x with fail := true, tries := x.tries + 1, phase := 1, inService := false, recal := false }) ∧
      (runs → ok = 0 → 3 ≤ x.tries → ends { x with fail := true, out := true, inService := false, recal := false }))) ∧
  (∀ (s : State) (pkg l : Nat),
    let x := linkAt s pkg l
    let p := s.pkg pkg
    let may := x.inService = true ∧ x.recal = false ∧ FMap.look p.used 0 2 < p.budget 2
    (¬ may → exec (.linkRecalibration pkg l) s = .next s) ∧
    (may → exec (.linkRecalibration pkg l) s = .next { s with pkgs := (FMap.put s.pkgs pkg { p with
      links := FMap.put p.links l { x with recal := true, phase := 2, done := false }, used := FMap.put p.used 2 (FMap.look p.used 0 2 + 1) }) })) ∧
  (∀ (s : State) (pkg l kind vc fseq ack rvc rcnt rsnd crcOk body : Nat), l < 256 →
    let x := { linkAt s pkg l with last := s.cycle }
    let ends := fun (y : Link) => exec (.flit (256 * pkg + l) kind vc fseq ack rvc rcnt rsnd crcOk body) s = .next ((withLink s pkg l y).feedLinks pkg)
    ((crcOk = 0 ∨ 5 ≤ kind) → ends { x with rsnd := true }) ∧
    (crcOk ≠ 0 → kind < 5 → fseq % 1024 ≠ x.seqWant → x.seqWant < 1024 → Accepted x.seqWant fseq → ends x) ∧
    (crcOk ≠ 0 → kind < 5 → fseq % 1024 ≠ x.seqWant → x.seqWant < 1024 → ¬ Accepted x.seqWant fseq → ends { x with rsnd := true }) ∧
    (crcOk ≠ 0 → kind < 5 → fseq % 1024 = x.seqWant → ∃ y, ends y ∧ y.seqWant = (fseq + 1) % 1024 ∧ y.lastGood = fseq % 1024 ∧ y.rsnd = false ∧
      y.accepted = x.accepted ++ (if kind = 0 then [] else [body]) ∧
      (∀ c, FMap.look y.freed 0 c = if kind ≠ 0 ∧ c = vc % 8 then (FMap.look x.freed 0 c + 1) % 2 ^ 16 else FMap.look x.freed 0 c) ∧
      (∀ c, FMap.look y.credit 0 c = if c = rvc % 8 then rcnt % 2 ^ 16 else FMap.look x.credit 0 c) ∧
      y.retry = x.retry.filter (fun e => decide (512 ≤ (ack % 1024 + 1024 - e.1 % 1024) % 1024)) ∧
      y.resendFrom = (if rsnd ≠ 0 then some ((ack + 1) % 1024) else x.resendFrom) ∧
      y.wire = (if rsnd ≠ 0 then x.wire ++ y.retry.map Prod.snd else x.wire) ∧
      y = { x with seqWant := y.seqWant, lastGood := y.lastGood, rsnd := false, accepted := y.accepted, freed := y.freed, retry := y.retry,
                   credit := y.credit, resendFrom := y.resendFrom, wire := y.wire })) ∧
  (∀ (s : State) (pkg l : Nat), l < 256 →
    let x := linkAt s pkg l
    let idle := x.inService = true ∧ x.recal = false ∧ 256 ≤ (s.cycle - x.last) * 10 / 9
    let ends := fun (y : Link) => exec (.idleFlit (256 * pkg + l)) s = .next (withLink s pkg l { y with last := s.cycle })
    (¬ idle → exec (.idleFlit (256 * pkg + l)) s = .next s) ∧
    (idle → 512 ≤ x.retry.length → ends x) ∧
    (idle → x.retry.length < 512 → ends (sentOn x 0 0 0))) ∧
  (∀ (now : Nat) (p : Pkg) (f : OutFlit) (l : Nat), p.outbox = [f] → p.linkFor f.path = some l →
    let x := FMap.look p.links {} l
    let goes := x.inService = true ∧ x.recal = false ∧ x.retry.length < 512 ∧
      (f.vc = 6 ∨ (FMap.look x.credit 0 f.vc + 2 ^ 16 - FMap.look x.sent 0 f.vc) % 2 ^ 16 ≠ 0)
    (¬ goes → p.feed now = p) ∧
    (goes → p.feed now = { p with outbox := [], links := FMap.put p.links l { sentOn x f.kind f.vc f.body with last := now } }))

/-- State.reset has its bytes in canonical form and nothing in progress; no package is on, nothing is resident, no
context runs; and a package, function, power domain and bundle stand at their reset values: LEASE with holder 31 and
expiry 0, DENY, MEAS, EVT, the owner cell and SNAPCTL zero, SETTLE 0x1000, queues disabled, budgets all ones, status
with rounding mode 1 (R227, R383, R430, R445, R447). That unwritten memory reads 0 is the model's choice
(notes/assumptions/5.md). -/
def Obligations.ResetIsFormed : Prop :=
  State.reset.formed ∧ State.reset.pkgs = [] ∧ State.reset.bundles = [] ∧ State.reset.ops = [] ∧ State.reset.issuing = none ∧
  (∀ c, (State.reset.ctx c).running = false) ∧ (∀ a, FMap.look State.reset.mem Memory.unlisted a = 0) ∧
  ∀ k, let p := State.reset.pkg k
    p.lease = 31 <<< 59 ∧ p.deny = 0 ∧ p.owner0 = 0 ∧ p.owner1 = 0 ∧ p.snap = 0 ∧ p.goWord = 0 ∧ (∀ n, FMap.look p.meas 0 n = 0) ∧
    (∀ n, FMap.look p.evt 0 n = 0) ∧ (∀ d, (p.domain d).settle = 0x1000 ∧ (p.domain d).state = 0) ∧
    (∀ c q, (queueAt State.reset c q).en = false ∧ FMap.look (State.reset.fn c).bud 0xFFFFFFFF q = 0xFFFFFFFF) ∧ ∀ b, (State.reset.bundle b).status = 1

/-- For every state whose memory, pool and SRAM list their bytes by strictly rising address with no byte equal to what
an unlisted one reads as, and in which each operation in progress, and each entry of a matrix FIFO, a cell array, a
tile port and a signature queue, has a number below the next, and in which each image in a save area lists its bytes
canonically within one frame, its entries numbered below the next: if a step answers a next state, that state is such
a state too. It holds for each of the 304 instructions and events, and for the step's own choice among them. -/
def Obligations.StepKeepsTheForm : Prop :=
  ∀ s t : State, s.formed → step s = .next t → t.formed
end

