-- ==== Sys2Proof/Laws/Encoding.lean ====
section
/-! SUPPORT. Laws of the encoding: the decoder's op table and the rows of `Instr.parts` are one table, and the fields
of each kind of word are the ones it was put together from. -/

namespace Sys2Proof

/-- What the decoder makes of the two readings of `sig.step`, which bit 1 of word 2 tells apart (R290). -/
theorem instrOfOp_sigStep (x : Enc) :
    instrOfOp 10 2 x = some (if x.w2.getLsbD 1 then .sigStepScratch x else .sigStepReg x) := rfl

/-- The row of an instruction leads the decoder back to it, but for a `sig.step` whose bit 1 of word 2 says otherwise. -/
theorem instrOfOp_of_parts (i : Instr) (r : Row) (x : Enc) (h : i.parts = some (r, x))
    (hr : i = .sigStepReg x → x.w2.getLsbD 1 = false) (hs : i = .sigStepScratch x → x.w2.getLsbD 1 = true) :
    instrOfOp r.cls r.op x = some i := by
  cases i
  case sigStepReg y => cases h; exact (instrOfOp_sigStep _).trans (by rw [hr rfl]; rfl)
  case sigStepScratch y => cases h; exact (instrOfOp_sigStep _).trans (by rw [hs rfl]; rfl)
  all_goals first
    | (cases h; rfl)
    | cases h

/-- An instruction has a row of a class and an op. -/
def OpRow (cls op : Nat) (x : Enc) (i : Instr) : Prop := ∃ r, i.parts = some (r, x) ∧ r.cls = cls ∧ r.op = op

theorem instrOfOp_class0 (op : Nat) (x : Enc) (i : Instr) (ho : op < 64) (h : instrOfOp 0 op x = some i) :
    OpRow 0 op x i := by
  interval_cases op <;> cases h

theorem instrOfOp_class1 (op : Nat) (x : Enc) (i : Instr) (ho : op < 64) (h : instrOfOp 1 op x = some i) :
    OpRow 1 op x i := by
  interval_cases op <;> first
    | (cases h; exact ⟨_, rfl, rfl, rfl⟩)
    | cases h

theorem instrOfOp_class2 (op : Nat) (x : Enc) (i : Instr) (ho : op < 64) (h : instrOfOp 2 op x = some i) :
    OpRow 2 op x i := by
  interval_cases op <;> first
    | (cases h; exact ⟨_, rfl, rfl, rfl⟩)
    | cases h

theorem instrOfOp_class3 (op : Nat) (x : Enc) (i : Instr) (ho : op < 64) (h : instrOfOp 3 op x = some i) :
    OpRow 3 op x i := by
  interval_cases op <;> first
    | (cases h; exact ⟨_, rfl, rfl, rfl⟩)
    | cases h

theorem instrOfOp_class4 (op : Nat) (x : Enc) (i : Instr) (ho : op < 64) (h : instrOfOp 4 op x = some i) :
    OpRow 4 op x i := by
  interval_cases op <;> first
    | (cases h; exact ⟨_, rfl, rfl, rfl⟩)
    | cases h

theorem instrOfOp_class5 (op : Nat) (x : Enc) (i : Instr) (ho : op < 64) (h : instrOfOp 5 op x = some i) :
    OpRow 5 op x i := by
  interval_cases op <;> first
    | (cases h; exact ⟨_, rfl, rfl, rfl⟩)
    | cases h

theorem instrOfOp_class6 (op : Nat) (x : Enc) (i : Instr) (ho : op < 64) (h : instrOfOp 6 op x = some i) :
    OpRow 6 op x i := by
  interval_cases op <;> first
    | (cases h; exact ⟨_, rfl, rfl, rfl⟩)
    | cases h

theorem instrOfOp_class7 (op : Nat) (x : Enc) (i : Instr) (ho : op < 64) (h : instrOfOp 7 op x = some i) :
    OpRow 7 op x i := by
  interval_cases op <;> first
    | (cases h; exact ⟨_, rfl, rfl, rfl⟩)
    | cases h

theorem instrOfOp_class8 (op : Nat) (x : Enc) (i : Instr) (ho : op < 64) (h : instrOfOp 8 op x = some i) :
    OpRow 8 op x i := by
  interval_cases op <;> first
    | (cases h; exact ⟨_, rfl, rfl, rfl⟩)
    | cases h

theorem instrOfOp_class9 (op : Nat) (x : Enc) (i : Instr) (ho : op < 64) (h : instrOfOp 9 op x = some i) :
    OpRow 9 op x i := by
  interval_cases op <;> first
    | (cases h; exact ⟨_, rfl, rfl, rfl⟩)
    | cases h

theorem instrOfOp_class10 (op : Nat) (x : Enc) (i : Instr) (ho : op < 64) (h : instrOfOp 10 op x = some i) :
    OpRow 10 op x i := by
  interval_cases op
  all_goals first
    | (rw [instrOfOp_sigStep] at h; split at h <;> (cases h; exact ⟨_, rfl, rfl, rfl⟩))
    | (cases h; exact ⟨_, rfl, rfl, rfl⟩)
    | cases h

theorem instrOfOp_class11 (op : Nat) (x : Enc) (i : Instr) (ho : op < 64) (h : instrOfOp 11 op x = some i) :
    OpRow 11 op x i := by
  interval_cases op <;> first
    | (cases h; exact ⟨_, rfl, rfl, rfl⟩)
    | cases h

theorem instrOfOp_class12 (op : Nat) (x : Enc) (i : Instr) (ho : op < 64) (h : instrOfOp 12 op x = some i) :
    OpRow 12 op x i := by
  interval_cases op <;> first
    | (cases h; exact ⟨_, rfl, rfl, rfl⟩)
    | cases h

theorem instrOfOp_class13 (op : Nat) (x : Enc) (i : Instr) (ho : op < 64) (h : instrOfOp 13 op x = some i) :
    OpRow 13 op x i := by
  interval_cases op <;> cases h

theorem instrOfOp_class14 (op : Nat) (x : Enc) (i : Instr) (ho : op < 64) (h : instrOfOp 14 op x = some i) :
    OpRow 14 op x i := by
  interval_cases op <;> cases h

theorem instrOfOp_class15 (op : Nat) (x : Enc) (i : Instr) (ho : op < 64) (h : instrOfOp 15 op x = some i) :
    OpRow 15 op x i := by
  interval_cases op <;> cases h

/-- What the decoder's op table gives has a row of that class and op. -/
theorem parts_of_instrOfOp (cls op : Nat) (x : Enc) (i : Instr) (hc : cls < 16) (ho : op < 64)
    (h : instrOfOp cls op x = some i) : OpRow cls op x i := by
  interval_cases cls
  · exact instrOfOp_class0 op x i ho h
  · exact instrOfOp_class1 op x i ho h
  · exact instrOfOp_class2 op x i ho h
  · exact instrOfOp_class3 op x i ho h
  · exact instrOfOp_class4 op x i ho h
  · exact instrOfOp_class5 op x i ho h
  · exact instrOfOp_class6 op x i ho h
  · exact instrOfOp_class7 op x i ho h
  · exact instrOfOp_class8 op x i ho h
  · exact instrOfOp_class9 op x i ho h
  · exact instrOfOp_class10 op x i ho h
  · exact instrOfOp_class11 op x i ho h
  · exact instrOfOp_class12 op x i ho h
  · exact instrOfOp_class13 op x i ho h
  · exact instrOfOp_class14 op x i ho h
  · exact instrOfOp_class15 op x i ho h

/-- The classes and ops of the rows (R110). -/
theorem parts_bounds (i : Instr) (r : Row) (x : Enc) (h : i.parts = some (r, x)) :
    1 ≤ r.cls ∧ r.cls ≤ 12 ∧ r.op < 64 := by
  cases i <;> first
    | (cases h; decide)
    | cases h

/-- A well-formed instruction meets its row. -/
theorem row_ok_of_wellFormed (i : Instr) (r : Row) (x : Enc) (h : i.parts = some (r, x)) (hw : i.wellFormed = true) :
    r.ok x = true := by
  cases i <;> first
    | (cases h; exact hw)
    | cases h

/-- What a row that is met says of the shape and of word 2. -/
theorem Row.ok_shape (r : Row) (x : Enc) (h : r.ok x = true) :
    x.shapeOk = true ∧ x.pre = 0 ∧ x.w2 &&& ~~~r.w2 = 0 ∧ x.w2 &&& r.w2one = r.w2one := by
  simp only [Row.ok, Row.w2Ok, Bool.and_eq_true, beq_iff_eq] at h
  exact ⟨by tauto, by tauto, by tauto, by tauto⟩

/-! ### The fields of the words -/

theorem bit1_lt (b : Bool) : bit1 b < 2 := by cases b <;> decide

theorem bit1_eq_one (b : Bool) : (bit1 b == 1) = b := by cases b <;> rfl

/-- Word 0 gives back its length code, class and op (R87). -/
theorem baseWord_head (l cls op : Nat) (x : Enc) (hl : l < 4) (hc : cls < 16) (ho : op < 64) :
    fld (baseWord l cls op x).toNat 30 2 = l ∧ fld (baseWord l cls op x).toNat 26 4 = cls ∧
      fld (baseWord l cls op x).toNat 20 6 = op := by
  have hty := x.ty.isLt
  have hi := bit1_lt x.i
  have hu := bit1_lt x.u
  have hf := bit1_lt x.f
  simp only [baseWord, fld, BitVec.toNat_ofNat]
  norm_num at *
  omega

/-- Word 0 gives back the low parts of its operand fields, its type and its flags (R87). -/
theorem baseWord_fields (l cls op : Nat) (x : Enc) :
    fld (baseWord l cls op x).toNat 15 5 = x.d.toNat % 32 ∧ fld (baseWord l cls op x).toNat 10 5 = x.a.toNat % 32 ∧
      fld (baseWord l cls op x).toNat 5 5 = x.b.toNat % 32 ∧ fld (baseWord l cls op x).toNat 3 2 = x.ty.toNat ∧
      fld (baseWord l cls op x).toNat 2 1 = bit1 x.i ∧ fld (baseWord l cls op x).toNat 1 1 = bit1 x.u ∧
      fld (baseWord l cls op x).toNat 0 1 = bit1 x.f := by
  have hty := x.ty.isLt
  have hi := bit1_lt x.i
  have hu := bit1_lt x.u
  have hf := bit1_lt x.f
  simp only [baseWord, fld, BitVec.toNat_ofNat]
  norm_num at *
  omega

/-- The prefix word gives back its fields (R88). -/
theorem prefixWord_fields (x : Enc) :
    fld (prefixWord x).toNat 30 2 = 1 ∧ fld (prefixWord x).toNat 26 4 = 13 ∧
      fld (prefixWord x).toNat 23 3 = x.msk.toNat ∧ fld (prefixWord x).toNat 22 1 = bit1 x.z ∧
      fld (prefixWord x).toNat 19 3 = x.rnd.toNat ∧ fld (prefixWord x).toNat 11 8 = x.c.toNat ∧
      fld (prefixWord x).toNat 9 2 = x.d.toNat / 32 % 4 ∧ fld (prefixWord x).toNat 7 2 = x.a.toNat / 32 % 4 ∧
      fld (prefixWord x).toNat 5 2 = x.b.toNat / 32 % 4 ∧ fld (prefixWord x).toNat 0 5 = x.pre.toNat := by
  have h1 := x.msk.isLt
  have h2 := bit1_lt x.z
  have h3 := x.rnd.isLt
  have h4 := x.c.isLt
  have h5 := x.pre.isLt
  simp only [prefixWord, fld, BitVec.toNat_ofNat]
  norm_num at *
  omega

/-- Word 1 of the extended forms gives back its fields (R89). -/
theorem extWord_fields (x : Enc) :
    fld (extWord x).toNat 29 3 = x.d.toNat / 32 ∧ fld (extWord x).toNat 26 3 = x.a.toNat / 32 ∧
      fld (extWord x).toNat 23 3 = x.b.toNat / 32 ∧ fld (extWord x).toNat 15 8 = x.c.toNat ∧
      fld (extWord x).toNat 12 3 = x.msk.toNat ∧ fld (extWord x).toNat 11 1 = bit1 x.z ∧
      fld (extWord x).toNat 8 3 = x.rnd.toNat ∧ fld (extWord x).toNat 5 3 = x.bh.toNat ∧
      fld (extWord x).toNat 2 3 = x.bw.toNat ∧ fld (extWord x).toNat 0 2 = x.isel.toNat := by
  have h1 := x.msk.isLt
  have h2 := bit1_lt x.z
  have h3 := x.rnd.isLt
  have h4 := x.c.isLt
  have h5 := x.bh.isLt
  have h6 := x.bw.isLt
  have h7 := x.isel.isLt
  have h8 := x.d.isLt
  have h9 := x.a.isLt
  have h10 := x.b.isLt
  simp only [extWord, fld, BitVec.toNat_ofNat]
  norm_num at *
  omega

end Sys2Proof
end

