-- ==== Sys2Proof/Laws/Memory.lean ====
section
/-! SUPPORT. Laws of sparse maps and of memory: what a read after a write gives, and that every write keeps the
canonical form. -/

namespace Sys2Proof.Machine

/-! ### Reading after writing -/

theorem FMap.look_put {α : Type} (m : FMap α) (d : α) (k k' : Nat) (v : α) :
    FMap.look (FMap.put m k v) d k' = if k' = k then v else FMap.look m d k' := by
  induction m with
  | nil => simp only [FMap.put, FMap.look, eq_comm]
  | cons e t ih =>
    obtain ⟨j, w⟩ := e
    simp only [FMap.put]
    split
    · subst j; simp only [FMap.look, eq_comm]; split <;> rfl
    · split
      · simp only [FMap.look, eq_comm (a := k)]
      · simp only [FMap.look, ih]
        rename_i hjk _
        by_cases h : j = k' <;> simp_all

theorem FMap.look_del {α : Type} (m : FMap α) (d : α) (k k' : Nat) :
    FMap.look (FMap.del m k) d k' = if k' = k then d else FMap.look m d k' := by
  induction m with
  | nil => simp [FMap.del, FMap.look]
  | cons e t ih =>
    obtain ⟨j, w⟩ := e
    simp only [FMap.del]
    split
    · subst j; rw [ih]; simp only [FMap.look]; split
      · rfl
      · rw [if_neg (by omega)]
    · simp only [FMap.look, ih]
      rename_i hjk
      by_cases h : j = k' <;> simp_all

/-- A read after a write: the value written at its key, everything else as before. -/
theorem FMap.look_write {α : Type} [DecidableEq α] (m : FMap α) (d : α) (k k' : Nat) (v : α) :
    FMap.look (FMap.write m d k v) d k' = if k' = k then v else FMap.look m d k' := by
  unfold FMap.write
  split
  · subst v; exact FMap.look_del m d k k'
  · exact FMap.look_put m d k k' v

/-- A read after writing a list of values. -/
theorem FMap.look_writeFrom {α : Type} [DecidableEq α] (vs : List α) (m : FMap α) (d : α) (k k' : Nat) :
    FMap.look (FMap.writeFrom m d k vs) d k' =
      if k ≤ k' ∧ k' < k + vs.length then vs.getD (k' - k) d else FMap.look m d k' := by
  induction vs generalizing m k with
  | nil =>
    rw [FMap.writeFrom, if_neg]
    simp only [List.length_nil]; omega
  | cons v t ih =>
    rw [FMap.writeFrom, ih, FMap.look_write]
    by_cases h : k' = k
    · subst h; simp
    · by_cases h1 : k + 1 ≤ k' ∧ k' < k + 1 + t.length
      · rw [if_pos h1, if_pos (by simp only [List.length_cons]; omega)]
        obtain ⟨n, hn⟩ : ∃ n, k' - k = n + 1 := ⟨k' - k - 1, by omega⟩
        rw [hn, show k' - (k + 1) = n by omega]; simp
      · rw [if_neg h1, if_neg h, if_neg (by simp only [List.length_cons]; omega)]

theorem FMap.lookFrom_getD {α : Type} (m : FMap α) (d : α) (k n i : Nat) (h : i < n) :
    (FMap.lookFrom m d k n).getD i d = FMap.look m d (k + i) := by
  induction n generalizing k i with
  | zero => omega
  | succ n ih =>
    cases i with
    | zero => simp [FMap.lookFrom]
    | succ i => simp only [FMap.lookFrom, List.getD_cons_succ]; rw [ih (k + 1) i (by omega)]; congr 1; omega

theorem FMap.lookFrom_length {α : Type} (m : FMap α) (d : α) (k n : Nat) : (FMap.lookFrom m d k n).length = n := by
  induction n generalizing k with
  | zero => rfl
  | succ n ih => simp [FMap.lookFrom, ih]

/-- What was written is read back. -/
theorem FMap.lookFrom_writeFrom {α : Type} [DecidableEq α] (vs : List α) (m : FMap α) (d : α) (k : Nat) :
    FMap.lookFrom (FMap.writeFrom m d k vs) d k vs.length = vs := by
  apply List.ext_getElem (FMap.lookFrom_length ..)
  intro i h1 h2
  have h := FMap.lookFrom_getD (FMap.writeFrom m d k vs) d k vs.length i h2
  rw [FMap.look_writeFrom, if_pos (by omega), show k + i - k = i by omega] at h
  simpa [List.getD_eq_getElem?_getD, h1, h2] using h

/-! ### The canonical form -/

theorem FMap.risesFrom_mono {α : Type} {m : FMap α} {a b : Nat} (h : a ≤ b) (hb : FMap.risesFrom m b = true) :
    FMap.risesFrom m a = true := by
  cases m with
  | nil => rfl
  | cons e t => obtain ⟨j, w⟩ := e; simp [FMap.risesFrom] at hb ⊢; exact ⟨by omega, hb.2⟩

theorem FMap.risesFrom_put {α : Type} (m : FMap α) (lo k : Nat) (v : α) (hk : lo ≤ k)
    (h : FMap.risesFrom m lo = true) : FMap.risesFrom (FMap.put m k v) lo = true := by
  induction m generalizing lo with
  | nil => simp [FMap.put, FMap.risesFrom, hk]
  | cons e t ih =>
    obtain ⟨j, w⟩ := e
    simp only [FMap.risesFrom, Bool.and_eq_true, decide_eq_true_eq] at h
    simp only [FMap.put]
    split
    · subst j; simp [FMap.risesFrom, h]
    · split
      · simp only [FMap.risesFrom, Bool.and_eq_true, decide_eq_true_eq]; exact ⟨hk, by omega, h.2⟩
      · simp only [FMap.risesFrom, Bool.and_eq_true, decide_eq_true_eq]; exact ⟨h.1, ih (j + 1) (by omega) h.2⟩

theorem FMap.risesFrom_del {α : Type} (m : FMap α) (lo k : Nat) (h : FMap.risesFrom m lo = true) :
    FMap.risesFrom (FMap.del m k) lo = true := by
  induction m generalizing lo with
  | nil => rfl
  | cons e t ih =>
    obtain ⟨j, w⟩ := e
    simp only [FMap.risesFrom, Bool.and_eq_true, decide_eq_true_eq] at h
    simp only [FMap.del]
    split
    · exact ih lo (FMap.risesFrom_mono (by omega) h.2)
    · simp only [FMap.risesFrom, Bool.and_eq_true, decide_eq_true_eq]; exact ⟨h.1, ih (j + 1) h.2⟩

theorem FMap.mem_put {α : Type} {m : FMap α} {k : Nat} {v : α} {e : Nat × α} (h : e ∈ FMap.put m k v) :
    e = (k, v) ∨ e ∈ m := by
  induction m with
  | nil => simpa [FMap.put] using h
  | cons e' t ih =>
    obtain ⟨j, w⟩ := e'
    simp only [FMap.put] at h
    split at h
    · rcases List.mem_cons.1 h with h | h
      · exact .inl h
      · exact .inr (List.mem_cons_of_mem _ h)
    · split at h
      · exact List.mem_cons.1 h
      · rcases List.mem_cons.1 h with h | h
        · exact .inr (h ▸ List.mem_cons_self)
        · exact (ih h).imp id (List.mem_cons_of_mem _)

theorem FMap.mem_del {α : Type} {m : FMap α} {k : Nat} {e : Nat × α} (h : e ∈ FMap.del m k) : e ∈ m := by
  induction m with
  | nil => exact h
  | cons e' t ih =>
    obtain ⟨j, w⟩ := e'
    simp only [FMap.del] at h
    split at h
    · exact List.mem_cons_of_mem _ (ih h)
    · rcases List.mem_cons.1 h with h | h
      · exact h ▸ List.mem_cons_self
      · exact List.mem_cons_of_mem _ (ih h)

/-- A write keeps the canonical form. -/
theorem FMap.canon_write {α : Type} [DecidableEq α] (m : FMap α) (d : α) (k : Nat) (v : α)
    (h : FMap.canon m d = true) : FMap.canon (FMap.write m d k v) d = true := by
  simp only [FMap.canon, Bool.and_eq_true, List.all_eq_true, decide_eq_true_eq] at h ⊢
  unfold FMap.write
  split
  · exact ⟨FMap.risesFrom_del m 0 k h.1, fun e he => h.2 e (FMap.mem_del he)⟩
  · refine ⟨FMap.risesFrom_put m 0 k v (Nat.zero_le k) h.1, fun e he => ?_⟩
    rcases FMap.mem_put he with rfl | he
    · assumption
    · exact h.2 e he

/-- Writing a list keeps the canonical form. -/
theorem FMap.canon_writeFrom {α : Type} [DecidableEq α] (vs : List α) (m : FMap α) (d : α) (k : Nat)
    (h : FMap.canon m d = true) : FMap.canon (FMap.writeFrom m d k vs) d = true := by
  induction vs generalizing m k with
  | nil => exact h
  | cons v t ih => exact ih _ _ (FMap.canon_write m d k v h)

theorem FMap.look_lt {α : Type} (m : FMap α) (d : α) (a k : Nat) (h : FMap.risesFrom m a = true) (hk : k < a) :
    FMap.look m d k = d := by
  induction m generalizing a with
  | nil => rfl
  | cons e t ih =>
    obtain ⟨j, w⟩ := e
    simp only [FMap.risesFrom, Bool.and_eq_true, decide_eq_true_eq] at h
    rw [FMap.look, if_neg (by omega)]
    exact ih (j + 1) h.2 (by omega)

theorem FMap.ext_rises {α : Type} [DecidableEq α] (m n : FMap α) (d : α) (a : Nat) (hm : FMap.risesFrom m a = true)
    (hn : FMap.risesFrom n a = true) (dm : ∀ e ∈ m, e.2 ≠ d) (dn : ∀ e ∈ n, e.2 ≠ d)
    (h : ∀ k, FMap.look m d k = FMap.look n d k) : m = n := by
  induction m generalizing n a with
  | nil =>
    cases n with
    | nil => rfl
    | cons e t =>
      obtain ⟨j, w⟩ := e
      have := h j
      simp only [FMap.look, if_true] at this
      exact absurd this.symm (dn (j, w) List.mem_cons_self)
  | cons e t ih =>
    obtain ⟨j, w⟩ := e
    simp only [FMap.risesFrom, Bool.and_eq_true, decide_eq_true_eq] at hm
    cases n with
    | nil =>
      have := h j
      simp only [FMap.look, if_true] at this
      exact absurd this (dm (j, w) List.mem_cons_self)
    | cons e' t' =>
      obtain ⟨j', w'⟩ := e'
      simp only [FMap.risesFrom, Bool.and_eq_true, decide_eq_true_eq] at hn
      have hj := h j
      have hj' := h j'
      simp only [FMap.look, if_true] at hj hj'
      have hjj : j = j' := by
        by_contra hne
        rcases Nat.lt_or_gt_of_ne hne with hl | hl
        · rw [if_neg (by omega), FMap.look_lt t' d (j' + 1) j hn.2 (by omega)] at hj
          exact dm (j, w) List.mem_cons_self hj
        · rw [if_neg hne, FMap.look_lt t d (j + 1) j' hm.2 (by omega)] at hj'
          exact dn (j', w') List.mem_cons_self hj'.symm
      subst hjj
      rw [if_pos rfl] at hj
      subst hj
      congr 1
      refine ih t' (j + 1) hm.2 hn.2 (fun e he => dm e (List.mem_cons_of_mem _ he))
        (fun e he => dn e (List.mem_cons_of_mem _ he)) (fun k => ?_)
      by_cases hk : k < j + 1
      · rw [FMap.look_lt t d _ k hm.2 hk, FMap.look_lt t' d _ k hn.2 hk]
      · have := h k
        simpa only [FMap.look, if_neg (show ¬ j = k by omega)] using this

/-- Keys rise from a bound on just where each is at least the bound and each is below those after it. -/
theorem FMap.risesFrom_iff {α : Type} (m : FMap α) (lo : Nat) :
    FMap.risesFrom m lo = true ↔ (∀ e, e ∈ m → lo ≤ e.1) ∧ m.Pairwise (fun a b => a.1 < b.1) := by
  induction m generalizing lo with
  | nil => simp [FMap.risesFrom]
  | cons e t ih =>
    obtain ⟨j, w⟩ := e
    simp only [FMap.risesFrom, Bool.and_eq_true, decide_eq_true_eq, ih, List.forall_mem_cons, List.pairwise_cons]
    constructor
    · rintro ⟨h, a, b⟩; exact ⟨⟨h, fun e he => by have := a e he; omega⟩, fun e he => a e he, b⟩
    · rintro ⟨⟨h, -⟩, a, b⟩; exact ⟨h, a, b⟩

/-- The canonical form in terms of the list's entries. -/
theorem FMap.canon_iff {α : Type} [DecidableEq α] (m : FMap α) (d : α) :
    FMap.canon m d = true ↔ m.Pairwise (fun a b => a.1 < b.1) ∧ ∀ e, e ∈ m → e.2 ≠ d := by
  simp [FMap.canon, FMap.risesFrom_iff]

/-- Leaving entries out keeps the canonical form. -/
theorem FMap.canon_filter {α : Type} [DecidableEq α] {m : FMap α} {d : α} (p : Nat × α → Bool) (h : FMap.canon m d = true) :
    FMap.canon (m.filter p) d = true := by
  rw [FMap.canon_iff] at h ⊢
  exact ⟨h.1.filter p, fun e he => h.2 e (List.mem_filter.1 he).1⟩

/-- Two maps in canonical form, the keys of one below those of the other, make one. -/
theorem FMap.canon_append {α : Type} [DecidableEq α] {m n : FMap α} {d : α} (hm : FMap.canon m d = true)
    (hn : FMap.canon n d = true) (h : ∀ a, a ∈ m → ∀ b, b ∈ n → a.1 < b.1) : FMap.canon (m ++ n) d = true := by
  rw [FMap.canon_iff] at hm hn ⊢
  exact ⟨List.pairwise_append.2 ⟨hm.1, hn.1, h⟩, fun e he => (List.mem_append.1 he).elim (hm.2 e) (hn.2 e)⟩

/-- Moving every key by an order keeping function keeps the canonical form. -/
theorem FMap.canon_rekey {α : Type} [DecidableEq α] {m : FMap α} {d : α} (f : Nat → Nat)
    (hf : ∀ a, a ∈ m → ∀ b, b ∈ m → a.1 < b.1 → f a.1 < f b.1) (h : FMap.canon m d = true) :
    FMap.canon (m.map (fun e => (f e.1, e.2))) d = true := by
  rw [FMap.canon_iff] at h ⊢
  refine ⟨List.pairwise_map.2 (h.1.imp_of_mem fun {a b} ha hb => hf a ha b hb), fun e he => ?_⟩
  obtain ⟨a, ha, rfl⟩ := List.mem_map.1 he
  exact h.2 a ha

/-- The values a fill lists: each at its own key, keys rising. -/
theorem FMap.filled_canon {α : Type} [DecidableEq α] (d : α) (k : Nat) (vs : List α) :
    FMap.canon (((vs.zipIdx k).map (fun p => (p.2, p.1))).filter (fun e => decide (e.2 ≠ d))) d = true ∧
    ∀ e, e ∈ ((vs.zipIdx k).map (fun p => (p.2, p.1))).filter (fun e => decide (e.2 ≠ d)) → k ≤ e.1 ∧ e.1 < k + vs.length := by
  rw [FMap.canon_iff]
  have b : ∀ (vs : List α) (k : Nat), ∀ e, e ∈ (vs.zipIdx k).map (fun p => (p.2, p.1)) → k ≤ e.1 ∧ e.1 < k + vs.length := by
    intro vs
    induction vs with
    | nil => simp
    | cons v t ih =>
      intro k e he
      rcases List.mem_cons.1 he with rfl | he
      · simp
      · have := ih (k + 1) e he; simp only [List.length_cons]; omega
  have r : ∀ (vs : List α) (k : Nat), ((vs.zipIdx k).map (fun p => (p.2, p.1))).Pairwise (fun a b => a.1 < b.1) := by
    intro vs
    induction vs with
    | nil => simp
    | cons v t ih => intro k; exact List.pairwise_cons.2 ⟨fun e he => Nat.lt_of_lt_of_le (Nat.lt_succ_self k) (b t (k + 1) e he).1, ih (k + 1)⟩
  exact ⟨⟨(r vs k).filter _, fun e he => by simpa using (List.mem_filter.1 he).2⟩, fun e he => b vs k e (List.mem_filter.1 he).1⟩

/-- A fill keeps the canonical form. -/
theorem FMap.canon_fill {α : Type} [DecidableEq α] {m : FMap α} {d : α} (k : Nat) (vs : List α) (h : FMap.canon m d = true) :
    FMap.canon (FMap.fill m d k vs) d = true := by
  obtain ⟨c, b⟩ := FMap.filled_canon d k vs
  refine FMap.canon_append (FMap.canon_append (FMap.canon_filter _ h) c fun x hx y hy => ?_) (FMap.canon_filter _ h) fun x hx y hy => ?_
  · have := b y hy; have : x.1 < k := by simpa using (List.mem_filter.1 hx).2
    omega
  · have hy' : k + vs.length ≤ y.1 := by simpa using (List.mem_filter.1 hy).2
    rcases List.mem_append.1 hx with hx | hx
    · have : x.1 < k := by simpa using (List.mem_filter.1 hx).2
      omega
    · have := b x hx; omega

/-- Two maps in canonical form that read alike are equal data. -/
theorem FMap.canon_ext {α : Type} [DecidableEq α] (m n : FMap α) (d : α) (hm : FMap.canon m d = true)
    (hn : FMap.canon n d = true) (h : ∀ k, FMap.look m d k = FMap.look n d k) : m = n := by
  simp only [FMap.canon, Bool.and_eq_true, List.all_eq_true, decide_eq_true_eq] at hm hn
  exact FMap.ext_rises m n d 0 hm.1 hn.1 hm.2 hn.2 h

/-! ### Memory -/

/-- The three byte spaces are in canonical form. -/
def State.bytesWf (s : State) : Prop :=
  Memory.wf s.mem = true ∧ FMap.canon s.pool 0 = true ∧ FMap.canon s.sram 0 = true

theorem State.reset_bytesWf : State.reset.bytesWf := ⟨rfl, rfl, rfl⟩

theorem State.memWrite_bytesWf {s : State} (h : s.bytesWf) (pa : Nat) (l : List Byte) : (s.memWrite pa l).bytesWf :=
  ⟨FMap.canon_writeFrom l s.mem _ pa h.1, h.2⟩

theorem State.frameWrite_bytesWf {s : State} (h : s.bytesWf) (ck x : Nat) (l : List Byte) :
    (s.frameWrite ck x l).bytesWf :=
  ⟨h.1, FMap.canon_writeFrom l s.pool _ _ h.2.1, h.2.2⟩

theorem State.frameFill_bytesWf {s : State} (h : s.bytesWf) (ck x : Nat) (l : List Byte) : (s.frameFill ck x l).bytesWf :=
  ⟨h.1, FMap.canon_fill _ l h.2.1, h.2.2⟩

theorem State.spWrite_bytesWf {s : State} (h : s.bytesWf) (ck x : Nat) (l : List Byte) : (s.spWrite ck x l).bytesWf :=
  State.frameWrite_bytesWf h ..

theorem State.sramWrite_bytesWf {s : State} (h : s.bytesWf) (bk x : Nat) (l : List Byte) : (s.sramWrite bk x l).bytesWf :=
  ⟨h.1, h.2.1, FMap.canon_writeFrom l s.sram _ _ h.2.2⟩

/-- A state whose three byte spaces are another's keeps their canonical form. -/
theorem State.bytesWf_of_eq {s t : State} (h : s.bytesWf) (hm : t.mem = s.mem) (hp : t.pool = s.pool)
    (hs : t.sram = s.sram) : t.bytesWf := by
  simpa only [State.bytesWf, hm, hp, hs] using h

/-- Reading bytes of memory just written gives them. -/
theorem State.memRead_memWrite (s : State) (pa : Nat) (l : List Byte) : (s.memWrite pa l).memRead pa l.length = l :=
  FMap.lookFrom_writeFrom l s.mem _ pa

/-- A write of memory leaves every byte outside it alone. -/
theorem State.memWrite_look (s : State) (pa k : Nat) (l : List Byte) (h : k < pa ∨ pa + l.length ≤ k) :
    FMap.look (s.memWrite pa l).mem Memory.unlisted k = FMap.look s.mem Memory.unlisted k := by
  rw [State.memWrite, FMap.look_writeFrom, if_neg (by omega)]

/-- Reading frame bytes just written gives them. -/
theorem State.frameRead_frameWrite (s : State) (ck x : Nat) (l : List Byte) :
    (s.frameWrite ck x l).frameRead ck x l.length = l :=
  FMap.lookFrom_writeFrom l s.pool _ _

/-- A write of frame bytes leaves every byte outside it alone. -/
theorem State.frameWrite_look (s : State) (ck x k : Nat) (l : List Byte)
    (h : k < frameKey ck x ∨ frameKey ck x + l.length ≤ k) :
    FMap.look (s.frameWrite ck x l).pool 0 k = FMap.look s.pool 0 k := by
  rw [State.frameWrite, FMap.look_writeFrom, if_neg (by omega)]

theorem natOfBytes_bytesOfNat (n v : Nat) : natOfBytes (bytesOfNat n v) = v % 256 ^ n := by
  induction n generalizing v with
  | zero => simp [bytesOfNat, natOfBytes, Nat.mod_one]
  | succ n ih =>
    have h := ih (v / 256)
    simp only [natOfBytes] at h
    simp only [bytesOfNat, natOfBytes, List.foldr_cons, h, BitVec.toNat_ofNat]
    rw [show 256 ^ (n + 1) = 256 * 256 ^ n by rw [Nat.pow_succ, Nat.mul_comm], Nat.mod_mul]

theorem bytesOfNat_length (n v : Nat) : (bytesOfNat n v).length = n := by
  induction n generalizing v with
  | zero => rfl
  | succ n ih => simp [bytesOfNat, ih]

end Sys2Proof.Machine
end

