-- ==== Sys2Proof/Laws/Operands.lean ====
section
/-! SUPPORT. Laws of operand forms: a vector register after a write, and what a pass over the executing threads leaves
in every register. -/

namespace Sys2Proof.Machine

/-! ### One write -/

theorem Bundle.vreg_setVreg (b : Bundle) (t n u k : Nat) (v : Word) (ht : t < 64) (hu : u < 64) :
    (b.setVreg t n v).vreg u k = if u = t ∧ k = n then v else b.vreg u k := by
  simp only [Bundle.vreg, Bundle.setVreg, FMap.look_write]
  by_cases h : u = t ∧ k = n
  · rw [if_pos h, if_pos (by omega)]
  · rw [if_neg h, if_neg (by omega)]

theorem Bundle.vget_toNat (b : Bundle) (wide : Bool) (t n : Nat) : (b.vget wide t n).toNat = regGet wide (b.regs t) n := by
  have h1 := (b.vreg t n).isLt
  have h2 := (b.vreg t (n + 1)).isLt
  cases wide
  · simp only [Bundle.vget, regGet, Bundle.regs, Bool.false_eq_true, if_false, BitVec.toNat_setWidth]
    omega
  · have e : b.vpair t n = (b.vreg t (n + 1)) ++ (b.vreg t n) := by
      apply BitVec.eq_of_getLsbD_eq
      intro i hi
      simp only [Bundle.vpair, BitVec.getLsbD_or, BitVec.getLsbD_setWidth, BitVec.getLsbD_shiftLeft, BitVec.getLsbD_append]
      by_cases h : i < 32
      · simp [h, hi]
      · have : (b.vreg t n).getLsbD i = false := BitVec.getLsbD_of_ge _ _ (by omega)
        simp [h, hi, this]; omega
    simp only [Bundle.vget, if_true, regGet, Bundle.regs, e]
    rw [BitVec.toNat_append, Nat.shiftLeft_eq, Nat.mul_comm, ← Nat.two_pow_add_eq_or_of_lt h1]
    omega

theorem Bundle.regs_vput (b : Bundle) (wide : Bool) (t n u : Nat) (v : DWord) (ht : t < 64) (hu : u < 64) :
    (b.vput wide t n v).regs u = if u = t then regPut wide (b.regs t) n v.toNat else b.regs u := by
  have e1 : (BitVec.truncate 32 v : Word) = BitVec.ofNat 32 v.toNat := by
    apply BitVec.eq_of_toNat_eq; simp
  have e2 : (BitVec.truncate 32 (v >>> 32) : Word) = BitVec.ofNat 32 (v.toNat / 2 ^ 32) := by
    apply BitVec.eq_of_toNat_eq; simp [Nat.shiftRight_eq_div_pow]
  by_cases hu' : u = t
  · subst hu'
    rw [if_pos rfl]
    funext k
    cases wide
    · simp only [Bundle.vput, Bundle.regs, regPut, Bool.false_eq_true, if_false, false_and, e1,
        Bundle.vreg_setVreg _ _ _ _ _ _ hu hu, true_and]
    · simp only [Bundle.vput, if_true, Bundle.setVpair, Bundle.regs, regPut, e1, e2,
        Bundle.vreg_setVreg _ _ _ _ _ _ hu hu, true_and]
      by_cases hk : k = n
      · rw [if_pos hk, if_neg (by omega), if_pos hk]
      · rw [if_neg hk, if_neg hk]
  · rw [if_neg hu']
    funext k
    cases wide <;>
      simp only [Bundle.vput, if_true, Bool.false_eq_true, if_false, Bundle.setVpair, Bundle.regs,
        Bundle.vreg_setVreg _ _ _ _ _ _ ht hu, hu', false_and]

/-- Two bundles that differ in vector registers and sticky bits only. -/
def Bundle.alike (c b : Bundle) : Prop := c = { b with v := c.v, status := c.status }

theorem Bundle.alike_refl (b : Bundle) : b.alike b := rfl

theorem Bundle.alike_vput {c b : Bundle} (h : c.alike b) (wide : Bool) (t n : Nat) (v : DWord) :
    (c.vput wide t n v).alike b := by
  unfold Bundle.alike at h
  cases wide <;> simp only [Bundle.alike, Bundle.vput, Bundle.setVpair, Bundle.setVreg, if_true, Bool.false_eq_true, if_false] <;>
    rw [h]

theorem Bundle.alike_stick {c b : Bundle} (h : c.alike b) (w : DWord) : (c.stick w).alike b := by
  unfold Bundle.alike at h
  simp only [Bundle.alike, Bundle.stick]
  rw [h]

theorem Bundle.regs_stick (c : Bundle) (w : DWord) (u : Nat) : (c.stick w).regs u = c.regs u := rfl

/-! ### One thread's positions -/

/-- What a pass at a list of positions of one thread leaves. -/
theorem Bundle.positions_pass {b : Bundle} {wide : Bool} {t d : Nat} (ht : t < 64)
    (g : Bundle → Nat → DWord × DWord) (val : Regs → Nat → Nat)
    (num : Bundle → Nat) (hn : ∀ c : Bundle, c.alike b → num c = d)
    (hg : ∀ (c : Bundle) k, c.alike b → (g c k).1.toNat = val (c.regs t) k) (ks : List Nat) (c : Bundle)
    (hc : c.alike b) :
    let e := ks.foldl (fun c k => (c.vput wide t (num c + k) (g c k).1).stick (g c k).2) c
    e.alike b ∧ ∀ u, u < 64 → e.regs u = if u = t then blockRun wide ks d val (c.regs t) else c.regs u := by
  induction ks generalizing c with
  | nil => exact ⟨hc, fun u _ => by split <;> simp_all [blockRun]⟩
  | cons k ks ih =>
    have hc' : ((c.vput wide t (num c + k) (g c k).1).stick (g c k).2).alike b :=
      Bundle.alike_stick (Bundle.alike_vput hc ..) _
    obtain ⟨h1, h2⟩ := ih _ hc'
    refine ⟨h1, fun u hu => ?_⟩
    simp only [List.foldl_cons]
    rw [h2 u hu, Bundle.regs_stick, Bundle.regs_stick, Bundle.regs_vput _ _ _ _ _ _ ht hu,
      Bundle.regs_vput _ _ _ _ _ _ ht ht, if_pos rfl, hn c hc, hg c k hc]
    split <;> simp [blockRun]

/-! ### All threads -/

theorem bitsOf_nodup (m : DWord) : (bitsOf m).Nodup := List.nodup_range.filter _

theorem mem_bitsOf (m : DWord) (t : Nat) : t ∈ bitsOf m ↔ t < 64 ∧ hasBit m t = true := by
  simp [bitsOf, List.mem_filter]

/-- A pass over threads, each of which changes its own registers only. -/
theorem Bundle.threads_pass {b : Bundle} (f : Bundle → Nat → Bundle) (R : Nat → Regs → Regs)
    (hf : ∀ c t, c.alike b → t < 64 → (f c t).alike b ∧
      ∀ u, u < 64 → (f c t).regs u = if u = t then R t (c.regs t) else c.regs u)
    (l : List Nat) (hl : l.Nodup) (hb : ∀ t ∈ l, t < 64) (c : Bundle) (hc : c.alike b) :
    (l.foldl f c).alike b ∧ ∀ u, u < 64 → (l.foldl f c).regs u = if u ∈ l then R u (c.regs u) else c.regs u := by
  induction l generalizing c with
  | nil => exact ⟨hc, fun u _ => by simp⟩
  | cons t l ih =>
    obtain ⟨h1, h2⟩ := hf c t hc (hb t List.mem_cons_self)
    obtain ⟨h3, h4⟩ := ih (List.nodup_cons.1 hl).2 (fun u hu => hb u (List.mem_cons_of_mem _ hu)) (f c t) h1
    refine ⟨h3, fun u hu => ?_⟩
    simp only [List.foldl_cons]
    rw [h4 u hu, h2 u hu]
    by_cases hut : u = t
    · subst hut
      rw [if_neg (List.nodup_cons.1 hl).1, if_pos rfl, if_pos List.mem_cons_self]
    · simp [hut]

/-- What a vector form leaves: its results, zeros where zeroing reaches, everything else as it was. -/
theorem Bundle.vectorPass_law (b : Bundle) (x : Enc) (wide : Bool) (step : Nat)
    (g : Bundle → Nat → Nat → DWord × DWord) (val : Nat → Regs → Nat → Nat)
    (hg : ∀ (c : Bundle) t k, c.alike b → t < 64 → (g c t k).1.toNat = val t (c.regs t) k) :
    (b.vectorPass x wide step g).alike b ∧ VectorResult b (b.vectorPass x wide step g).v x wide step val := by
  have hnum : ∀ (c : Bundle) t, c.alike b → c.num x 3 x.d t = b.num x 3 x.d t := by
    intro c t hc; unfold Bundle.alike at hc; rw [hc]; rfl
  have hallot : ∀ c : Bundle, c.alike b → c.allot = b.allot := by
    intro c hc; unfold Bundle.alike at hc; rw [hc]
  obtain ⟨h1, h2⟩ := Bundle.threads_pass (b := b)
    (fun c t => (positions x step).foldl (fun c k =>
      (c.vput wide t (c.num x 3 x.d t + k) (g c t k).1).stick (g c t k).2) c)
    (fun t => blockRun wide (positions x step) (b.num x 3 x.d t) (val t))
    (fun c t hc ht => Bundle.positions_pass ht (fun c k => g c t k) (val t) (fun c => c.num x 3 x.d t)
      (fun c hc => hnum c t hc) (fun c k hc => hg c t k hc ht) (positions x step) c hc)
    (bitsOf (b.executing x)) (bitsOf_nodup _) (fun t ht => ((mem_bitsOf _ _).1 ht).1) b b.alike_refl
  have hz : ∀ t, t < 64 → ∀ ks (c : Bundle), c.alike b →
      (ks.foldl (fun c k => if c.num x 3 x.d t + k < c.allot then c.vput wide t (c.num x 3 x.d t + k) 0 else c) c).alike b ∧
      ∀ u, u < 64 → (ks.foldl (fun c k =>
        if c.num x 3 x.d t + k < c.allot then c.vput wide t (c.num x 3 x.d t + k) 0 else c) c).regs u =
        if u = t then blockZero wide ks (b.num x 3 x.d t) b.allot (c.regs t) else c.regs u := by
    intro t ht ks
    induction ks with
    | nil => intro c hc; exact ⟨hc, fun u _ => by split <;> simp_all [blockZero]⟩
    | cons k ks ih =>
      intro c hc
      simp only [List.foldl_cons, hnum c t hc, hallot c hc]
      by_cases hk : b.num x 3 x.d t + k < b.allot
      · simp only [if_pos hk]
        obtain ⟨i1, i2⟩ := ih _ (Bundle.alike_vput hc wide t (b.num x 3 x.d t + k) 0)
        refine ⟨i1, fun u hu => ?_⟩
        rw [i2 u hu, Bundle.regs_vput _ _ _ _ _ _ ht hu, Bundle.regs_vput _ _ _ _ _ _ ht ht]
        split <;> simp [blockZero, hk]
      · simp only [if_neg hk]
        obtain ⟨i1, i2⟩ := ih c hc
        refine ⟨i1, fun u hu => ?_⟩
        rw [i2 u hu]
        simp [blockZero, hk]
  obtain ⟨h3, h4⟩ := Bundle.threads_pass (b := b)
    (fun c t => (positions x step).foldl (fun c k =>
      if c.num x 3 x.d t + k < c.allot then c.vput wide t (c.num x 3 x.d t + k) 0 else c) c)
    (fun t => blockZero wide (positions x step) (b.num x 3 x.d t) b.allot)
    (fun c t hc ht => hz t ht (positions x step) c hc)
    (bitsOf (b.zeroed x)) (bitsOf_nodup _) (fun t ht => ((mem_bitsOf _ _).1 ht).1) _ h1
  refine ⟨h3, fun t n ht => ?_⟩
  have h := congrFun (h4 t ht) n
  rw [h2 t ht] at h
  refine h.trans ?_
  have hex : t ∈ bitsOf (b.executing x) ↔ hasBit (b.executing x) t = true := by rw [mem_bitsOf]; simp [ht]
  have hze : t ∈ bitsOf (b.zeroed x) ↔ hasBit (b.zeroed x) t = true := by rw [mem_bitsOf]; simp [ht]
  by_cases he : hasBit (b.executing x) t = true
  · have hz : ¬ hasBit (b.zeroed x) t = true := by
      simp only [Bundle.zeroed, hasBit] at he ⊢
      split <;> simp [he]
    simp [hex, hze, he, hz]
  · simp [hex, hze, he]

theorem Bundle.vectorPass_status (b : Bundle) (x : Enc) (wide : Bool) (step : Nat)
    (g : Bundle → Nat → Nat → DWord × DWord) (h : ∀ c t k, (g c t k).2 = 0) :
    (b.vectorPass x wide step g).status = b.status := by
  have hput : ∀ (c : Bundle) w t n v, (c.vput w t n v).status = c.status := by
    intro c w t n v; cases w <;> rfl
  have h1 : ∀ (t : Nat) (ks : List Nat) (c : Bundle), (ks.foldl (fun c k =>
      (c.vput wide t (c.num x 3 x.d t + k) (g c t k).1).stick (g c t k).2) c).status = c.status := by
    intro t ks
    induction ks with
    | nil => intro c; rfl
    | cons k ks ih => intro c; simp only [List.foldl_cons]; rw [ih]; simp [Bundle.stick, h, hput]
  have h2 : ∀ (t : Nat) (ks : List Nat) (c : Bundle), (ks.foldl (fun c k =>
      if c.num x 3 x.d t + k < c.allot then c.vput wide t (c.num x 3 x.d t + k) 0 else c) c).status = c.status := by
    intro t ks
    induction ks with
    | nil => intro c; rfl
    | cons k ks ih => intro c; simp only [List.foldl_cons]; rw [ih]; split <;> simp [hput]
  have h3 : ∀ (f : Bundle → Nat → Bundle), (∀ c t, (f c t).status = c.status) → ∀ (l : List Nat) (c : Bundle),
      (l.foldl f c).status = c.status := by
    intro f hf l
    induction l with
    | nil => intro c; rfl
    | cons t l ih => intro c; simp only [List.foldl_cons]; rw [ih, hf]
  unfold Bundle.vectorPass
  rw [h3 _ (fun c t => h2 t _ c), h3 _ (fun c t => h1 t _ c)]

end Sys2Proof.Machine
end

