-- ==== Sys2Proof/Laws/Ops.lean ====
section
/-! SUPPORT. Laws of the operations that every meaning shares: storing a bundle, passing on, choosing a path, and the
frames in which a unit passes. -/

namespace Sys2Proof.Machine

/-! ### Storing -/

theorem FMap.put_put {α : Type} (m : FMap α) (k : Nat) (v w : α) : FMap.put (FMap.put m k v) k w = FMap.put m k w := by
  induction m with
  | nil => simp [FMap.put]
  | cons e t ih =>
    obtain ⟨j, u⟩ := e
    simp only [FMap.put]
    split
    · simp [FMap.put]
    · split
      · simp [FMap.put]
      · rename_i h1 h2
        simp [FMap.put, h1, h2, ih]

@[simp] theorem State.bundle_setBundle (s : State) (bk : Nat) (b : Bundle) : (s.setBundle bk b).bundle bk = b := by
  simp [State.bundle, State.setBundle, FMap.look_put]

theorem State.bundle_setBundle_ne (s : State) (bk k : Nat) (b : Bundle) (h : k ≠ bk) :
    (s.setBundle bk b).bundle k = s.bundle k := by
  simp [State.bundle, State.setBundle, FMap.look_put, h]

@[simp] theorem State.setBundle_setBundle (s : State) (bk : Nat) (b c : Bundle) :
    (s.setBundle bk b).setBundle bk c = s.setBundle bk c := by
  simp [State.setBundle, FMap.put_put]

@[simp] theorem after_bundle (s : State) (bk : Nat) (b : Bundle) : (after s bk b).bundle bk = b := by
  simp [State.bundle, after, FMap.look_put]

theorem State.setBundle_issued (s : State) (bk : Nat) (b : Bundle) :
    { s.setBundle bk b with issuing := none } = after s bk b := rfl

theorem State.retire_eq (s : State) (bk : Nat) (b : Bundle) (x : Enc) :
    s.retire bk b x = after s bk (b.advance (unitLen x)) := rfl

/-! ### Frames in which a unit passes -/

theorem State.onBundle_eq (s : State) (bk : Nat) (h : s.issuing = some bk) (f : Nat → Bundle → State) :
    s.onBundle f = .next (f bk (s.bundle bk)) := by
  simp [State.onBundle, h]

theorem rowOf_eq (i : Instr) (r : Row) (x : Enc) (h : i.parts = some (r, x)) : rowOf i = r := by
  simp [rowOf, h]

/-- A unit with its registers in bounds passes. -/
theorem State.onUnit_eq (s : State) (i : Instr) (x : Enc) (bk : Nat) (h : Passes s bk (rowOf i) x)
    (f : Nat → Bundle → State) : s.onUnit i x f = .next (f bk (s.bundle bk)) := by
  simp [State.onUnit, State.onBundle_eq s bk h.1, h.2]

/-- A unit with a register out of bounds only takes trap 0x02. -/
theorem State.onUnit_trap (s : State) (i : Instr) (x : Enc) (bk n : Nat) (h : s.issuing = some bk)
    (hf : (s.bundle bk).regFault (rowOf i) x = some n) (f : Nat → Bundle → State) :
    s.onUnit i x f = .next (s.trapSync bk 0x02 n) := by
  simp [State.onUnit, State.onBundle_eq s bk h, hf]

/-- A long-latency unit that may hand off acts for its bundle. -/
theorem State.onLong_eq (s : State) (i : Instr) (x : Enc) (bk : Nat) (h : MayHandOff s bk (rowOf i) x)
    (f : Nat → Bundle → State) : s.onLong i x f = .next (f bk (s.bundle bk)) := by
  have hf : (s.bundle bk).flagFull ((s.bundle bk).flagFor x) = false := by
    unfold Bundle.flagFull
    split
    · rfl
    · rename_i k hk
      have := h.2.1 k hk
      simp; omega
  rw [State.onLong, State.onUnit_eq s i x bk h.1]
  simp [hf, h.2.2]

/-- A hand-off starts the operation, numbered and named for its bundle, and changes nothing else but that bundle. -/
theorem State.handOff_eq (s : State) (bk : Nat) (x : Enc) (op : Op) :
    s.handOff bk (s.bundle bk) x op = withOp s bk x
      { op with id := s.nextId, bk := bk, ser := (s.bundle bk).ser, launch := (s.bundle bk).launch
                flag := (s.bundle bk).flagFor x, upc := (s.bundle bk).pc, rel := (s.bundle bk).rel } := by
  simp only [State.handOff, withOp, handedOff, after, State.retire, Bundle.countUp, pastUnit, Bundle.notes]
  cases (s.bundle bk).flagFor x <;> rfl

/-! ### Choosing a path (R74) -/

theorem Bundle.deepest_none (b : Bundle) (l : List Nat) (h : b.deepest l = none) : l = [] := by
  cases l with
  | nil => rfl
  | cons t r =>
    simp only [Bundle.deepest] at h
    split at h
    · cases h
    · split at h <;> cases h

/-- The thread that the choice finds is deepest, and lowest-indexed among the deepest. -/
theorem Bundle.deepest_spec (b : Bundle) (l : List Nat) (hl : l.Pairwise (· < ·)) (t : Nat) (h : b.deepest l = some t) :
    t ∈ l ∧ ∀ u ∈ l, (b.thread u).depth < (b.thread t).depth ∨ ((b.thread u).depth = (b.thread t).depth ∧ t ≤ u) := by
  induction l generalizing t with
  | nil => cases h
  | cons a r ih =>
    simp only [Bundle.deepest] at h
    cases hr : b.deepest r with
    | none =>
      rw [hr] at h
      have := Bundle.deepest_none b r hr
      subst this
      cases h
      simp
    | some v =>
      rw [hr] at h
      obtain ⟨h1, h2⟩ := ih (List.pairwise_cons.1 hl).2 v hr
      simp only at h
      split at h
      · cases h
        refine ⟨List.mem_cons_of_mem _ h1, fun u hu => ?_⟩
        rcases List.mem_cons.1 hu with rfl | hu
        · exact .inl (by assumption)
        · exact h2 u hu
      · cases h
        refine ⟨List.mem_cons_self, fun u hu => ?_⟩
        rcases List.mem_cons.1 hu with rfl | hu
        · exact .inr ⟨rfl, Nat.le_refl _⟩
        · have := (List.pairwise_cons.1 hl).1 u hu
          rcases h2 u hu with h3 | h3 <;> omega

theorem bitsOf_sorted (m : DWord) : (bitsOf m).Pairwise (· < ·) := List.Pairwise.filter _ List.pairwise_lt_range

theorem bitsOf_eq_nil (m : DWord) (h : bitsOf m = []) : m = 0 := by
  apply BitVec.eq_of_getLsbD_eq
  intro i hi
  have : i ∉ bitsOf m := by rw [h]; simp
  simpa [bitsOf, hasBit, hi] using this

/-- Every choice leaves the bundle on the path of R74. -/
theorem Bundle.choose_onChosenPath (b : Bundle) : b.choose.onChosenPath := by
  unfold Bundle.choose
  split
  · rename_i h
    refine .inl ⟨?_, rfl⟩
    exact bitsOf_eq_nil _ (Bundle.deepest_none b _ h)
  · rename_i t h
    obtain ⟨h1, h2⟩ := Bundle.deepest_spec b _ (bitsOf_sorted _) t h
    have hm : ∀ u, u ∈ bitsOf b.candidates ↔ u < 64 ∧ hasBit b.candidates u = true := by
      intro u; simp [bitsOf]
    refine .inr ⟨t, ((hm t).1 h1).1, ((hm t).1 h1).2, fun u hu hc => h2 u ((hm u).2 ⟨hu, hc⟩), rfl⟩

/-- A choice changes the active set only. -/
theorem Bundle.choose_eq (b : Bundle) : b.choose = { b with active := b.choose.active } := by
  unfold Bundle.choose
  split <;> rfl

/-- Where a path is left running it goes on; where none is, one is chosen. -/
theorem Bundle.rechoose_spec (b : Bundle) :
    b.rechoose = { b with active := b.rechoose.active } ∧
      ((b.rechoose.active = b.active &&& b.running ∧ b.rechoose.active ≠ 0) ∨ b.rechoose.onChosenPath) := by
  by_cases h : b.active &&& b.running = 0
  · have e : b.rechoose = ({ b with active := b.active &&& b.running } : Bundle).choose := by
      unfold Bundle.rechoose; exact if_pos h
    rw [e]
    exact ⟨by rw [Bundle.choose_eq], .inr (Bundle.choose_onChosenPath _)⟩
  · have e : b.rechoose = { b with active := b.active &&& b.running } := by
      unfold Bundle.rechoose; exact if_neg h
    rw [e]
    exact ⟨rfl, .inl ⟨rfl, h⟩⟩

/-! ### Saved images -/

/-- The image of a frame has the form in which it can be loaded back. -/
theorem State.imageOf_fits {s : State} (h : FMap.canon s.pool 0 = true) (c d : Nat) :
    FMap.canon (s.imageOf c d).pool 0 = true ∧ ∀ e, e ∈ (s.imageOf c d).pool → e.1 < 2 ^ 22 := by
  refine ⟨FMap.canon_rekey (· % 2 ^ 22) (fun a ha b hb l => ?_) (FMap.canon_filter _ h), fun e he => ?_⟩
  · have ha : a.1 / 2 ^ 22 = c * 1024 + d := by simpa using (List.mem_filter.1 ha).2
    have hb : b.1 / 2 ^ 22 = c * 1024 + d := by simpa using (List.mem_filter.1 hb).2
    omega
  · obtain ⟨a, -, rfl⟩ := List.mem_map.1 he
    exact Nat.mod_lt _ (by decide)

/-- Loading an image keeps the canonical form. -/
theorem State.loadFrame_bytesWf {s : State} (h : s.bytesWf) (ck : Nat) (x : Image) (hc : FMap.canon x.pool 0 = true)
    (hb : ∀ e, e ∈ x.pool → e.1 < 2 ^ 22) : (s.loadFrame ck x).bytesWf := by
  refine ⟨h.1, FMap.canon_append (FMap.canon_append (FMap.canon_filter _ h.2.1)
    (FMap.canon_rekey (2 ^ 22 * ck + ·) (fun a _ b _ l => by omega) hc) fun a ha b hb' => ?_)
    (FMap.canon_filter _ h.2.1) fun a ha b hb' => ?_, h.2.2⟩
  · have ha : a.1 / 2 ^ 22 < ck := by simpa using (List.mem_filter.1 ha).2
    obtain ⟨y, -, rfl⟩ := List.mem_map.1 hb'
    simp only; omega
  · have hk : ck < b.1 / 2 ^ 22 := by simpa using (List.mem_filter.1 hb').2
    rcases List.mem_append.1 ha with ha | ha
    · have ha : a.1 / 2 ^ 22 < ck := by simpa using (List.mem_filter.1 ha).2
      omega
    · obtain ⟨y, hy, rfl⟩ := List.mem_map.1 ha
      have := hb y hy; simp only; omega

end Sys2Proof.Machine
end

