-- ==== Sys2Proof/Laws/Settle.lean ====
section
/-! SUPPORT. What follows from an effect without an access of its own: barriers that are evaluated, threads that die or wake,
flags that fall and operations that complete. Each of these operations keeps every byte, every register of a package, a
context or a function and everything on its way; it changes bundles, sets, barriers, launches, tags, held errors and
the list of operations, to which it adds none. -/

namespace Sys2Proof.Machine

/-- A state follows from another without an effect outside the bundle engine's own records, and without a new operation. Numbers
are only counted on: requests that are queued anew take some. -/
def Settles (s t : State) : Prop :=
  t = { s with bundles := t.bundles, cores := t.cores, sets := t.sets, bars := t.bars, launches := t.launches
               ops := t.ops, xerrs := t.xerrs, nextId := t.nextId } ∧
  s.nextId ≤ t.nextId ∧
  ∀ o, o ∈ t.ops → ∃ p, p ∈ s.ops ∧ p.id = o.id

theorem Settles.refl (s : State) : Settles s s := ⟨rfl, Nat.le_refl _, fun o h => ⟨o, h, rfl⟩⟩

theorem Settles.trans {s t u : State} (h : Settles s t) (k : Settles t u) : Settles s u := by
  obtain ⟨h1, hn, h2⟩ := h
  obtain ⟨k1, kn, k2⟩ := k
  refine ⟨?_, Nat.le_trans hn kn, fun o ho => ?_⟩
  · rw [h1] at k1
    exact k1
  · obtain ⟨p, hp, e⟩ := k2 o ho
    obtain ⟨q, hq, e'⟩ := h2 p hp
    exact ⟨q, hq, e'.trans e⟩

theorem Settles.foldl {α : Type} {f : State → α → State} (h : ∀ s a, Settles s (f s a)) (l : List α) (s : State) :
    Settles s (l.foldl f s) := by
  induction l generalizing s with
  | nil => exact .refl s
  | cons a l ih => exact (h s a).trans (ih _)

/-- The operations in progress keep numbers below the next one. -/
theorem Settles.numbered {s t : State} (h : Settles s t) (n : s.numbered) : t.numbered := fun o ho => by
  obtain ⟨p, hp, e⟩ := h.2.2 o ho
  have := n p hp
  have := h.2.1
  show o.id < t.nextId
  omega

/-- The bytes keep their canonical form. -/
theorem Settles.canonical {s t : State} (h : Settles s t) (n : s.canonical) : t.canonical := by
  rw [h.1]
  exact n

/-! ### Barriers, deaths and ends -/

theorem State.setBundle_settles (s : State) (bk : Nat) (b : Bundle) : Settles s (s.setBundle bk b) :=
  ⟨rfl, Nat.le_refl _, fun o h => ⟨o, h, rfl⟩⟩

theorem State.setCore_settles (s : State) (ck : Nat) (c : Core) : Settles s (s.setCore ck c) :=
  ⟨rfl, Nat.le_refl _, fun o h => ⟨o, h, rfl⟩⟩

theorem State.setLaunch_settles (s : State) (l : Nat) (x : Launch) : Settles s (s.setLaunch l x) :=
  ⟨rfl, Nat.le_refl _, fun o h => ⟨o, h, rfl⟩⟩

theorem State.putBar_settles (s : State) (k : Nat) (x : Bar) : Settles s (s.putBar k x) := ⟨rfl, Nat.le_refl _, fun o h => ⟨o, h, rfl⟩⟩

theorem State.putSet_settles (s : State) (k : Nat) (x : SetRec) : Settles s (s.putSet k x) :=
  ⟨rfl, Nat.le_refl _, fun o h => ⟨o, h, rfl⟩⟩

theorem State.observes_settles (s : State) (bk : Nat) (p : Unseen → Bool) : Settles s (s.observes bk p) := by
  simp only [State.observes]
  split
  · exact .refl s
  · exact s.setCore_settles _ _

theorem State.sees_settles (s : State) (bk : Nat) (key : Option Nat) : Settles s (s.sees bk key) := s.observes_settles _ _

theorem State.evalBar_settles (s : State) (key : Nat) : Settles s (s.evalBar key) :=
  Settles.trans ⟨rfl, Nat.le_refl _, fun o h => ⟨o, h, rfl⟩⟩ (Settles.foldl (fun s bk => s.sees_settles bk _) _ _)

theorem State.evalBars_settles (s : State) : Settles s s.evalBars := Settles.foldl (fun s _ => s.evalBar_settles _) _ s

theorem State.engineArrival_settles (s : State) (key : Nat) (p : Bool) : Settles s (s.engineArrival key p) :=
  (s.putBar_settles _ _).trans (State.evalBar_settles _ _)

theorem State.freeBlock_settles (s : State) (k : Block) : Settles s (s.freeBlock k) :=
  ((s.putSet_settles _ _).trans (State.putBar_settles _ _ _)).trans ⟨rfl, Nat.le_refl _, fun o h => ⟨o, h, rfl⟩⟩

theorem State.freeGrid_settles (s : State) (l : Nat) : Settles s (s.freeGrid l) := by
  simp only [State.freeGrid]
  split
  · split
    · exact .refl s
    · exact (s.putSet_settles _ _).trans (State.setLaunch_settles _ _ _)
  · exact .refl s

theorem State.endBundle_settles (s : State) (bk : Nat) : Settles s (s.endBundle bk) := by
  have h : Settles s { s with bundles := FMap.del s.bundles bk } := ⟨rfl, Nat.le_refl _, fun o h => ⟨o, h, rfl⟩⟩
  simp only [State.endBundle]
  split
  · exact h
  · split
    · exact h.trans (State.setLaunch_settles _ _ _)
    · exact (((h.trans (State.freeBlock_settles _ _)).trans (State.setLaunch_settles _ _ _)).trans
        (State.freeGrid_settles _ _)).trans (State.evalBars_settles _)

theorem State.endIfDone_settles (s : State) (bk : Nat) : Settles s (s.endIfDone bk) := by
  simp only [State.endIfDone]
  split
  · exact s.endBundle_settles bk
  · exact .refl s

theorem State.killIn_settles (s : State) (bk : Nat) (m : DWord) : Settles s (s.killIn bk m) := by
  refine Settles.trans ?_ (State.evalBars_settles _)
  exact ⟨rfl, Nat.le_refl _, fun o h => ⟨o, h, rfl⟩⟩

theorem State.killLaunch_settles (s : State) (l status core : Nat) (s60 s63 : DWord) :
    Settles s (s.killLaunch l status core s60 s63) := by
  simp only [State.killLaunch]
  split
  · exact .refl s
  · refine Settles.trans ((s.setLaunch_settles _ _).trans (Settles.foldl (fun s e => ?_) _ _))
      ((State.freeGrid_settles _ _).trans (State.evalBars_settles _))
    exact (s.killIn_settles _ _).trans (State.endIfDone_settles _ _)

theorem Settles.lift {s t : State} (h : Settles { s with issuing := none } t) :
    Settles { s with issuing := none, pkgs := t.pkgs } t := by
  have e : t.pkgs = s.pkgs := by rw [h.1]
  refine ⟨?_, h.2⟩
  rw [e]
  exact h.1

/-- Taking a trap frees the lane; only a firmware core's halt touches a package's registers. -/
theorem State.takeTrap_settles (s : State) (bk code kind : Nat) (upc rpc : Word) (clo cnt eng : Nat) (tmask detail : DWord) :
    Settles { s with issuing := none, pkgs := (s.takeTrap bk code kind upc rpc clo cnt eng tmask detail).pkgs }
      (s.takeTrap bk code kind upc rpc clo cnt eng tmask detail) := by
  simp only [State.takeTrap]
  split
  · split
    · exact Settles.lift (State.setBundle_settles _ _ _)
    split
    · exact ⟨rfl, Nat.le_refl _, fun o h => ⟨o, h, rfl⟩⟩
    · exact Settles.lift ((State.setBundle_settles _ _ _).trans (State.killLaunch_settles _ _ _ _ _ _))
  · exact State.setBundle_settles _ _ _

/-! ### Flags and operations -/

theorem State.putOp_settles (s : State) (o : Op) : Settles s (s.putOp o) := by
  refine ⟨rfl, Nat.le_refl _, fun p hp => ?_⟩
  simp only [State.putOp, List.mem_map] at hp
  obtain ⟨q, hq, rfl⟩ := hp
  refine ⟨q, hq, ?_⟩
  split
  · rename_i h
    simpa using h
  · rfl

theorem State.postErrors_settles (s : State) (bk ser : Nat) (sel : Report → Bool) : Settles s (s.postErrors bk ser sel) := by
  simp only [State.postErrors]
  split
  · exact .refl s
  · exact ⟨rfl, Nat.le_refl _, fun o h => ⟨o, h, rfl⟩⟩

theorem State.flagFall_settles (s : State) (bk ser : Nat) (fl : Option Nat) : Settles s (s.flagFall bk ser fl) := by
  simp only [State.flagFall]
  split
  · split
    · exact .refl s
    · exact ((s.setBundle_settles _ _).trans (State.postErrors_settles _ _ _ _)).trans (State.endIfDone_settles _ _)
  · exact .refl s

theorem State.releaseHeld_settles (s : State) (ck : Nat) : Settles s (s.releaseHeld ck) := by
  refine ⟨rfl, Nat.le_add_right _ _, fun p hp => ?_⟩
  simp only [State.releaseHeld, List.mem_map] at hp
  obtain ⟨q, hq, rfl⟩ := hp
  exact ⟨q, hq, rfl⟩

theorem State.finish_settles (s : State) (f : Fin) : Settles s (s.finish f) := by
  cases f with
  | none => exact .refl s
  | arrive k p => exact s.engineArrival_settles k p
  | setV ck lo hi => exact (s.setCore_settles _ _).trans (State.releaseHeld_settles _ _)

theorem State.freePort_settles (s : State) (o : Op) : Settles s (s.freePort o) := by
  simp only [State.freePort]
  split
  · exact s.setCore_settles _ _
  · exact .refl s

theorem State.completeOp_settles (s : State) (id : Nat) : Settles s (s.completeOp id) := by
  simp only [State.completeOp]
  split
  · exact .refl s
  · rename_i o _
    split
    · have h : Settles s { s with ops := s.ops.filter (fun p => p.id != id) } :=
        ⟨rfl, Nat.le_refl _, fun o ho => ⟨o, List.mem_of_mem_filter ho, rfl⟩⟩
      have k := ((h.trans (State.freePort_settles _ o)).trans (State.flagFall_settles _ o.bk o.ser o.flag)).trans
        (State.finish_settles _ o.fin)
      have g : ∀ (c : Bool) (t : State), Settles t (if c then t.sees o.bk none else t) := by
        intro c t
        split
        · exact t.sees_settles _ _
        · exact .refl t
      split
      · exact (k.trans (g _ _)).trans (State.postErrors_settles _ _ _ _)
      · exact k.trans (g _ _)
    · exact .refl s

theorem State.earlyFall_settles (s : State) (id : Nat) : Settles s (s.earlyFall id) := by
  simp only [State.earlyFall]
  split
  · exact .refl s
  · split
    · exact (s.putOp_settles _).trans (State.flagFall_settles _ _ _ _)
    · exact .refl s

theorem State.landWB_settles (s : State) (id k : Nat) : Settles s (s.landWB id k) := by
  simp only [State.landWB]
  split
  · exact .refl s
  · split
    · exact .refl s
    · split
      · exact .refl s
      · refine Settles.trans (Settles.trans ?_ (State.putOp_settles _ _)) (State.completeOp_settles _ _)
        split
        · exact s.setBundle_settles _ _
        · exact .refl s

/-- A request that ends leaves only the list of operations and what follows from a completion. -/
theorem State.endReq_settles (s : State) (id uid : Nat) (ws : List WB) : Settles s (s.endReq id uid ws) := by
  simp only [State.endReq]
  split
  · exact .refl s
  · exact (s.putOp_settles _).trans (State.completeOp_settles _ _)

end Sys2Proof.Machine
end

