-- ==== Sys2Proof/Laws/State.lean ====
section
/-! SUPPORT. What each update of the state leaves: one lemma per field that the update does not touch, one per record
that another update stores, and the record that was stored. -/

namespace Sys2Proof.Machine

/-! ### Fields that an update of the state leaves alone -/

@[simp] theorem State.setBundle_tick (s : State) (k : Nat) (x : Bundle) : (s.setBundle k x).tick = s.tick := rfl
@[simp] theorem State.setBundle_nextId (s : State) (k : Nat) (x : Bundle) : (s.setBundle k x).nextId = s.nextId := rfl
@[simp] theorem State.setBundle_nextSer (s : State) (k : Nat) (x : Bundle) : (s.setBundle k x).nextSer = s.nextSer := rfl
@[simp] theorem State.setBundle_cycle (s : State) (k : Nat) (x : Bundle) : (s.setBundle k x).cycle = s.cycle := rfl
@[simp] theorem State.setBundle_inputs (s : State) (k : Nat) (x : Bundle) : (s.setBundle k x).inputs = s.inputs := rfl
@[simp] theorem State.setBundle_issuing (s : State) (k : Nat) (x : Bundle) : (s.setBundle k x).issuing = s.issuing := rfl
@[simp] theorem State.setBundle_mem (s : State) (k : Nat) (x : Bundle) : (s.setBundle k x).mem = s.mem := rfl
@[simp] theorem State.setBundle_pool (s : State) (k : Nat) (x : Bundle) : (s.setBundle k x).pool = s.pool := rfl
@[simp] theorem State.setBundle_sram (s : State) (k : Nat) (x : Bundle) : (s.setBundle k x).sram = s.sram := rfl
@[simp] theorem State.setBundle_poison (s : State) (k : Nat) (x : Bundle) : (s.setBundle k x).poison = s.poison := rfl
@[simp] theorem State.setBundle_soft (s : State) (k : Nat) (x : Bundle) : (s.setBundle k x).soft = s.soft := rfl
@[simp] theorem State.setBundle_cores (s : State) (k : Nat) (x : Bundle) : (s.setBundle k x).cores = s.cores := rfl
@[simp] theorem State.setBundle_sets (s : State) (k : Nat) (x : Bundle) : (s.setBundle k x).sets = s.sets := rfl
@[simp] theorem State.setBundle_bars (s : State) (k : Nat) (x : Bundle) : (s.setBundle k x).bars = s.bars := rfl
@[simp] theorem State.setBundle_ctxs (s : State) (k : Nat) (x : Bundle) : (s.setBundle k x).ctxs = s.ctxs := rfl
@[simp] theorem State.setBundle_parts (s : State) (k : Nat) (x : Bundle) : (s.setBundle k x).parts = s.parts := rfl
@[simp] theorem State.setBundle_fns (s : State) (k : Nat) (x : Bundle) : (s.setBundle k x).fns = s.fns := rfl
@[simp] theorem State.setBundle_launches (s : State) (k : Nat) (x : Bundle) : (s.setBundle k x).launches = s.launches := rfl
@[simp] theorem State.setBundle_ops (s : State) (k : Nat) (x : Bundle) : (s.setBundle k x).ops = s.ops := rfl
@[simp] theorem State.setBundle_reports (s : State) (k : Nat) (x : Bundle) : (s.setBundle k x).reports = s.reports := rfl
@[simp] theorem State.setBundle_xerrs (s : State) (k : Nat) (x : Bundle) : (s.setBundle k x).xerrs = s.xerrs := rfl
@[simp] theorem State.setBundle_arms (s : State) (k : Nat) (x : Bundle) : (s.setBundle k x).arms = s.arms := rfl
@[simp] theorem State.setBundle_pkts (s : State) (k : Nat) (x : Bundle) : (s.setBundle k x).pkts = s.pkts := rfl
@[simp] theorem State.setBundle_msgs (s : State) (k : Nat) (x : Bundle) : (s.setBundle k x).msgs = s.msgs := rfl
@[simp] theorem State.setBundle_copies (s : State) (k : Nat) (x : Bundle) : (s.setBundle k x).copies = s.copies := rfl
@[simp] theorem State.setBundle_rows (s : State) (k : Nat) (x : Bundle) : (s.setBundle k x).rows = s.rows := rfl
@[simp] theorem State.setBundle_freed (s : State) (k : Nat) (x : Bundle) : (s.setBundle k x).freed = s.freed := rfl
@[simp] theorem State.setBundle_posts (s : State) (k : Nat) (x : Bundle) : (s.setBundle k x).posts = s.posts := rfl
@[simp] theorem State.setBundle_images (s : State) (k : Nat) (x : Bundle) : (s.setBundle k x).images = s.images := rfl
@[simp] theorem State.setBundle_pkgs (s : State) (k : Nat) (x : Bundle) : (s.setBundle k x).pkgs = s.pkgs := rfl
@[simp] theorem State.setBundle_homeAt (s : State) (k : Nat) (x : Bundle) : (s.setBundle k x).homeAt = s.homeAt := rfl
@[simp] theorem State.setBundle_paths (s : State) (k : Nat) (x : Bundle) : (s.setBundle k x).paths = s.paths := rfl

@[simp] theorem State.setCore_tick (s : State) (k : Nat) (x : Core) : (s.setCore k x).tick = s.tick := rfl
@[simp] theorem State.setCore_nextId (s : State) (k : Nat) (x : Core) : (s.setCore k x).nextId = s.nextId := rfl
@[simp] theorem State.setCore_nextSer (s : State) (k : Nat) (x : Core) : (s.setCore k x).nextSer = s.nextSer := rfl
@[simp] theorem State.setCore_cycle (s : State) (k : Nat) (x : Core) : (s.setCore k x).cycle = s.cycle := rfl
@[simp] theorem State.setCore_inputs (s : State) (k : Nat) (x : Core) : (s.setCore k x).inputs = s.inputs := rfl
@[simp] theorem State.setCore_issuing (s : State) (k : Nat) (x : Core) : (s.setCore k x).issuing = s.issuing := rfl
@[simp] theorem State.setCore_mem (s : State) (k : Nat) (x : Core) : (s.setCore k x).mem = s.mem := rfl
@[simp] theorem State.setCore_pool (s : State) (k : Nat) (x : Core) : (s.setCore k x).pool = s.pool := rfl
@[simp] theorem State.setCore_sram (s : State) (k : Nat) (x : Core) : (s.setCore k x).sram = s.sram := rfl
@[simp] theorem State.setCore_poison (s : State) (k : Nat) (x : Core) : (s.setCore k x).poison = s.poison := rfl
@[simp] theorem State.setCore_soft (s : State) (k : Nat) (x : Core) : (s.setCore k x).soft = s.soft := rfl
@[simp] theorem State.setCore_bundles (s : State) (k : Nat) (x : Core) : (s.setCore k x).bundles = s.bundles := rfl
@[simp] theorem State.setCore_sets (s : State) (k : Nat) (x : Core) : (s.setCore k x).sets = s.sets := rfl
@[simp] theorem State.setCore_bars (s : State) (k : Nat) (x : Core) : (s.setCore k x).bars = s.bars := rfl
@[simp] theorem State.setCore_ctxs (s : State) (k : Nat) (x : Core) : (s.setCore k x).ctxs = s.ctxs := rfl
@[simp] theorem State.setCore_parts (s : State) (k : Nat) (x : Core) : (s.setCore k x).parts = s.parts := rfl
@[simp] theorem State.setCore_fns (s : State) (k : Nat) (x : Core) : (s.setCore k x).fns = s.fns := rfl
@[simp] theorem State.setCore_launches (s : State) (k : Nat) (x : Core) : (s.setCore k x).launches = s.launches := rfl
@[simp] theorem State.setCore_ops (s : State) (k : Nat) (x : Core) : (s.setCore k x).ops = s.ops := rfl
@[simp] theorem State.setCore_reports (s : State) (k : Nat) (x : Core) : (s.setCore k x).reports = s.reports := rfl
@[simp] theorem State.setCore_xerrs (s : State) (k : Nat) (x : Core) : (s.setCore k x).xerrs = s.xerrs := rfl
@[simp] theorem State.setCore_arms (s : State) (k : Nat) (x : Core) : (s.setCore k x).arms = s.arms := rfl
@[simp] theorem State.setCore_pkts (s : State) (k : Nat) (x : Core) : (s.setCore k x).pkts = s.pkts := rfl
@[simp] theorem State.setCore_msgs (s : State) (k : Nat) (x : Core) : (s.setCore k x).msgs = s.msgs := rfl
@[simp] theorem State.setCore_copies (s : State) (k : Nat) (x : Core) : (s.setCore k x).copies = s.copies := rfl
@[simp] theorem State.setCore_rows (s : State) (k : Nat) (x : Core) : (s.setCore k x).rows = s.rows := rfl
@[simp] theorem State.setCore_freed (s : State) (k : Nat) (x : Core) : (s.setCore k x).freed = s.freed := rfl
@[simp] theorem State.setCore_posts (s : State) (k : Nat) (x : Core) : (s.setCore k x).posts = s.posts := rfl
@[simp] theorem State.setCore_images (s : State) (k : Nat) (x : Core) : (s.setCore k x).images = s.images := rfl
@[simp] theorem State.setCore_pkgs (s : State) (k : Nat) (x : Core) : (s.setCore k x).pkgs = s.pkgs := rfl
@[simp] theorem State.setCore_homeAt (s : State) (k : Nat) (x : Core) : (s.setCore k x).homeAt = s.homeAt := rfl
@[simp] theorem State.setCore_paths (s : State) (k : Nat) (x : Core) : (s.setCore k x).paths = s.paths := rfl

@[simp] theorem State.setCtx_tick (s : State) (k : Nat) (x : Ctx) : (s.setCtx k x).tick = s.tick := rfl
@[simp] theorem State.setCtx_nextId (s : State) (k : Nat) (x : Ctx) : (s.setCtx k x).nextId = s.nextId := rfl
@[simp] theorem State.setCtx_nextSer (s : State) (k : Nat) (x : Ctx) : (s.setCtx k x).nextSer = s.nextSer := rfl
@[simp] theorem State.setCtx_cycle (s : State) (k : Nat) (x : Ctx) : (s.setCtx k x).cycle = s.cycle := rfl
@[simp] theorem State.setCtx_inputs (s : State) (k : Nat) (x : Ctx) : (s.setCtx k x).inputs = s.inputs := rfl
@[simp] theorem State.setCtx_issuing (s : State) (k : Nat) (x : Ctx) : (s.setCtx k x).issuing = s.issuing := rfl
@[simp] theorem State.setCtx_mem (s : State) (k : Nat) (x : Ctx) : (s.setCtx k x).mem = s.mem := rfl
@[simp] theorem State.setCtx_pool (s : State) (k : Nat) (x : Ctx) : (s.setCtx k x).pool = s.pool := rfl
@[simp] theorem State.setCtx_sram (s : State) (k : Nat) (x : Ctx) : (s.setCtx k x).sram = s.sram := rfl
@[simp] theorem State.setCtx_poison (s : State) (k : Nat) (x : Ctx) : (s.setCtx k x).poison = s.poison := rfl
@[simp] theorem State.setCtx_soft (s : State) (k : Nat) (x : Ctx) : (s.setCtx k x).soft = s.soft := rfl
@[simp] theorem State.setCtx_bundles (s : State) (k : Nat) (x : Ctx) : (s.setCtx k x).bundles = s.bundles := rfl
@[simp] theorem State.setCtx_cores (s : State) (k : Nat) (x : Ctx) : (s.setCtx k x).cores = s.cores := rfl
@[simp] theorem State.setCtx_sets (s : State) (k : Nat) (x : Ctx) : (s.setCtx k x).sets = s.sets := rfl
@[simp] theorem State.setCtx_bars (s : State) (k : Nat) (x : Ctx) : (s.setCtx k x).bars = s.bars := rfl
@[simp] theorem State.setCtx_parts (s : State) (k : Nat) (x : Ctx) : (s.setCtx k x).parts = s.parts := rfl
@[simp] theorem State.setCtx_fns (s : State) (k : Nat) (x : Ctx) : (s.setCtx k x).fns = s.fns := rfl
@[simp] theorem State.setCtx_launches (s : State) (k : Nat) (x : Ctx) : (s.setCtx k x).launches = s.launches := rfl
@[simp] theorem State.setCtx_ops (s : State) (k : Nat) (x : Ctx) : (s.setCtx k x).ops = s.ops := rfl
@[simp] theorem State.setCtx_reports (s : State) (k : Nat) (x : Ctx) : (s.setCtx k x).reports = s.reports := rfl
@[simp] theorem State.setCtx_xerrs (s : State) (k : Nat) (x : Ctx) : (s.setCtx k x).xerrs = s.xerrs := rfl
@[simp] theorem State.setCtx_arms (s : State) (k : Nat) (x : Ctx) : (s.setCtx k x).arms = s.arms := rfl
@[simp] theorem State.setCtx_pkts (s : State) (k : Nat) (x : Ctx) : (s.setCtx k x).pkts = s.pkts := rfl
@[simp] theorem State.setCtx_msgs (s : State) (k : Nat) (x : Ctx) : (s.setCtx k x).msgs = s.msgs := rfl
@[simp] theorem State.setCtx_copies (s : State) (k : Nat) (x : Ctx) : (s.setCtx k x).copies = s.copies := rfl
@[simp] theorem State.setCtx_rows (s : State) (k : Nat) (x : Ctx) : (s.setCtx k x).rows = s.rows := rfl
@[simp] theorem State.setCtx_freed (s : State) (k : Nat) (x : Ctx) : (s.setCtx k x).freed = s.freed := rfl
@[simp] theorem State.setCtx_posts (s : State) (k : Nat) (x : Ctx) : (s.setCtx k x).posts = s.posts := rfl
@[simp] theorem State.setCtx_images (s : State) (k : Nat) (x : Ctx) : (s.setCtx k x).images = s.images := rfl
@[simp] theorem State.setCtx_pkgs (s : State) (k : Nat) (x : Ctx) : (s.setCtx k x).pkgs = s.pkgs := rfl
@[simp] theorem State.setCtx_homeAt (s : State) (k : Nat) (x : Ctx) : (s.setCtx k x).homeAt = s.homeAt := rfl
@[simp] theorem State.setCtx_paths (s : State) (k : Nat) (x : Ctx) : (s.setCtx k x).paths = s.paths := rfl

@[simp] theorem State.setPart_tick (s : State) (k : Nat) (x : Part) : (s.setPart k x).tick = s.tick := rfl
@[simp] theorem State.setPart_nextId (s : State) (k : Nat) (x : Part) : (s.setPart k x).nextId = s.nextId := rfl
@[simp] theorem State.setPart_nextSer (s : State) (k : Nat) (x : Part) : (s.setPart k x).nextSer = s.nextSer := rfl
@[simp] theorem State.setPart_cycle (s : State) (k : Nat) (x : Part) : (s.setPart k x).cycle = s.cycle := rfl
@[simp] theorem State.setPart_inputs (s : State) (k : Nat) (x : Part) : (s.setPart k x).inputs = s.inputs := rfl
@[simp] theorem State.setPart_issuing (s : State) (k : Nat) (x : Part) : (s.setPart k x).issuing = s.issuing := rfl
@[simp] theorem State.setPart_mem (s : State) (k : Nat) (x : Part) : (s.setPart k x).mem = s.mem := rfl
@[simp] theorem State.setPart_pool (s : State) (k : Nat) (x : Part) : (s.setPart k x).pool = s.pool := rfl
@[simp] theorem State.setPart_sram (s : State) (k : Nat) (x : Part) : (s.setPart k x).sram = s.sram := rfl
@[simp] theorem State.setPart_poison (s : State) (k : Nat) (x : Part) : (s.setPart k x).poison = s.poison := rfl
@[simp] theorem State.setPart_soft (s : State) (k : Nat) (x : Part) : (s.setPart k x).soft = s.soft := rfl
@[simp] theorem State.setPart_bundles (s : State) (k : Nat) (x : Part) : (s.setPart k x).bundles = s.bundles := rfl
@[simp] theorem State.setPart_cores (s : State) (k : Nat) (x : Part) : (s.setPart k x).cores = s.cores := rfl
@[simp] theorem State.setPart_sets (s : State) (k : Nat) (x : Part) : (s.setPart k x).sets = s.sets := rfl
@[simp] theorem State.setPart_bars (s : State) (k : Nat) (x : Part) : (s.setPart k x).bars = s.bars := rfl
@[simp] theorem State.setPart_ctxs (s : State) (k : Nat) (x : Part) : (s.setPart k x).ctxs = s.ctxs := rfl
@[simp] theorem State.setPart_fns (s : State) (k : Nat) (x : Part) : (s.setPart k x).fns = s.fns := rfl
@[simp] theorem State.setPart_launches (s : State) (k : Nat) (x : Part) : (s.setPart k x).launches = s.launches := rfl
@[simp] theorem State.setPart_ops (s : State) (k : Nat) (x : Part) : (s.setPart k x).ops = s.ops := rfl
@[simp] theorem State.setPart_reports (s : State) (k : Nat) (x : Part) : (s.setPart k x).reports = s.reports := rfl
@[simp] theorem State.setPart_xerrs (s : State) (k : Nat) (x : Part) : (s.setPart k x).xerrs = s.xerrs := rfl
@[simp] theorem State.setPart_arms (s : State) (k : Nat) (x : Part) : (s.setPart k x).arms = s.arms := rfl
@[simp] theorem State.setPart_pkts (s : State) (k : Nat) (x : Part) : (s.setPart k x).pkts = s.pkts := rfl
@[simp] theorem State.setPart_msgs (s : State) (k : Nat) (x : Part) : (s.setPart k x).msgs = s.msgs := rfl
@[simp] theorem State.setPart_copies (s : State) (k : Nat) (x : Part) : (s.setPart k x).copies = s.copies := rfl
@[simp] theorem State.setPart_rows (s : State) (k : Nat) (x : Part) : (s.setPart k x).rows = s.rows := rfl
@[simp] theorem State.setPart_freed (s : State) (k : Nat) (x : Part) : (s.setPart k x).freed = s.freed := rfl
@[simp] theorem State.setPart_posts (s : State) (k : Nat) (x : Part) : (s.setPart k x).posts = s.posts := rfl
@[simp] theorem State.setPart_images (s : State) (k : Nat) (x : Part) : (s.setPart k x).images = s.images := rfl
@[simp] theorem State.setPart_pkgs (s : State) (k : Nat) (x : Part) : (s.setPart k x).pkgs = s.pkgs := rfl
@[simp] theorem State.setPart_homeAt (s : State) (k : Nat) (x : Part) : (s.setPart k x).homeAt = s.homeAt := rfl
@[simp] theorem State.setPart_paths (s : State) (k : Nat) (x : Part) : (s.setPart k x).paths = s.paths := rfl

@[simp] theorem State.setFn_tick (s : State) (k : Nat) (x : Fn) : (s.setFn k x).tick = s.tick := rfl
@[simp] theorem State.setFn_nextId (s : State) (k : Nat) (x : Fn) : (s.setFn k x).nextId = s.nextId := rfl
@[simp] theorem State.setFn_nextSer (s : State) (k : Nat) (x : Fn) : (s.setFn k x).nextSer = s.nextSer := rfl
@[simp] theorem State.setFn_cycle (s : State) (k : Nat) (x : Fn) : (s.setFn k x).cycle = s.cycle := rfl
@[simp] theorem State.setFn_inputs (s : State) (k : Nat) (x : Fn) : (s.setFn k x).inputs = s.inputs := rfl
@[simp] theorem State.setFn_issuing (s : State) (k : Nat) (x : Fn) : (s.setFn k x).issuing = s.issuing := rfl
@[simp] theorem State.setFn_mem (s : State) (k : Nat) (x : Fn) : (s.setFn k x).mem = s.mem := rfl
@[simp] theorem State.setFn_pool (s : State) (k : Nat) (x : Fn) : (s.setFn k x).pool = s.pool := rfl
@[simp] theorem State.setFn_sram (s : State) (k : Nat) (x : Fn) : (s.setFn k x).sram = s.sram := rfl
@[simp] theorem State.setFn_poison (s : State) (k : Nat) (x : Fn) : (s.setFn k x).poison = s.poison := rfl
@[simp] theorem State.setFn_soft (s : State) (k : Nat) (x : Fn) : (s.setFn k x).soft = s.soft := rfl
@[simp] theorem State.setFn_bundles (s : State) (k : Nat) (x : Fn) : (s.setFn k x).bundles = s.bundles := rfl
@[simp] theorem State.setFn_cores (s : State) (k : Nat) (x : Fn) : (s.setFn k x).cores = s.cores := rfl
@[simp] theorem State.setFn_sets (s : State) (k : Nat) (x : Fn) : (s.setFn k x).sets = s.sets := rfl
@[simp] theorem State.setFn_bars (s : State) (k : Nat) (x : Fn) : (s.setFn k x).bars = s.bars := rfl
@[simp] theorem State.setFn_ctxs (s : State) (k : Nat) (x : Fn) : (s.setFn k x).ctxs = s.ctxs := rfl
@[simp] theorem State.setFn_parts (s : State) (k : Nat) (x : Fn) : (s.setFn k x).parts = s.parts := rfl
@[simp] theorem State.setFn_launches (s : State) (k : Nat) (x : Fn) : (s.setFn k x).launches = s.launches := rfl
@[simp] theorem State.setFn_ops (s : State) (k : Nat) (x : Fn) : (s.setFn k x).ops = s.ops := rfl
@[simp] theorem State.setFn_reports (s : State) (k : Nat) (x : Fn) : (s.setFn k x).reports = s.reports := rfl
@[simp] theorem State.setFn_xerrs (s : State) (k : Nat) (x : Fn) : (s.setFn k x).xerrs = s.xerrs := rfl
@[simp] theorem State.setFn_arms (s : State) (k : Nat) (x : Fn) : (s.setFn k x).arms = s.arms := rfl
@[simp] theorem State.setFn_pkts (s : State) (k : Nat) (x : Fn) : (s.setFn k x).pkts = s.pkts := rfl
@[simp] theorem State.setFn_msgs (s : State) (k : Nat) (x : Fn) : (s.setFn k x).msgs = s.msgs := rfl
@[simp] theorem State.setFn_copies (s : State) (k : Nat) (x : Fn) : (s.setFn k x).copies = s.copies := rfl
@[simp] theorem State.setFn_rows (s : State) (k : Nat) (x : Fn) : (s.setFn k x).rows = s.rows := rfl
@[simp] theorem State.setFn_freed (s : State) (k : Nat) (x : Fn) : (s.setFn k x).freed = s.freed := rfl
@[simp] theorem State.setFn_posts (s : State) (k : Nat) (x : Fn) : (s.setFn k x).posts = s.posts := rfl
@[simp] theorem State.setFn_images (s : State) (k : Nat) (x : Fn) : (s.setFn k x).images = s.images := rfl
@[simp] theorem State.setFn_pkgs (s : State) (k : Nat) (x : Fn) : (s.setFn k x).pkgs = s.pkgs := rfl
@[simp] theorem State.setFn_homeAt (s : State) (k : Nat) (x : Fn) : (s.setFn k x).homeAt = s.homeAt := rfl
@[simp] theorem State.setFn_paths (s : State) (k : Nat) (x : Fn) : (s.setFn k x).paths = s.paths := rfl

@[simp] theorem State.setLaunch_tick (s : State) (k : Nat) (x : Launch) : (s.setLaunch k x).tick = s.tick := rfl
@[simp] theorem State.setLaunch_nextId (s : State) (k : Nat) (x : Launch) : (s.setLaunch k x).nextId = s.nextId := rfl
@[simp] theorem State.setLaunch_nextSer (s : State) (k : Nat) (x : Launch) : (s.setLaunch k x).nextSer = s.nextSer := rfl
@[simp] theorem State.setLaunch_cycle (s : State) (k : Nat) (x : Launch) : (s.setLaunch k x).cycle = s.cycle := rfl
@[simp] theorem State.setLaunch_inputs (s : State) (k : Nat) (x : Launch) : (s.setLaunch k x).inputs = s.inputs := rfl
@[simp] theorem State.setLaunch_issuing (s : State) (k : Nat) (x : Launch) : (s.setLaunch k x).issuing = s.issuing := rfl
@[simp] theorem State.setLaunch_mem (s : State) (k : Nat) (x : Launch) : (s.setLaunch k x).mem = s.mem := rfl
@[simp] theorem State.setLaunch_pool (s : State) (k : Nat) (x : Launch) : (s.setLaunch k x).pool = s.pool := rfl
@[simp] theorem State.setLaunch_sram (s : State) (k : Nat) (x : Launch) : (s.setLaunch k x).sram = s.sram := rfl
@[simp] theorem State.setLaunch_poison (s : State) (k : Nat) (x : Launch) : (s.setLaunch k x).poison = s.poison := rfl
@[simp] theorem State.setLaunch_soft (s : State) (k : Nat) (x : Launch) : (s.setLaunch k x).soft = s.soft := rfl
@[simp] theorem State.setLaunch_bundles (s : State) (k : Nat) (x : Launch) : (s.setLaunch k x).bundles = s.bundles := rfl
@[simp] theorem State.setLaunch_cores (s : State) (k : Nat) (x : Launch) : (s.setLaunch k x).cores = s.cores := rfl
@[simp] theorem State.setLaunch_sets (s : State) (k : Nat) (x : Launch) : (s.setLaunch k x).sets = s.sets := rfl
@[simp] theorem State.setLaunch_bars (s : State) (k : Nat) (x : Launch) : (s.setLaunch k x).bars = s.bars := rfl
@[simp] theorem State.setLaunch_ctxs (s : State) (k : Nat) (x : Launch) : (s.setLaunch k x).ctxs = s.ctxs := rfl
@[simp] theorem State.setLaunch_parts (s : State) (k : Nat) (x : Launch) : (s.setLaunch k x).parts = s.parts := rfl
@[simp] theorem State.setLaunch_fns (s : State) (k : Nat) (x : Launch) : (s.setLaunch k x).fns = s.fns := rfl
@[simp] theorem State.setLaunch_ops (s : State) (k : Nat) (x : Launch) : (s.setLaunch k x).ops = s.ops := rfl
@[simp] theorem State.setLaunch_reports (s : State) (k : Nat) (x : Launch) : (s.setLaunch k x).reports = s.reports := rfl
@[simp] theorem State.setLaunch_xerrs (s : State) (k : Nat) (x : Launch) : (s.setLaunch k x).xerrs = s.xerrs := rfl
@[simp] theorem State.setLaunch_arms (s : State) (k : Nat) (x : Launch) : (s.setLaunch k x).arms = s.arms := rfl
@[simp] theorem State.setLaunch_pkts (s : State) (k : Nat) (x : Launch) : (s.setLaunch k x).pkts = s.pkts := rfl
@[simp] theorem State.setLaunch_msgs (s : State) (k : Nat) (x : Launch) : (s.setLaunch k x).msgs = s.msgs := rfl
@[simp] theorem State.setLaunch_copies (s : State) (k : Nat) (x : Launch) : (s.setLaunch k x).copies = s.copies := rfl
@[simp] theorem State.setLaunch_rows (s : State) (k : Nat) (x : Launch) : (s.setLaunch k x).rows = s.rows := rfl
@[simp] theorem State.setLaunch_freed (s : State) (k : Nat) (x : Launch) : (s.setLaunch k x).freed = s.freed := rfl
@[simp] theorem State.setLaunch_posts (s : State) (k : Nat) (x : Launch) : (s.setLaunch k x).posts = s.posts := rfl
@[simp] theorem State.setLaunch_images (s : State) (k : Nat) (x : Launch) : (s.setLaunch k x).images = s.images := rfl
@[simp] theorem State.setLaunch_pkgs (s : State) (k : Nat) (x : Launch) : (s.setLaunch k x).pkgs = s.pkgs := rfl
@[simp] theorem State.setLaunch_homeAt (s : State) (k : Nat) (x : Launch) : (s.setLaunch k x).homeAt = s.homeAt := rfl
@[simp] theorem State.setLaunch_paths (s : State) (k : Nat) (x : Launch) : (s.setLaunch k x).paths = s.paths := rfl

@[simp] theorem State.setPkg_tick (s : State) (k : Nat) (x : Pkg) : (s.setPkg k x).tick = s.tick := rfl
@[simp] theorem State.setPkg_nextId (s : State) (k : Nat) (x : Pkg) : (s.setPkg k x).nextId = s.nextId := rfl
@[simp] theorem State.setPkg_nextSer (s : State) (k : Nat) (x : Pkg) : (s.setPkg k x).nextSer = s.nextSer := rfl
@[simp] theorem State.setPkg_cycle (s : State) (k : Nat) (x : Pkg) : (s.setPkg k x).cycle = s.cycle := rfl
@[simp] theorem State.setPkg_inputs (s : State) (k : Nat) (x : Pkg) : (s.setPkg k x).inputs = s.inputs := rfl
@[simp] theorem State.setPkg_issuing (s : State) (k : Nat) (x : Pkg) : (s.setPkg k x).issuing = s.issuing := rfl
@[simp] theorem State.setPkg_mem (s : State) (k : Nat) (x : Pkg) : (s.setPkg k x).mem = s.mem := rfl
@[simp] theorem State.setPkg_pool (s : State) (k : Nat) (x : Pkg) : (s.setPkg k x).pool = s.pool := rfl
@[simp] theorem State.setPkg_sram (s : State) (k : Nat) (x : Pkg) : (s.setPkg k x).sram = s.sram := rfl
@[simp] theorem State.setPkg_poison (s : State) (k : Nat) (x : Pkg) : (s.setPkg k x).poison = s.poison := rfl
@[simp] theorem State.setPkg_soft (s : State) (k : Nat) (x : Pkg) : (s.setPkg k x).soft = s.soft := rfl
@[simp] theorem State.setPkg_bundles (s : State) (k : Nat) (x : Pkg) : (s.setPkg k x).bundles = s.bundles := rfl
@[simp] theorem State.setPkg_cores (s : State) (k : Nat) (x : Pkg) : (s.setPkg k x).cores = s.cores := rfl
@[simp] theorem State.setPkg_sets (s : State) (k : Nat) (x : Pkg) : (s.setPkg k x).sets = s.sets := rfl
@[simp] theorem State.setPkg_bars (s : State) (k : Nat) (x : Pkg) : (s.setPkg k x).bars = s.bars := rfl
@[simp] theorem State.setPkg_ctxs (s : State) (k : Nat) (x : Pkg) : (s.setPkg k x).ctxs = s.ctxs := rfl
@[simp] theorem State.setPkg_parts (s : State) (k : Nat) (x : Pkg) : (s.setPkg k x).parts = s.parts := rfl
@[simp] theorem State.setPkg_fns (s : State) (k : Nat) (x : Pkg) : (s.setPkg k x).fns = s.fns := rfl
@[simp] theorem State.setPkg_launches (s : State) (k : Nat) (x : Pkg) : (s.setPkg k x).launches = s.launches := rfl
@[simp] theorem State.setPkg_ops (s : State) (k : Nat) (x : Pkg) : (s.setPkg k x).ops = s.ops := rfl
@[simp] theorem State.setPkg_reports (s : State) (k : Nat) (x : Pkg) : (s.setPkg k x).reports = s.reports := rfl
@[simp] theorem State.setPkg_xerrs (s : State) (k : Nat) (x : Pkg) : (s.setPkg k x).xerrs = s.xerrs := rfl
@[simp] theorem State.setPkg_arms (s : State) (k : Nat) (x : Pkg) : (s.setPkg k x).arms = s.arms := rfl
@[simp] theorem State.setPkg_pkts (s : State) (k : Nat) (x : Pkg) : (s.setPkg k x).pkts = s.pkts := rfl
@[simp] theorem State.setPkg_msgs (s : State) (k : Nat) (x : Pkg) : (s.setPkg k x).msgs = s.msgs := rfl
@[simp] theorem State.setPkg_copies (s : State) (k : Nat) (x : Pkg) : (s.setPkg k x).copies = s.copies := rfl
@[simp] theorem State.setPkg_rows (s : State) (k : Nat) (x : Pkg) : (s.setPkg k x).rows = s.rows := rfl
@[simp] theorem State.setPkg_freed (s : State) (k : Nat) (x : Pkg) : (s.setPkg k x).freed = s.freed := rfl
@[simp] theorem State.setPkg_posts (s : State) (k : Nat) (x : Pkg) : (s.setPkg k x).posts = s.posts := rfl
@[simp] theorem State.setPkg_images (s : State) (k : Nat) (x : Pkg) : (s.setPkg k x).images = s.images := rfl
@[simp] theorem State.setPkg_homeAt (s : State) (k : Nat) (x : Pkg) : (s.setPkg k x).homeAt = s.homeAt := rfl
@[simp] theorem State.setPkg_paths (s : State) (k : Nat) (x : Pkg) : (s.setPkg k x).paths = s.paths := rfl

@[simp] theorem State.putBar_tick (s : State) (k : Nat) (x : Bar) : (s.putBar k x).tick = s.tick := rfl
@[simp] theorem State.putBar_nextId (s : State) (k : Nat) (x : Bar) : (s.putBar k x).nextId = s.nextId := rfl
@[simp] theorem State.putBar_nextSer (s : State) (k : Nat) (x : Bar) : (s.putBar k x).nextSer = s.nextSer := rfl
@[simp] theorem State.putBar_cycle (s : State) (k : Nat) (x : Bar) : (s.putBar k x).cycle = s.cycle := rfl
@[simp] theorem State.putBar_inputs (s : State) (k : Nat) (x : Bar) : (s.putBar k x).inputs = s.inputs := rfl
@[simp] theorem State.putBar_issuing (s : State) (k : Nat) (x : Bar) : (s.putBar k x).issuing = s.issuing := rfl
@[simp] theorem State.putBar_mem (s : State) (k : Nat) (x : Bar) : (s.putBar k x).mem = s.mem := rfl
@[simp] theorem State.putBar_pool (s : State) (k : Nat) (x : Bar) : (s.putBar k x).pool = s.pool := rfl
@[simp] theorem State.putBar_sram (s : State) (k : Nat) (x : Bar) : (s.putBar k x).sram = s.sram := rfl
@[simp] theorem State.putBar_poison (s : State) (k : Nat) (x : Bar) : (s.putBar k x).poison = s.poison := rfl
@[simp] theorem State.putBar_soft (s : State) (k : Nat) (x : Bar) : (s.putBar k x).soft = s.soft := rfl
@[simp] theorem State.putBar_bundles (s : State) (k : Nat) (x : Bar) : (s.putBar k x).bundles = s.bundles := rfl
@[simp] theorem State.putBar_cores (s : State) (k : Nat) (x : Bar) : (s.putBar k x).cores = s.cores := rfl
@[simp] theorem State.putBar_sets (s : State) (k : Nat) (x : Bar) : (s.putBar k x).sets = s.sets := rfl
@[simp] theorem State.putBar_ctxs (s : State) (k : Nat) (x : Bar) : (s.putBar k x).ctxs = s.ctxs := rfl
@[simp] theorem State.putBar_parts (s : State) (k : Nat) (x : Bar) : (s.putBar k x).parts = s.parts := rfl
@[simp] theorem State.putBar_fns (s : State) (k : Nat) (x : Bar) : (s.putBar k x).fns = s.fns := rfl
@[simp] theorem State.putBar_launches (s : State) (k : Nat) (x : Bar) : (s.putBar k x).launches = s.launches := rfl
@[simp] theorem State.putBar_ops (s : State) (k : Nat) (x : Bar) : (s.putBar k x).ops = s.ops := rfl
@[simp] theorem State.putBar_reports (s : State) (k : Nat) (x : Bar) : (s.putBar k x).reports = s.reports := rfl
@[simp] theorem State.putBar_xerrs (s : State) (k : Nat) (x : Bar) : (s.putBar k x).xerrs = s.xerrs := rfl
@[simp] theorem State.putBar_arms (s : State) (k : Nat) (x : Bar) : (s.putBar k x).arms = s.arms := rfl
@[simp] theorem State.putBar_pkts (s : State) (k : Nat) (x : Bar) : (s.putBar k x).pkts = s.pkts := rfl
@[simp] theorem State.putBar_msgs (s : State) (k : Nat) (x : Bar) : (s.putBar k x).msgs = s.msgs := rfl
@[simp] theorem State.putBar_copies (s : State) (k : Nat) (x : Bar) : (s.putBar k x).copies = s.copies := rfl
@[simp] theorem State.putBar_rows (s : State) (k : Nat) (x : Bar) : (s.putBar k x).rows = s.rows := rfl
@[simp] theorem State.putBar_freed (s : State) (k : Nat) (x : Bar) : (s.putBar k x).freed = s.freed := rfl
@[simp] theorem State.putBar_posts (s : State) (k : Nat) (x : Bar) : (s.putBar k x).posts = s.posts := rfl
@[simp] theorem State.putBar_images (s : State) (k : Nat) (x : Bar) : (s.putBar k x).images = s.images := rfl
@[simp] theorem State.putBar_pkgs (s : State) (k : Nat) (x : Bar) : (s.putBar k x).pkgs = s.pkgs := rfl
@[simp] theorem State.putBar_homeAt (s : State) (k : Nat) (x : Bar) : (s.putBar k x).homeAt = s.homeAt := rfl
@[simp] theorem State.putBar_paths (s : State) (k : Nat) (x : Bar) : (s.putBar k x).paths = s.paths := rfl

@[simp] theorem State.putSet_tick (s : State) (k : Nat) (x : SetRec) : (s.putSet k x).tick = s.tick := rfl
@[simp] theorem State.putSet_nextId (s : State) (k : Nat) (x : SetRec) : (s.putSet k x).nextId = s.nextId := rfl
@[simp] theorem State.putSet_nextSer (s : State) (k : Nat) (x : SetRec) : (s.putSet k x).nextSer = s.nextSer := rfl
@[simp] theorem State.putSet_cycle (s : State) (k : Nat) (x : SetRec) : (s.putSet k x).cycle = s.cycle := rfl
@[simp] theorem State.putSet_inputs (s : State) (k : Nat) (x : SetRec) : (s.putSet k x).inputs = s.inputs := rfl
@[simp] theorem State.putSet_issuing (s : State) (k : Nat) (x : SetRec) : (s.putSet k x).issuing = s.issuing := rfl
@[simp] theorem State.putSet_mem (s : State) (k : Nat) (x : SetRec) : (s.putSet k x).mem = s.mem := rfl
@[simp] theorem State.putSet_pool (s : State) (k : Nat) (x : SetRec) : (s.putSet k x).pool = s.pool := rfl
@[simp] theorem State.putSet_sram (s : State) (k : Nat) (x : SetRec) : (s.putSet k x).sram = s.sram := rfl
@[simp] theorem State.putSet_poison (s : State) (k : Nat) (x : SetRec) : (s.putSet k x).poison = s.poison := rfl
@[simp] theorem State.putSet_soft (s : State) (k : Nat) (x : SetRec) : (s.putSet k x).soft = s.soft := rfl
@[simp] theorem State.putSet_bundles (s : State) (k : Nat) (x : SetRec) : (s.putSet k x).bundles = s.bundles := rfl
@[simp] theorem State.putSet_cores (s : State) (k : Nat) (x : SetRec) : (s.putSet k x).cores = s.cores := rfl
@[simp] theorem State.putSet_bars (s : State) (k : Nat) (x : SetRec) : (s.putSet k x).bars = s.bars := rfl
@[simp] theorem State.putSet_ctxs (s : State) (k : Nat) (x : SetRec) : (s.putSet k x).ctxs = s.ctxs := rfl
@[simp] theorem State.putSet_parts (s : State) (k : Nat) (x : SetRec) : (s.putSet k x).parts = s.parts := rfl
@[simp] theorem State.putSet_fns (s : State) (k : Nat) (x : SetRec) : (s.putSet k x).fns = s.fns := rfl
@[simp] theorem State.putSet_launches (s : State) (k : Nat) (x : SetRec) : (s.putSet k x).launches = s.launches := rfl
@[simp] theorem State.putSet_ops (s : State) (k : Nat) (x : SetRec) : (s.putSet k x).ops = s.ops := rfl
@[simp] theorem State.putSet_reports (s : State) (k : Nat) (x : SetRec) : (s.putSet k x).reports = s.reports := rfl
@[simp] theorem State.putSet_xerrs (s : State) (k : Nat) (x : SetRec) : (s.putSet k x).xerrs = s.xerrs := rfl
@[simp] theorem State.putSet_arms (s : State) (k : Nat) (x : SetRec) : (s.putSet k x).arms = s.arms := rfl
@[simp] theorem State.putSet_pkts (s : State) (k : Nat) (x : SetRec) : (s.putSet k x).pkts = s.pkts := rfl
@[simp] theorem State.putSet_msgs (s : State) (k : Nat) (x : SetRec) : (s.putSet k x).msgs = s.msgs := rfl
@[simp] theorem State.putSet_copies (s : State) (k : Nat) (x : SetRec) : (s.putSet k x).copies = s.copies := rfl
@[simp] theorem State.putSet_rows (s : State) (k : Nat) (x : SetRec) : (s.putSet k x).rows = s.rows := rfl
@[simp] theorem State.putSet_freed (s : State) (k : Nat) (x : SetRec) : (s.putSet k x).freed = s.freed := rfl
@[simp] theorem State.putSet_posts (s : State) (k : Nat) (x : SetRec) : (s.putSet k x).posts = s.posts := rfl
@[simp] theorem State.putSet_images (s : State) (k : Nat) (x : SetRec) : (s.putSet k x).images = s.images := rfl
@[simp] theorem State.putSet_pkgs (s : State) (k : Nat) (x : SetRec) : (s.putSet k x).pkgs = s.pkgs := rfl
@[simp] theorem State.putSet_homeAt (s : State) (k : Nat) (x : SetRec) : (s.putSet k x).homeAt = s.homeAt := rfl
@[simp] theorem State.putSet_paths (s : State) (k : Nat) (x : SetRec) : (s.putSet k x).paths = s.paths := rfl

@[simp] theorem State.putOp_tick (s : State) (x : Op) : (s.putOp x).tick = s.tick := rfl
@[simp] theorem State.putOp_nextId (s : State) (x : Op) : (s.putOp x).nextId = s.nextId := rfl
@[simp] theorem State.putOp_nextSer (s : State) (x : Op) : (s.putOp x).nextSer = s.nextSer := rfl
@[simp] theorem State.putOp_cycle (s : State) (x : Op) : (s.putOp x).cycle = s.cycle := rfl
@[simp] theorem State.putOp_inputs (s : State) (x : Op) : (s.putOp x).inputs = s.inputs := rfl
@[simp] theorem State.putOp_issuing (s : State) (x : Op) : (s.putOp x).issuing = s.issuing := rfl
@[simp] theorem State.putOp_mem (s : State) (x : Op) : (s.putOp x).mem = s.mem := rfl
@[simp] theorem State.putOp_pool (s : State) (x : Op) : (s.putOp x).pool = s.pool := rfl
@[simp] theorem State.putOp_sram (s : State) (x : Op) : (s.putOp x).sram = s.sram := rfl
@[simp] theorem State.putOp_poison (s : State) (x : Op) : (s.putOp x).poison = s.poison := rfl
@[simp] theorem State.putOp_soft (s : State) (x : Op) : (s.putOp x).soft = s.soft := rfl
@[simp] theorem State.putOp_bundles (s : State) (x : Op) : (s.putOp x).bundles = s.bundles := rfl
@[simp] theorem State.putOp_cores (s : State) (x : Op) : (s.putOp x).cores = s.cores := rfl
@[simp] theorem State.putOp_sets (s : State) (x : Op) : (s.putOp x).sets = s.sets := rfl
@[simp] theorem State.putOp_bars (s : State) (x : Op) : (s.putOp x).bars = s.bars := rfl
@[simp] theorem State.putOp_ctxs (s : State) (x : Op) : (s.putOp x).ctxs = s.ctxs := rfl
@[simp] theorem State.putOp_parts (s : State) (x : Op) : (s.putOp x).parts = s.parts := rfl
@[simp] theorem State.putOp_fns (s : State) (x : Op) : (s.putOp x).fns = s.fns := rfl
@[simp] theorem State.putOp_launches (s : State) (x : Op) : (s.putOp x).launches = s.launches := rfl
@[simp] theorem State.putOp_reports (s : State) (x : Op) : (s.putOp x).reports = s.reports := rfl
@[simp] theorem State.putOp_xerrs (s : State) (x : Op) : (s.putOp x).xerrs = s.xerrs := rfl
@[simp] theorem State.putOp_arms (s : State) (x : Op) : (s.putOp x).arms = s.arms := rfl
@[simp] theorem State.putOp_pkts (s : State) (x : Op) : (s.putOp x).pkts = s.pkts := rfl
@[simp] theorem State.putOp_msgs (s : State) (x : Op) : (s.putOp x).msgs = s.msgs := rfl
@[simp] theorem State.putOp_copies (s : State) (x : Op) : (s.putOp x).copies = s.copies := rfl
@[simp] theorem State.putOp_rows (s : State) (x : Op) : (s.putOp x).rows = s.rows := rfl
@[simp] theorem State.putOp_freed (s : State) (x : Op) : (s.putOp x).freed = s.freed := rfl
@[simp] theorem State.putOp_posts (s : State) (x : Op) : (s.putOp x).posts = s.posts := rfl
@[simp] theorem State.putOp_images (s : State) (x : Op) : (s.putOp x).images = s.images := rfl
@[simp] theorem State.putOp_pkgs (s : State) (x : Op) : (s.putOp x).pkgs = s.pkgs := rfl
@[simp] theorem State.putOp_homeAt (s : State) (x : Op) : (s.putOp x).homeAt = s.homeAt := rfl
@[simp] theorem State.putOp_paths (s : State) (x : Op) : (s.putOp x).paths = s.paths := rfl

@[simp] theorem State.memWrite_tick (s : State) (a : Nat) (l : List Byte) : (s.memWrite a l).tick = s.tick := rfl
@[simp] theorem State.memWrite_nextId (s : State) (a : Nat) (l : List Byte) : (s.memWrite a l).nextId = s.nextId := rfl
@[simp] theorem State.memWrite_nextSer (s : State) (a : Nat) (l : List Byte) : (s.memWrite a l).nextSer = s.nextSer := rfl
@[simp] theorem State.memWrite_cycle (s : State) (a : Nat) (l : List Byte) : (s.memWrite a l).cycle = s.cycle := rfl
@[simp] theorem State.memWrite_inputs (s : State) (a : Nat) (l : List Byte) : (s.memWrite a l).inputs = s.inputs := rfl
@[simp] theorem State.memWrite_issuing (s : State) (a : Nat) (l : List Byte) : (s.memWrite a l).issuing = s.issuing := rfl
@[simp] theorem State.memWrite_pool (s : State) (a : Nat) (l : List Byte) : (s.memWrite a l).pool = s.pool := rfl
@[simp] theorem State.memWrite_sram (s : State) (a : Nat) (l : List Byte) : (s.memWrite a l).sram = s.sram := rfl
@[simp] theorem State.memWrite_bundles (s : State) (a : Nat) (l : List Byte) : (s.memWrite a l).bundles = s.bundles := rfl
@[simp] theorem State.memWrite_cores (s : State) (a : Nat) (l : List Byte) : (s.memWrite a l).cores = s.cores := rfl
@[simp] theorem State.memWrite_sets (s : State) (a : Nat) (l : List Byte) : (s.memWrite a l).sets = s.sets := rfl
@[simp] theorem State.memWrite_bars (s : State) (a : Nat) (l : List Byte) : (s.memWrite a l).bars = s.bars := rfl
@[simp] theorem State.memWrite_ctxs (s : State) (a : Nat) (l : List Byte) : (s.memWrite a l).ctxs = s.ctxs := rfl
@[simp] theorem State.memWrite_parts (s : State) (a : Nat) (l : List Byte) : (s.memWrite a l).parts = s.parts := rfl
@[simp] theorem State.memWrite_fns (s : State) (a : Nat) (l : List Byte) : (s.memWrite a l).fns = s.fns := rfl
@[simp] theorem State.memWrite_launches (s : State) (a : Nat) (l : List Byte) : (s.memWrite a l).launches = s.launches := rfl
@[simp] theorem State.memWrite_ops (s : State) (a : Nat) (l : List Byte) : (s.memWrite a l).ops = s.ops := rfl
@[simp] theorem State.memWrite_reports (s : State) (a : Nat) (l : List Byte) : (s.memWrite a l).reports = s.reports := rfl
@[simp] theorem State.memWrite_xerrs (s : State) (a : Nat) (l : List Byte) : (s.memWrite a l).xerrs = s.xerrs := rfl
@[simp] theorem State.memWrite_arms (s : State) (a : Nat) (l : List Byte) : (s.memWrite a l).arms = s.arms := rfl
@[simp] theorem State.memWrite_pkts (s : State) (a : Nat) (l : List Byte) : (s.memWrite a l).pkts = s.pkts := rfl
@[simp] theorem State.memWrite_msgs (s : State) (a : Nat) (l : List Byte) : (s.memWrite a l).msgs = s.msgs := rfl
@[simp] theorem State.memWrite_copies (s : State) (a : Nat) (l : List Byte) : (s.memWrite a l).copies = s.copies := rfl
@[simp] theorem State.memWrite_rows (s : State) (a : Nat) (l : List Byte) : (s.memWrite a l).rows = s.rows := rfl
@[simp] theorem State.memWrite_freed (s : State) (a : Nat) (l : List Byte) : (s.memWrite a l).freed = s.freed := rfl
@[simp] theorem State.memWrite_posts (s : State) (a : Nat) (l : List Byte) : (s.memWrite a l).posts = s.posts := rfl
@[simp] theorem State.memWrite_images (s : State) (a : Nat) (l : List Byte) : (s.memWrite a l).images = s.images := rfl
@[simp] theorem State.memWrite_pkgs (s : State) (a : Nat) (l : List Byte) : (s.memWrite a l).pkgs = s.pkgs := rfl
@[simp] theorem State.memWrite_homeAt (s : State) (a : Nat) (l : List Byte) : (s.memWrite a l).homeAt = s.homeAt := rfl
@[simp] theorem State.memWrite_paths (s : State) (a : Nat) (l : List Byte) : (s.memWrite a l).paths = s.paths := rfl

@[simp] theorem State.frameWrite_tick (s : State) (k a : Nat) (l : List Byte) : (s.frameWrite k a l).tick = s.tick := rfl
@[simp] theorem State.frameWrite_nextId (s : State) (k a : Nat) (l : List Byte) : (s.frameWrite k a l).nextId = s.nextId := rfl
@[simp] theorem State.frameWrite_nextSer (s : State) (k a : Nat) (l : List Byte) : (s.frameWrite k a l).nextSer = s.nextSer := rfl
@[simp] theorem State.frameWrite_cycle (s : State) (k a : Nat) (l : List Byte) : (s.frameWrite k a l).cycle = s.cycle := rfl
@[simp] theorem State.frameWrite_inputs (s : State) (k a : Nat) (l : List Byte) : (s.frameWrite k a l).inputs = s.inputs := rfl
@[simp] theorem State.frameWrite_issuing (s : State) (k a : Nat) (l : List Byte) : (s.frameWrite k a l).issuing = s.issuing := rfl
@[simp] theorem State.frameWrite_mem (s : State) (k a : Nat) (l : List Byte) : (s.frameWrite k a l).mem = s.mem := rfl
@[simp] theorem State.frameWrite_sram (s : State) (k a : Nat) (l : List Byte) : (s.frameWrite k a l).sram = s.sram := rfl
@[simp] theorem State.frameWrite_bundles (s : State) (k a : Nat) (l : List Byte) : (s.frameWrite k a l).bundles = s.bundles := rfl
@[simp] theorem State.frameWrite_cores (s : State) (k a : Nat) (l : List Byte) : (s.frameWrite k a l).cores = s.cores := rfl
@[simp] theorem State.frameWrite_sets (s : State) (k a : Nat) (l : List Byte) : (s.frameWrite k a l).sets = s.sets := rfl
@[simp] theorem State.frameWrite_bars (s : State) (k a : Nat) (l : List Byte) : (s.frameWrite k a l).bars = s.bars := rfl
@[simp] theorem State.frameWrite_ctxs (s : State) (k a : Nat) (l : List Byte) : (s.frameWrite k a l).ctxs = s.ctxs := rfl
@[simp] theorem State.frameWrite_parts (s : State) (k a : Nat) (l : List Byte) : (s.frameWrite k a l).parts = s.parts := rfl
@[simp] theorem State.frameWrite_fns (s : State) (k a : Nat) (l : List Byte) : (s.frameWrite k a l).fns = s.fns := rfl
@[simp] theorem State.frameWrite_launches (s : State) (k a : Nat) (l : List Byte) : (s.frameWrite k a l).launches = s.launches := rfl
@[simp] theorem State.frameWrite_ops (s : State) (k a : Nat) (l : List Byte) : (s.frameWrite k a l).ops = s.ops := rfl
@[simp] theorem State.frameWrite_reports (s : State) (k a : Nat) (l : List Byte) : (s.frameWrite k a l).reports = s.reports := rfl
@[simp] theorem State.frameWrite_xerrs (s : State) (k a : Nat) (l : List Byte) : (s.frameWrite k a l).xerrs = s.xerrs := rfl
@[simp] theorem State.frameWrite_arms (s : State) (k a : Nat) (l : List Byte) : (s.frameWrite k a l).arms = s.arms := rfl
@[simp] theorem State.frameWrite_pkts (s : State) (k a : Nat) (l : List Byte) : (s.frameWrite k a l).pkts = s.pkts := rfl
@[simp] theorem State.frameWrite_msgs (s : State) (k a : Nat) (l : List Byte) : (s.frameWrite k a l).msgs = s.msgs := rfl
@[simp] theorem State.frameWrite_copies (s : State) (k a : Nat) (l : List Byte) : (s.frameWrite k a l).copies = s.copies := rfl
@[simp] theorem State.frameWrite_rows (s : State) (k a : Nat) (l : List Byte) : (s.frameWrite k a l).rows = s.rows := rfl
@[simp] theorem State.frameWrite_freed (s : State) (k a : Nat) (l : List Byte) : (s.frameWrite k a l).freed = s.freed := rfl
@[simp] theorem State.frameWrite_posts (s : State) (k a : Nat) (l : List Byte) : (s.frameWrite k a l).posts = s.posts := rfl
@[simp] theorem State.frameWrite_images (s : State) (k a : Nat) (l : List Byte) : (s.frameWrite k a l).images = s.images := rfl
@[simp] theorem State.frameWrite_pkgs (s : State) (k a : Nat) (l : List Byte) : (s.frameWrite k a l).pkgs = s.pkgs := rfl
@[simp] theorem State.frameWrite_homeAt (s : State) (k a : Nat) (l : List Byte) : (s.frameWrite k a l).homeAt = s.homeAt := rfl
@[simp] theorem State.frameWrite_paths (s : State) (k a : Nat) (l : List Byte) : (s.frameWrite k a l).paths = s.paths := rfl

@[simp] theorem State.sramWrite_tick (s : State) (k a : Nat) (l : List Byte) : (s.sramWrite k a l).tick = s.tick := rfl
@[simp] theorem State.sramWrite_nextId (s : State) (k a : Nat) (l : List Byte) : (s.sramWrite k a l).nextId = s.nextId := rfl
@[simp] theorem State.sramWrite_nextSer (s : State) (k a : Nat) (l : List Byte) : (s.sramWrite k a l).nextSer = s.nextSer := rfl
@[simp] theorem State.sramWrite_cycle (s : State) (k a : Nat) (l : List Byte) : (s.sramWrite k a l).cycle = s.cycle := rfl
@[simp] theorem State.sramWrite_inputs (s : State) (k a : Nat) (l : List Byte) : (s.sramWrite k a l).inputs = s.inputs := rfl
@[simp] theorem State.sramWrite_issuing (s : State) (k a : Nat) (l : List Byte) : (s.sramWrite k a l).issuing = s.issuing := rfl
@[simp] theorem State.sramWrite_mem (s : State) (k a : Nat) (l : List Byte) : (s.sramWrite k a l).mem = s.mem := rfl
@[simp] theorem State.sramWrite_pool (s : State) (k a : Nat) (l : List Byte) : (s.sramWrite k a l).pool = s.pool := rfl
@[simp] theorem State.sramWrite_poison (s : State) (k a : Nat) (l : List Byte) : (s.sramWrite k a l).poison = s.poison := rfl
@[simp] theorem State.sramWrite_soft (s : State) (k a : Nat) (l : List Byte) : (s.sramWrite k a l).soft = s.soft := rfl
@[simp] theorem State.sramWrite_bundles (s : State) (k a : Nat) (l : List Byte) : (s.sramWrite k a l).bundles = s.bundles := rfl
@[simp] theorem State.sramWrite_cores (s : State) (k a : Nat) (l : List Byte) : (s.sramWrite k a l).cores = s.cores := rfl
@[simp] theorem State.sramWrite_sets (s : State) (k a : Nat) (l : List Byte) : (s.sramWrite k a l).sets = s.sets := rfl
@[simp] theorem State.sramWrite_bars (s : State) (k a : Nat) (l : List Byte) : (s.sramWrite k a l).bars = s.bars := rfl
@[simp] theorem State.sramWrite_ctxs (s : State) (k a : Nat) (l : List Byte) : (s.sramWrite k a l).ctxs = s.ctxs := rfl
@[simp] theorem State.sramWrite_parts (s : State) (k a : Nat) (l : List Byte) : (s.sramWrite k a l).parts = s.parts := rfl
@[simp] theorem State.sramWrite_fns (s : State) (k a : Nat) (l : List Byte) : (s.sramWrite k a l).fns = s.fns := rfl
@[simp] theorem State.sramWrite_launches (s : State) (k a : Nat) (l : List Byte) : (s.sramWrite k a l).launches = s.launches := rfl
@[simp] theorem State.sramWrite_ops (s : State) (k a : Nat) (l : List Byte) : (s.sramWrite k a l).ops = s.ops := rfl
@[simp] theorem State.sramWrite_reports (s : State) (k a : Nat) (l : List Byte) : (s.sramWrite k a l).reports = s.reports := rfl
@[simp] theorem State.sramWrite_xerrs (s : State) (k a : Nat) (l : List Byte) : (s.sramWrite k a l).xerrs = s.xerrs := rfl
@[simp] theorem State.sramWrite_arms (s : State) (k a : Nat) (l : List Byte) : (s.sramWrite k a l).arms = s.arms := rfl
@[simp] theorem State.sramWrite_pkts (s : State) (k a : Nat) (l : List Byte) : (s.sramWrite k a l).pkts = s.pkts := rfl
@[simp] theorem State.sramWrite_msgs (s : State) (k a : Nat) (l : List Byte) : (s.sramWrite k a l).msgs = s.msgs := rfl
@[simp] theorem State.sramWrite_copies (s : State) (k a : Nat) (l : List Byte) : (s.sramWrite k a l).copies = s.copies := rfl
@[simp] theorem State.sramWrite_rows (s : State) (k a : Nat) (l : List Byte) : (s.sramWrite k a l).rows = s.rows := rfl
@[simp] theorem State.sramWrite_freed (s : State) (k a : Nat) (l : List Byte) : (s.sramWrite k a l).freed = s.freed := rfl
@[simp] theorem State.sramWrite_posts (s : State) (k a : Nat) (l : List Byte) : (s.sramWrite k a l).posts = s.posts := rfl
@[simp] theorem State.sramWrite_images (s : State) (k a : Nat) (l : List Byte) : (s.sramWrite k a l).images = s.images := rfl
@[simp] theorem State.sramWrite_pkgs (s : State) (k a : Nat) (l : List Byte) : (s.sramWrite k a l).pkgs = s.pkgs := rfl
@[simp] theorem State.sramWrite_homeAt (s : State) (k a : Nat) (l : List Byte) : (s.sramWrite k a l).homeAt = s.homeAt := rfl
@[simp] theorem State.sramWrite_paths (s : State) (k a : Nat) (l : List Byte) : (s.sramWrite k a l).paths = s.paths := rfl

/-! ### Records that an update of another kind leaves alone -/

@[simp] theorem State.core_setBundle_eq (s : State) (k : Nat) (x : Bundle) (j : Nat) : (s.setBundle k x).core j = s.core j := rfl
@[simp] theorem State.ctx_setBundle_eq (s : State) (k : Nat) (x : Bundle) (j : Nat) : (s.setBundle k x).ctx j = s.ctx j := rfl
@[simp] theorem State.part_setBundle_eq (s : State) (k : Nat) (x : Bundle) (j : Nat) : (s.setBundle k x).part j = s.part j := rfl
@[simp] theorem State.fn_setBundle_eq (s : State) (k : Nat) (x : Bundle) (j : Nat) : (s.setBundle k x).fn j = s.fn j := rfl
@[simp] theorem State.launch_setBundle_eq (s : State) (k : Nat) (x : Bundle) (j : Nat) : (s.setBundle k x).launch j = s.launch j := rfl
@[simp] theorem State.pkg_setBundle_eq (s : State) (k : Nat) (x : Bundle) (j : Nat) : (s.setBundle k x).pkg j = s.pkg j := rfl
@[simp] theorem State.bar_setBundle_eq (s : State) (k : Nat) (x : Bundle) (j : Nat) : (s.setBundle k x).bar j = s.bar j := rfl
@[simp] theorem State.setRec_setBundle_eq (s : State) (k : Nat) (x : Bundle) (j : Nat) : (s.setBundle k x).setRec j = s.setRec j := rfl

@[simp] theorem State.bundle_setCore_eq (s : State) (k : Nat) (x : Core) (j : Nat) : (s.setCore k x).bundle j = s.bundle j := rfl
@[simp] theorem State.ctx_setCore_eq (s : State) (k : Nat) (x : Core) (j : Nat) : (s.setCore k x).ctx j = s.ctx j := rfl
@[simp] theorem State.part_setCore_eq (s : State) (k : Nat) (x : Core) (j : Nat) : (s.setCore k x).part j = s.part j := rfl
@[simp] theorem State.fn_setCore_eq (s : State) (k : Nat) (x : Core) (j : Nat) : (s.setCore k x).fn j = s.fn j := rfl
@[simp] theorem State.launch_setCore_eq (s : State) (k : Nat) (x : Core) (j : Nat) : (s.setCore k x).launch j = s.launch j := rfl
@[simp] theorem State.pkg_setCore_eq (s : State) (k : Nat) (x : Core) (j : Nat) : (s.setCore k x).pkg j = s.pkg j := rfl
@[simp] theorem State.bar_setCore_eq (s : State) (k : Nat) (x : Core) (j : Nat) : (s.setCore k x).bar j = s.bar j := rfl
@[simp] theorem State.setRec_setCore_eq (s : State) (k : Nat) (x : Core) (j : Nat) : (s.setCore k x).setRec j = s.setRec j := rfl

@[simp] theorem State.bundle_setCtx_eq (s : State) (k : Nat) (x : Ctx) (j : Nat) : (s.setCtx k x).bundle j = s.bundle j := rfl
@[simp] theorem State.core_setCtx_eq (s : State) (k : Nat) (x : Ctx) (j : Nat) : (s.setCtx k x).core j = s.core j := rfl
@[simp] theorem State.part_setCtx_eq (s : State) (k : Nat) (x : Ctx) (j : Nat) : (s.setCtx k x).part j = s.part j := rfl
@[simp] theorem State.fn_setCtx_eq (s : State) (k : Nat) (x : Ctx) (j : Nat) : (s.setCtx k x).fn j = s.fn j := rfl
@[simp] theorem State.launch_setCtx_eq (s : State) (k : Nat) (x : Ctx) (j : Nat) : (s.setCtx k x).launch j = s.launch j := rfl
@[simp] theorem State.pkg_setCtx_eq (s : State) (k : Nat) (x : Ctx) (j : Nat) : (s.setCtx k x).pkg j = s.pkg j := rfl
@[simp] theorem State.bar_setCtx_eq (s : State) (k : Nat) (x : Ctx) (j : Nat) : (s.setCtx k x).bar j = s.bar j := rfl
@[simp] theorem State.setRec_setCtx_eq (s : State) (k : Nat) (x : Ctx) (j : Nat) : (s.setCtx k x).setRec j = s.setRec j := rfl

@[simp] theorem State.bundle_setPart_eq (s : State) (k : Nat) (x : Part) (j : Nat) : (s.setPart k x).bundle j = s.bundle j := rfl
@[simp] theorem State.core_setPart_eq (s : State) (k : Nat) (x : Part) (j : Nat) : (s.setPart k x).core j = s.core j := rfl
@[simp] theorem State.ctx_setPart_eq (s : State) (k : Nat) (x : Part) (j : Nat) : (s.setPart k x).ctx j = s.ctx j := rfl
@[simp] theorem State.fn_setPart_eq (s : State) (k : Nat) (x : Part) (j : Nat) : (s.setPart k x).fn j = s.fn j := rfl
@[simp] theorem State.launch_setPart_eq (s : State) (k : Nat) (x : Part) (j : Nat) : (s.setPart k x).launch j = s.launch j := rfl
@[simp] theorem State.pkg_setPart_eq (s : State) (k : Nat) (x : Part) (j : Nat) : (s.setPart k x).pkg j = s.pkg j := rfl
@[simp] theorem State.bar_setPart_eq (s : State) (k : Nat) (x : Part) (j : Nat) : (s.setPart k x).bar j = s.bar j := rfl
@[simp] theorem State.setRec_setPart_eq (s : State) (k : Nat) (x : Part) (j : Nat) : (s.setPart k x).setRec j = s.setRec j := rfl

@[simp] theorem State.bundle_setFn_eq (s : State) (k : Nat) (x : Fn) (j : Nat) : (s.setFn k x).bundle j = s.bundle j := rfl
@[simp] theorem State.core_setFn_eq (s : State) (k : Nat) (x : Fn) (j : Nat) : (s.setFn k x).core j = s.core j := rfl
@[simp] theorem State.ctx_setFn_eq (s : State) (k : Nat) (x : Fn) (j : Nat) : (s.setFn k x).ctx j = s.ctx j := rfl
@[simp] theorem State.part_setFn_eq (s : State) (k : Nat) (x : Fn) (j : Nat) : (s.setFn k x).part j = s.part j := rfl
@[simp] theorem State.launch_setFn_eq (s : State) (k : Nat) (x : Fn) (j : Nat) : (s.setFn k x).launch j = s.launch j := rfl
@[simp] theorem State.pkg_setFn_eq (s : State) (k : Nat) (x : Fn) (j : Nat) : (s.setFn k x).pkg j = s.pkg j := rfl
@[simp] theorem State.bar_setFn_eq (s : State) (k : Nat) (x : Fn) (j : Nat) : (s.setFn k x).bar j = s.bar j := rfl
@[simp] theorem State.setRec_setFn_eq (s : State) (k : Nat) (x : Fn) (j : Nat) : (s.setFn k x).setRec j = s.setRec j := rfl

@[simp] theorem State.bundle_setLaunch_eq (s : State) (k : Nat) (x : Launch) (j : Nat) : (s.setLaunch k x).bundle j = s.bundle j := rfl
@[simp] theorem State.core_setLaunch_eq (s : State) (k : Nat) (x : Launch) (j : Nat) : (s.setLaunch k x).core j = s.core j := rfl
@[simp] theorem State.ctx_setLaunch_eq (s : State) (k : Nat) (x : Launch) (j : Nat) : (s.setLaunch k x).ctx j = s.ctx j := rfl
@[simp] theorem State.part_setLaunch_eq (s : State) (k : Nat) (x : Launch) (j : Nat) : (s.setLaunch k x).part j = s.part j := rfl
@[simp] theorem State.fn_setLaunch_eq (s : State) (k : Nat) (x : Launch) (j : Nat) : (s.setLaunch k x).fn j = s.fn j := rfl
@[simp] theorem State.pkg_setLaunch_eq (s : State) (k : Nat) (x : Launch) (j : Nat) : (s.setLaunch k x).pkg j = s.pkg j := rfl
@[simp] theorem State.bar_setLaunch_eq (s : State) (k : Nat) (x : Launch) (j : Nat) : (s.setLaunch k x).bar j = s.bar j := rfl
@[simp] theorem State.setRec_setLaunch_eq (s : State) (k : Nat) (x : Launch) (j : Nat) : (s.setLaunch k x).setRec j = s.setRec j := rfl

@[simp] theorem State.bundle_setPkg_eq (s : State) (k : Nat) (x : Pkg) (j : Nat) : (s.setPkg k x).bundle j = s.bundle j := rfl
@[simp] theorem State.core_setPkg_eq (s : State) (k : Nat) (x : Pkg) (j : Nat) : (s.setPkg k x).core j = s.core j := rfl
@[simp] theorem State.ctx_setPkg_eq (s : State) (k : Nat) (x : Pkg) (j : Nat) : (s.setPkg k x).ctx j = s.ctx j := rfl
@[simp] theorem State.part_setPkg_eq (s : State) (k : Nat) (x : Pkg) (j : Nat) : (s.setPkg k x).part j = s.part j := rfl
@[simp] theorem State.fn_setPkg_eq (s : State) (k : Nat) (x : Pkg) (j : Nat) : (s.setPkg k x).fn j = s.fn j := rfl
@[simp] theorem State.launch_setPkg_eq (s : State) (k : Nat) (x : Pkg) (j : Nat) : (s.setPkg k x).launch j = s.launch j := rfl
@[simp] theorem State.bar_setPkg_eq (s : State) (k : Nat) (x : Pkg) (j : Nat) : (s.setPkg k x).bar j = s.bar j := rfl
@[simp] theorem State.setRec_setPkg_eq (s : State) (k : Nat) (x : Pkg) (j : Nat) : (s.setPkg k x).setRec j = s.setRec j := rfl

@[simp] theorem State.bundle_putBar_eq (s : State) (k : Nat) (x : Bar) (j : Nat) : (s.putBar k x).bundle j = s.bundle j := rfl
@[simp] theorem State.core_putBar_eq (s : State) (k : Nat) (x : Bar) (j : Nat) : (s.putBar k x).core j = s.core j := rfl
@[simp] theorem State.ctx_putBar_eq (s : State) (k : Nat) (x : Bar) (j : Nat) : (s.putBar k x).ctx j = s.ctx j := rfl
@[simp] theorem State.part_putBar_eq (s : State) (k : Nat) (x : Bar) (j : Nat) : (s.putBar k x).part j = s.part j := rfl
@[simp] theorem State.fn_putBar_eq (s : State) (k : Nat) (x : Bar) (j : Nat) : (s.putBar k x).fn j = s.fn j := rfl
@[simp] theorem State.launch_putBar_eq (s : State) (k : Nat) (x : Bar) (j : Nat) : (s.putBar k x).launch j = s.launch j := rfl
@[simp] theorem State.pkg_putBar_eq (s : State) (k : Nat) (x : Bar) (j : Nat) : (s.putBar k x).pkg j = s.pkg j := rfl
@[simp] theorem State.setRec_putBar_eq (s : State) (k : Nat) (x : Bar) (j : Nat) : (s.putBar k x).setRec j = s.setRec j := rfl

@[simp] theorem State.bundle_putSet_eq (s : State) (k : Nat) (x : SetRec) (j : Nat) : (s.putSet k x).bundle j = s.bundle j := rfl
@[simp] theorem State.core_putSet_eq (s : State) (k : Nat) (x : SetRec) (j : Nat) : (s.putSet k x).core j = s.core j := rfl
@[simp] theorem State.ctx_putSet_eq (s : State) (k : Nat) (x : SetRec) (j : Nat) : (s.putSet k x).ctx j = s.ctx j := rfl
@[simp] theorem State.part_putSet_eq (s : State) (k : Nat) (x : SetRec) (j : Nat) : (s.putSet k x).part j = s.part j := rfl
@[simp] theorem State.fn_putSet_eq (s : State) (k : Nat) (x : SetRec) (j : Nat) : (s.putSet k x).fn j = s.fn j := rfl
@[simp] theorem State.launch_putSet_eq (s : State) (k : Nat) (x : SetRec) (j : Nat) : (s.putSet k x).launch j = s.launch j := rfl
@[simp] theorem State.pkg_putSet_eq (s : State) (k : Nat) (x : SetRec) (j : Nat) : (s.putSet k x).pkg j = s.pkg j := rfl
@[simp] theorem State.bar_putSet_eq (s : State) (k : Nat) (x : SetRec) (j : Nat) : (s.putSet k x).bar j = s.bar j := rfl

@[simp] theorem State.bundle_putOp_eq (s : State) (x : Op) (j : Nat) : (s.putOp x).bundle j = s.bundle j := rfl
@[simp] theorem State.core_putOp_eq (s : State) (x : Op) (j : Nat) : (s.putOp x).core j = s.core j := rfl
@[simp] theorem State.ctx_putOp_eq (s : State) (x : Op) (j : Nat) : (s.putOp x).ctx j = s.ctx j := rfl
@[simp] theorem State.part_putOp_eq (s : State) (x : Op) (j : Nat) : (s.putOp x).part j = s.part j := rfl
@[simp] theorem State.fn_putOp_eq (s : State) (x : Op) (j : Nat) : (s.putOp x).fn j = s.fn j := rfl
@[simp] theorem State.launch_putOp_eq (s : State) (x : Op) (j : Nat) : (s.putOp x).launch j = s.launch j := rfl
@[simp] theorem State.pkg_putOp_eq (s : State) (x : Op) (j : Nat) : (s.putOp x).pkg j = s.pkg j := rfl
@[simp] theorem State.bar_putOp_eq (s : State) (x : Op) (j : Nat) : (s.putOp x).bar j = s.bar j := rfl
@[simp] theorem State.setRec_putOp_eq (s : State) (x : Op) (j : Nat) : (s.putOp x).setRec j = s.setRec j := rfl

@[simp] theorem State.bundle_memWrite_eq (s : State) (a : Nat) (l : List Byte) (j : Nat) : (s.memWrite a l).bundle j = s.bundle j := rfl
@[simp] theorem State.core_memWrite_eq (s : State) (a : Nat) (l : List Byte) (j : Nat) : (s.memWrite a l).core j = s.core j := rfl
@[simp] theorem State.ctx_memWrite_eq (s : State) (a : Nat) (l : List Byte) (j : Nat) : (s.memWrite a l).ctx j = s.ctx j := rfl
@[simp] theorem State.part_memWrite_eq (s : State) (a : Nat) (l : List Byte) (j : Nat) : (s.memWrite a l).part j = s.part j := rfl
@[simp] theorem State.fn_memWrite_eq (s : State) (a : Nat) (l : List Byte) (j : Nat) : (s.memWrite a l).fn j = s.fn j := rfl
@[simp] theorem State.launch_memWrite_eq (s : State) (a : Nat) (l : List Byte) (j : Nat) : (s.memWrite a l).launch j = s.launch j := rfl
@[simp] theorem State.pkg_memWrite_eq (s : State) (a : Nat) (l : List Byte) (j : Nat) : (s.memWrite a l).pkg j = s.pkg j := rfl
@[simp] theorem State.bar_memWrite_eq (s : State) (a : Nat) (l : List Byte) (j : Nat) : (s.memWrite a l).bar j = s.bar j := rfl
@[simp] theorem State.setRec_memWrite_eq (s : State) (a : Nat) (l : List Byte) (j : Nat) : (s.memWrite a l).setRec j = s.setRec j := rfl

@[simp] theorem State.bundle_frameWrite_eq (s : State) (k a : Nat) (l : List Byte) (j : Nat) : (s.frameWrite k a l).bundle j = s.bundle j := rfl
@[simp] theorem State.core_frameWrite_eq (s : State) (k a : Nat) (l : List Byte) (j : Nat) : (s.frameWrite k a l).core j = s.core j := rfl
@[simp] theorem State.ctx_frameWrite_eq (s : State) (k a : Nat) (l : List Byte) (j : Nat) : (s.frameWrite k a l).ctx j = s.ctx j := rfl
@[simp] theorem State.part_frameWrite_eq (s : State) (k a : Nat) (l : List Byte) (j : Nat) : (s.frameWrite k a l).part j = s.part j := rfl
@[simp] theorem State.fn_frameWrite_eq (s : State) (k a : Nat) (l : List Byte) (j : Nat) : (s.frameWrite k a l).fn j = s.fn j := rfl
@[simp] theorem State.launch_frameWrite_eq (s : State) (k a : Nat) (l : List Byte) (j : Nat) : (s.frameWrite k a l).launch j = s.launch j := rfl
@[simp] theorem State.pkg_frameWrite_eq (s : State) (k a : Nat) (l : List Byte) (j : Nat) : (s.frameWrite k a l).pkg j = s.pkg j := rfl
@[simp] theorem State.bar_frameWrite_eq (s : State) (k a : Nat) (l : List Byte) (j : Nat) : (s.frameWrite k a l).bar j = s.bar j := rfl
@[simp] theorem State.setRec_frameWrite_eq (s : State) (k a : Nat) (l : List Byte) (j : Nat) : (s.frameWrite k a l).setRec j = s.setRec j := rfl

@[simp] theorem State.bundle_sramWrite_eq (s : State) (k a : Nat) (l : List Byte) (j : Nat) : (s.sramWrite k a l).bundle j = s.bundle j := rfl
@[simp] theorem State.core_sramWrite_eq (s : State) (k a : Nat) (l : List Byte) (j : Nat) : (s.sramWrite k a l).core j = s.core j := rfl
@[simp] theorem State.ctx_sramWrite_eq (s : State) (k a : Nat) (l : List Byte) (j : Nat) : (s.sramWrite k a l).ctx j = s.ctx j := rfl
@[simp] theorem State.part_sramWrite_eq (s : State) (k a : Nat) (l : List Byte) (j : Nat) : (s.sramWrite k a l).part j = s.part j := rfl
@[simp] theorem State.fn_sramWrite_eq (s : State) (k a : Nat) (l : List Byte) (j : Nat) : (s.sramWrite k a l).fn j = s.fn j := rfl
@[simp] theorem State.launch_sramWrite_eq (s : State) (k a : Nat) (l : List Byte) (j : Nat) : (s.sramWrite k a l).launch j = s.launch j := rfl
@[simp] theorem State.pkg_sramWrite_eq (s : State) (k a : Nat) (l : List Byte) (j : Nat) : (s.sramWrite k a l).pkg j = s.pkg j := rfl
@[simp] theorem State.bar_sramWrite_eq (s : State) (k a : Nat) (l : List Byte) (j : Nat) : (s.sramWrite k a l).bar j = s.bar j := rfl
@[simp] theorem State.setRec_sramWrite_eq (s : State) (k a : Nat) (l : List Byte) (j : Nat) : (s.sramWrite k a l).setRec j = s.setRec j := rfl

/-! ### The record that was stored, and the others of its kind -/

@[simp] theorem State.core_setCore (s : State) (k : Nat) (x : Core) : (s.setCore k x).core k = x := by
  simp [State.core, State.setCore, FMap.look_put]

theorem State.core_setCore_ne (s : State) (k j : Nat) (x : Core) (h : j ≠ k) : (s.setCore k x).core j = s.core j := by
  simp [State.core, State.setCore, FMap.look_put, h]

@[simp] theorem State.ctx_setCtx (s : State) (k : Nat) (x : Ctx) : (s.setCtx k x).ctx k = x := by
  simp [State.ctx, State.setCtx, FMap.look_put]

theorem State.ctx_setCtx_ne (s : State) (k j : Nat) (x : Ctx) (h : j ≠ k) : (s.setCtx k x).ctx j = s.ctx j := by
  simp [State.ctx, State.setCtx, FMap.look_put, h]

@[simp] theorem State.part_setPart (s : State) (k : Nat) (x : Part) : (s.setPart k x).part k = x := by
  simp [State.part, State.setPart, FMap.look_put]

theorem State.part_setPart_ne (s : State) (k j : Nat) (x : Part) (h : j ≠ k) : (s.setPart k x).part j = s.part j := by
  simp [State.part, State.setPart, FMap.look_put, h]

@[simp] theorem State.fn_setFn (s : State) (k : Nat) (x : Fn) : (s.setFn k x).fn k = x := by
  simp [State.fn, State.setFn, FMap.look_put]

theorem State.fn_setFn_ne (s : State) (k j : Nat) (x : Fn) (h : j ≠ k) : (s.setFn k x).fn j = s.fn j := by
  simp [State.fn, State.setFn, FMap.look_put, h]

@[simp] theorem State.launch_setLaunch (s : State) (k : Nat) (x : Launch) : (s.setLaunch k x).launch k = x := by
  simp [State.launch, State.setLaunch, FMap.look_put]

theorem State.launch_setLaunch_ne (s : State) (k j : Nat) (x : Launch) (h : j ≠ k) : (s.setLaunch k x).launch j = s.launch j := by
  simp [State.launch, State.setLaunch, FMap.look_put, h]

@[simp] theorem State.pkg_setPkg (s : State) (k : Nat) (x : Pkg) : (s.setPkg k x).pkg k = x := by
  simp [State.pkg, State.setPkg, FMap.look_put]

theorem State.pkg_setPkg_ne (s : State) (k j : Nat) (x : Pkg) (h : j ≠ k) : (s.setPkg k x).pkg j = s.pkg j := by
  simp [State.pkg, State.setPkg, FMap.look_put, h]

@[simp] theorem State.bar_putBar (s : State) (k : Nat) (x : Bar) : (s.putBar k x).bar k = x := by
  simp [State.bar, State.putBar, FMap.look_write]

theorem State.bar_putBar_ne (s : State) (k j : Nat) (x : Bar) (h : j ≠ k) : (s.putBar k x).bar j = s.bar j := by
  simp [State.bar, State.putBar, FMap.look_write, h]

@[simp] theorem State.setRec_putSet (s : State) (k : Nat) (x : SetRec) : (s.putSet k x).setRec k = x := by
  simp [State.setRec, State.putSet, FMap.look_write]

theorem State.setRec_putSet_ne (s : State) (k j : Nat) (x : SetRec) (h : j ≠ k) : (s.putSet k x).setRec j = s.setRec j := by
  simp [State.setRec, State.putSet, FMap.look_write, h]

/-! ### Fields that an update of a bundle leaves alone -/

@[simp] theorem Bundle.setSreg_ser (b : Bundle) (n : Nat) (x : DWord) : (b.setSreg n x).ser = b.ser := rfl
@[simp] theorem Bundle.setSreg_launch (b : Bundle) (n : Nat) (x : DWord) : (b.setSreg n x).launch = b.launch := rfl
@[simp] theorem Bundle.setSreg_width (b : Bundle) (n : Nat) (x : DWord) : (b.setSreg n x).width = b.width := rfl
@[simp] theorem Bundle.setSreg_allot (b : Bundle) (n : Nat) (x : DWord) : (b.setSreg n x).allot = b.allot := rfl
@[simp] theorem Bundle.setSreg_dmax (b : Bundle) (n : Nat) (x : DWord) : (b.setSreg n x).dmax = b.dmax := rfl
@[simp] theorem Bundle.setSreg_prio (b : Bundle) (n : Nat) (x : DWord) : (b.setSreg n x).prio = b.prio := rfl
@[simp] theorem Bundle.setSreg_thr (b : Bundle) (n : Nat) (x : DWord) : (b.setSreg n x).thr = b.thr := rfl
@[simp] theorem Bundle.setSreg_v (b : Bundle) (n : Nat) (x : DWord) : (b.setSreg n x).v = b.v := rfl
@[simp] theorem Bundle.setSreg_ix (b : Bundle) (n : Nat) (x : DWord) : (b.setSreg n x).ix = b.ix := rfl
@[simp] theorem Bundle.setSreg_m (b : Bundle) (n : Nat) (x : DWord) : (b.setSreg n x).m = b.m := rfl
@[simp] theorem Bundle.setSreg_wf (b : Bundle) (n : Nat) (x : DWord) : (b.setSreg n x).wf = b.wf := rfl
@[simp] theorem Bundle.setSreg_fam (b : Bundle) (n : Nat) (x : DWord) : (b.setSreg n x).fam = b.fam := rfl
@[simp] theorem Bundle.setSreg_active (b : Bundle) (n : Nat) (x : DWord) : (b.setSreg n x).active = b.active := rfl
@[simp] theorem Bundle.setSreg_status (b : Bundle) (n : Nat) (x : DWord) : (b.setSreg n x).status = b.status := rfl
@[simp] theorem Bundle.setSreg_trapReg (b : Bundle) (n : Nat) (x : DWord) : (b.setSreg n x).trapReg = b.trapReg := rfl
@[simp] theorem Bundle.setSreg_pend (b : Bundle) (n : Nat) (x : DWord) : (b.setSreg n x).pend = b.pend := rfl
@[simp] theorem Bundle.setSreg_hidden (b : Bundle) (n : Nat) (x : DWord) : (b.setSreg n x).hidden = b.hidden := rfl
@[simp] theorem Bundle.setSreg_blk (b : Bundle) (n : Nat) (x : DWord) : (b.setSreg n x).blk = b.blk := rfl
@[simp] theorem Bundle.setSreg_bno (b : Bundle) (n : Nat) (x : DWord) : (b.setSreg n x).bno = b.bno := rfl
@[simp] theorem Bundle.setSreg_nb (b : Bundle) (n : Nat) (x : DWord) : (b.setSreg n x).nb = b.nb := rfl
@[simp] theorem Bundle.setSreg_fw (b : Bundle) (n : Nat) (x : DWord) : (b.setSreg n x).fw = b.fw := rfl
@[simp] theorem Bundle.setSreg_stalled (b : Bundle) (n : Nat) (x : DWord) : (b.setSreg n x).stalled = b.stalled := rfl
@[simp] theorem Bundle.setSreg_held (b : Bundle) (n : Nat) (x : DWord) : (b.setSreg n x).held = b.held := rfl
@[simp] theorem Bundle.setSreg_rel (b : Bundle) (n : Nat) (x : DWord) : (b.setSreg n x).rel = b.rel := rfl

@[simp] theorem Bundle.setVreg_ser (b : Bundle) (t n : Nat) (x : Word) : (b.setVreg t n x).ser = b.ser := rfl
@[simp] theorem Bundle.setVreg_launch (b : Bundle) (t n : Nat) (x : Word) : (b.setVreg t n x).launch = b.launch := rfl
@[simp] theorem Bundle.setVreg_width (b : Bundle) (t n : Nat) (x : Word) : (b.setVreg t n x).width = b.width := rfl
@[simp] theorem Bundle.setVreg_allot (b : Bundle) (t n : Nat) (x : Word) : (b.setVreg t n x).allot = b.allot := rfl
@[simp] theorem Bundle.setVreg_dmax (b : Bundle) (t n : Nat) (x : Word) : (b.setVreg t n x).dmax = b.dmax := rfl
@[simp] theorem Bundle.setVreg_prio (b : Bundle) (t n : Nat) (x : Word) : (b.setVreg t n x).prio = b.prio := rfl
@[simp] theorem Bundle.setVreg_thr (b : Bundle) (t n : Nat) (x : Word) : (b.setVreg t n x).thr = b.thr := rfl
@[simp] theorem Bundle.setVreg_ix (b : Bundle) (t n : Nat) (x : Word) : (b.setVreg t n x).ix = b.ix := rfl
@[simp] theorem Bundle.setVreg_s (b : Bundle) (t n : Nat) (x : Word) : (b.setVreg t n x).s = b.s := rfl
@[simp] theorem Bundle.setVreg_m (b : Bundle) (t n : Nat) (x : Word) : (b.setVreg t n x).m = b.m := rfl
@[simp] theorem Bundle.setVreg_wf (b : Bundle) (t n : Nat) (x : Word) : (b.setVreg t n x).wf = b.wf := rfl
@[simp] theorem Bundle.setVreg_fam (b : Bundle) (t n : Nat) (x : Word) : (b.setVreg t n x).fam = b.fam := rfl
@[simp] theorem Bundle.setVreg_active (b : Bundle) (t n : Nat) (x : Word) : (b.setVreg t n x).active = b.active := rfl
@[simp] theorem Bundle.setVreg_status (b : Bundle) (t n : Nat) (x : Word) : (b.setVreg t n x).status = b.status := rfl
@[simp] theorem Bundle.setVreg_trapReg (b : Bundle) (t n : Nat) (x : Word) : (b.setVreg t n x).trapReg = b.trapReg := rfl
@[simp] theorem Bundle.setVreg_pend (b : Bundle) (t n : Nat) (x : Word) : (b.setVreg t n x).pend = b.pend := rfl
@[simp] theorem Bundle.setVreg_hidden (b : Bundle) (t n : Nat) (x : Word) : (b.setVreg t n x).hidden = b.hidden := rfl
@[simp] theorem Bundle.setVreg_blk (b : Bundle) (t n : Nat) (x : Word) : (b.setVreg t n x).blk = b.blk := rfl
@[simp] theorem Bundle.setVreg_bno (b : Bundle) (t n : Nat) (x : Word) : (b.setVreg t n x).bno = b.bno := rfl
@[simp] theorem Bundle.setVreg_nb (b : Bundle) (t n : Nat) (x : Word) : (b.setVreg t n x).nb = b.nb := rfl
@[simp] theorem Bundle.setVreg_fw (b : Bundle) (t n : Nat) (x : Word) : (b.setVreg t n x).fw = b.fw := rfl
@[simp] theorem Bundle.setVreg_stalled (b : Bundle) (t n : Nat) (x : Word) : (b.setVreg t n x).stalled = b.stalled := rfl
@[simp] theorem Bundle.setVreg_held (b : Bundle) (t n : Nat) (x : Word) : (b.setVreg t n x).held = b.held := rfl
@[simp] theorem Bundle.setVreg_rel (b : Bundle) (t n : Nat) (x : Word) : (b.setVreg t n x).rel = b.rel := rfl

@[simp] theorem Bundle.setIreg_ser (b : Bundle) (t k : Nat) (x : Byte) : (b.setIreg t k x).ser = b.ser := rfl
@[simp] theorem Bundle.setIreg_launch (b : Bundle) (t k : Nat) (x : Byte) : (b.setIreg t k x).launch = b.launch := rfl
@[simp] theorem Bundle.setIreg_width (b : Bundle) (t k : Nat) (x : Byte) : (b.setIreg t k x).width = b.width := rfl
@[simp] theorem Bundle.setIreg_allot (b : Bundle) (t k : Nat) (x : Byte) : (b.setIreg t k x).allot = b.allot := rfl
@[simp] theorem Bundle.setIreg_dmax (b : Bundle) (t k : Nat) (x : Byte) : (b.setIreg t k x).dmax = b.dmax := rfl
@[simp] theorem Bundle.setIreg_prio (b : Bundle) (t k : Nat) (x : Byte) : (b.setIreg t k x).prio = b.prio := rfl
@[simp] theorem Bundle.setIreg_thr (b : Bundle) (t k : Nat) (x : Byte) : (b.setIreg t k x).thr = b.thr := rfl
@[simp] theorem Bundle.setIreg_v (b : Bundle) (t k : Nat) (x : Byte) : (b.setIreg t k x).v = b.v := rfl
@[simp] theorem Bundle.setIreg_s (b : Bundle) (t k : Nat) (x : Byte) : (b.setIreg t k x).s = b.s := rfl
@[simp] theorem Bundle.setIreg_m (b : Bundle) (t k : Nat) (x : Byte) : (b.setIreg t k x).m = b.m := rfl
@[simp] theorem Bundle.setIreg_wf (b : Bundle) (t k : Nat) (x : Byte) : (b.setIreg t k x).wf = b.wf := rfl
@[simp] theorem Bundle.setIreg_fam (b : Bundle) (t k : Nat) (x : Byte) : (b.setIreg t k x).fam = b.fam := rfl
@[simp] theorem Bundle.setIreg_active (b : Bundle) (t k : Nat) (x : Byte) : (b.setIreg t k x).active = b.active := rfl
@[simp] theorem Bundle.setIreg_status (b : Bundle) (t k : Nat) (x : Byte) : (b.setIreg t k x).status = b.status := rfl
@[simp] theorem Bundle.setIreg_trapReg (b : Bundle) (t k : Nat) (x : Byte) : (b.setIreg t k x).trapReg = b.trapReg := rfl
@[simp] theorem Bundle.setIreg_pend (b : Bundle) (t k : Nat) (x : Byte) : (b.setIreg t k x).pend = b.pend := rfl
@[simp] theorem Bundle.setIreg_hidden (b : Bundle) (t k : Nat) (x : Byte) : (b.setIreg t k x).hidden = b.hidden := rfl
@[simp] theorem Bundle.setIreg_blk (b : Bundle) (t k : Nat) (x : Byte) : (b.setIreg t k x).blk = b.blk := rfl
@[simp] theorem Bundle.setIreg_bno (b : Bundle) (t k : Nat) (x : Byte) : (b.setIreg t k x).bno = b.bno := rfl
@[simp] theorem Bundle.setIreg_nb (b : Bundle) (t k : Nat) (x : Byte) : (b.setIreg t k x).nb = b.nb := rfl
@[simp] theorem Bundle.setIreg_fw (b : Bundle) (t k : Nat) (x : Byte) : (b.setIreg t k x).fw = b.fw := rfl
@[simp] theorem Bundle.setIreg_stalled (b : Bundle) (t k : Nat) (x : Byte) : (b.setIreg t k x).stalled = b.stalled := rfl
@[simp] theorem Bundle.setIreg_held (b : Bundle) (t k : Nat) (x : Byte) : (b.setIreg t k x).held = b.held := rfl
@[simp] theorem Bundle.setIreg_rel (b : Bundle) (t k : Nat) (x : Byte) : (b.setIreg t k x).rel = b.rel := rfl

@[simp] theorem Bundle.setFlag_ser (b : Bundle) (k n : Nat) : (b.setFlag k n).ser = b.ser := rfl
@[simp] theorem Bundle.setFlag_launch (b : Bundle) (k n : Nat) : (b.setFlag k n).launch = b.launch := rfl
@[simp] theorem Bundle.setFlag_width (b : Bundle) (k n : Nat) : (b.setFlag k n).width = b.width := rfl
@[simp] theorem Bundle.setFlag_allot (b : Bundle) (k n : Nat) : (b.setFlag k n).allot = b.allot := rfl
@[simp] theorem Bundle.setFlag_dmax (b : Bundle) (k n : Nat) : (b.setFlag k n).dmax = b.dmax := rfl
@[simp] theorem Bundle.setFlag_prio (b : Bundle) (k n : Nat) : (b.setFlag k n).prio = b.prio := rfl
@[simp] theorem Bundle.setFlag_thr (b : Bundle) (k n : Nat) : (b.setFlag k n).thr = b.thr := rfl
@[simp] theorem Bundle.setFlag_v (b : Bundle) (k n : Nat) : (b.setFlag k n).v = b.v := rfl
@[simp] theorem Bundle.setFlag_ix (b : Bundle) (k n : Nat) : (b.setFlag k n).ix = b.ix := rfl
@[simp] theorem Bundle.setFlag_s (b : Bundle) (k n : Nat) : (b.setFlag k n).s = b.s := rfl
@[simp] theorem Bundle.setFlag_m (b : Bundle) (k n : Nat) : (b.setFlag k n).m = b.m := rfl
@[simp] theorem Bundle.setFlag_fam (b : Bundle) (k n : Nat) : (b.setFlag k n).fam = b.fam := rfl
@[simp] theorem Bundle.setFlag_active (b : Bundle) (k n : Nat) : (b.setFlag k n).active = b.active := rfl
@[simp] theorem Bundle.setFlag_status (b : Bundle) (k n : Nat) : (b.setFlag k n).status = b.status := rfl
@[simp] theorem Bundle.setFlag_trapReg (b : Bundle) (k n : Nat) : (b.setFlag k n).trapReg = b.trapReg := rfl
@[simp] theorem Bundle.setFlag_pend (b : Bundle) (k n : Nat) : (b.setFlag k n).pend = b.pend := rfl
@[simp] theorem Bundle.setFlag_hidden (b : Bundle) (k n : Nat) : (b.setFlag k n).hidden = b.hidden := rfl
@[simp] theorem Bundle.setFlag_blk (b : Bundle) (k n : Nat) : (b.setFlag k n).blk = b.blk := rfl
@[simp] theorem Bundle.setFlag_bno (b : Bundle) (k n : Nat) : (b.setFlag k n).bno = b.bno := rfl
@[simp] theorem Bundle.setFlag_nb (b : Bundle) (k n : Nat) : (b.setFlag k n).nb = b.nb := rfl
@[simp] theorem Bundle.setFlag_fw (b : Bundle) (k n : Nat) : (b.setFlag k n).fw = b.fw := rfl
@[simp] theorem Bundle.setFlag_stalled (b : Bundle) (k n : Nat) : (b.setFlag k n).stalled = b.stalled := rfl
@[simp] theorem Bundle.setFlag_held (b : Bundle) (k n : Nat) : (b.setFlag k n).held = b.held := rfl
@[simp] theorem Bundle.setFlag_rel (b : Bundle) (k n : Nat) : (b.setFlag k n).rel = b.rel := rfl

@[simp] theorem Bundle.setFamily_ser (b : Bundle) (k : Nat) (m : DWord) : (b.setFamily k m).ser = b.ser := rfl
@[simp] theorem Bundle.setFamily_launch (b : Bundle) (k : Nat) (m : DWord) : (b.setFamily k m).launch = b.launch := rfl
@[simp] theorem Bundle.setFamily_width (b : Bundle) (k : Nat) (m : DWord) : (b.setFamily k m).width = b.width := rfl
@[simp] theorem Bundle.setFamily_allot (b : Bundle) (k : Nat) (m : DWord) : (b.setFamily k m).allot = b.allot := rfl
@[simp] theorem Bundle.setFamily_dmax (b : Bundle) (k : Nat) (m : DWord) : (b.setFamily k m).dmax = b.dmax := rfl
@[simp] theorem Bundle.setFamily_prio (b : Bundle) (k : Nat) (m : DWord) : (b.setFamily k m).prio = b.prio := rfl
@[simp] theorem Bundle.setFamily_thr (b : Bundle) (k : Nat) (m : DWord) : (b.setFamily k m).thr = b.thr := rfl
@[simp] theorem Bundle.setFamily_v (b : Bundle) (k : Nat) (m : DWord) : (b.setFamily k m).v = b.v := rfl
@[simp] theorem Bundle.setFamily_ix (b : Bundle) (k : Nat) (m : DWord) : (b.setFamily k m).ix = b.ix := rfl
@[simp] theorem Bundle.setFamily_s (b : Bundle) (k : Nat) (m : DWord) : (b.setFamily k m).s = b.s := rfl
@[simp] theorem Bundle.setFamily_m (b : Bundle) (k : Nat) (m : DWord) : (b.setFamily k m).m = b.m := rfl
@[simp] theorem Bundle.setFamily_wf (b : Bundle) (k : Nat) (m : DWord) : (b.setFamily k m).wf = b.wf := rfl
@[simp] theorem Bundle.setFamily_active (b : Bundle) (k : Nat) (m : DWord) : (b.setFamily k m).active = b.active := rfl
@[simp] theorem Bundle.setFamily_status (b : Bundle) (k : Nat) (m : DWord) : (b.setFamily k m).status = b.status := rfl
@[simp] theorem Bundle.setFamily_trapReg (b : Bundle) (k : Nat) (m : DWord) : (b.setFamily k m).trapReg = b.trapReg := rfl
@[simp] theorem Bundle.setFamily_pend (b : Bundle) (k : Nat) (m : DWord) : (b.setFamily k m).pend = b.pend := rfl
@[simp] theorem Bundle.setFamily_hidden (b : Bundle) (k : Nat) (m : DWord) : (b.setFamily k m).hidden = b.hidden := rfl
@[simp] theorem Bundle.setFamily_blk (b : Bundle) (k : Nat) (m : DWord) : (b.setFamily k m).blk = b.blk := rfl
@[simp] theorem Bundle.setFamily_bno (b : Bundle) (k : Nat) (m : DWord) : (b.setFamily k m).bno = b.bno := rfl
@[simp] theorem Bundle.setFamily_nb (b : Bundle) (k : Nat) (m : DWord) : (b.setFamily k m).nb = b.nb := rfl
@[simp] theorem Bundle.setFamily_fw (b : Bundle) (k : Nat) (m : DWord) : (b.setFamily k m).fw = b.fw := rfl
@[simp] theorem Bundle.setFamily_stalled (b : Bundle) (k : Nat) (m : DWord) : (b.setFamily k m).stalled = b.stalled := rfl
@[simp] theorem Bundle.setFamily_held (b : Bundle) (k : Nat) (m : DWord) : (b.setFamily k m).held = b.held := rfl
@[simp] theorem Bundle.setFamily_rel (b : Bundle) (k : Nat) (m : DWord) : (b.setFamily k m).rel = b.rel := rfl

@[simp] theorem Bundle.mapThreads_ser (b : Bundle) (m : DWord) (f : Thread → Thread) : (b.mapThreads m f).ser = b.ser := rfl
@[simp] theorem Bundle.mapThreads_launch (b : Bundle) (m : DWord) (f : Thread → Thread) : (b.mapThreads m f).launch = b.launch := rfl
@[simp] theorem Bundle.mapThreads_width (b : Bundle) (m : DWord) (f : Thread → Thread) : (b.mapThreads m f).width = b.width := rfl
@[simp] theorem Bundle.mapThreads_allot (b : Bundle) (m : DWord) (f : Thread → Thread) : (b.mapThreads m f).allot = b.allot := rfl
@[simp] theorem Bundle.mapThreads_dmax (b : Bundle) (m : DWord) (f : Thread → Thread) : (b.mapThreads m f).dmax = b.dmax := rfl
@[simp] theorem Bundle.mapThreads_prio (b : Bundle) (m : DWord) (f : Thread → Thread) : (b.mapThreads m f).prio = b.prio := rfl
@[simp] theorem Bundle.mapThreads_v (b : Bundle) (m : DWord) (f : Thread → Thread) : (b.mapThreads m f).v = b.v := rfl
@[simp] theorem Bundle.mapThreads_ix (b : Bundle) (m : DWord) (f : Thread → Thread) : (b.mapThreads m f).ix = b.ix := rfl
@[simp] theorem Bundle.mapThreads_s (b : Bundle) (m : DWord) (f : Thread → Thread) : (b.mapThreads m f).s = b.s := rfl
@[simp] theorem Bundle.mapThreads_m (b : Bundle) (m : DWord) (f : Thread → Thread) : (b.mapThreads m f).m = b.m := rfl
@[simp] theorem Bundle.mapThreads_wf (b : Bundle) (m : DWord) (f : Thread → Thread) : (b.mapThreads m f).wf = b.wf := rfl
@[simp] theorem Bundle.mapThreads_fam (b : Bundle) (m : DWord) (f : Thread → Thread) : (b.mapThreads m f).fam = b.fam := rfl
@[simp] theorem Bundle.mapThreads_active (b : Bundle) (m : DWord) (f : Thread → Thread) : (b.mapThreads m f).active = b.active := rfl
@[simp] theorem Bundle.mapThreads_status (b : Bundle) (m : DWord) (f : Thread → Thread) : (b.mapThreads m f).status = b.status := rfl
@[simp] theorem Bundle.mapThreads_trapReg (b : Bundle) (m : DWord) (f : Thread → Thread) : (b.mapThreads m f).trapReg = b.trapReg := rfl
@[simp] theorem Bundle.mapThreads_pend (b : Bundle) (m : DWord) (f : Thread → Thread) : (b.mapThreads m f).pend = b.pend := rfl
@[simp] theorem Bundle.mapThreads_hidden (b : Bundle) (m : DWord) (f : Thread → Thread) : (b.mapThreads m f).hidden = b.hidden := rfl
@[simp] theorem Bundle.mapThreads_blk (b : Bundle) (m : DWord) (f : Thread → Thread) : (b.mapThreads m f).blk = b.blk := rfl
@[simp] theorem Bundle.mapThreads_bno (b : Bundle) (m : DWord) (f : Thread → Thread) : (b.mapThreads m f).bno = b.bno := rfl
@[simp] theorem Bundle.mapThreads_nb (b : Bundle) (m : DWord) (f : Thread → Thread) : (b.mapThreads m f).nb = b.nb := rfl
@[simp] theorem Bundle.mapThreads_fw (b : Bundle) (m : DWord) (f : Thread → Thread) : (b.mapThreads m f).fw = b.fw := rfl
@[simp] theorem Bundle.mapThreads_stalled (b : Bundle) (m : DWord) (f : Thread → Thread) : (b.mapThreads m f).stalled = b.stalled := rfl
@[simp] theorem Bundle.mapThreads_held (b : Bundle) (m : DWord) (f : Thread → Thread) : (b.mapThreads m f).held = b.held := rfl
@[simp] theorem Bundle.mapThreads_rel (b : Bundle) (m : DWord) (f : Thread → Thread) : (b.mapThreads m f).rel = b.rel := rfl

@[simp] theorem Bundle.advance_ser (b : Bundle) (n : Nat) : (b.advance n).ser = b.ser := rfl
@[simp] theorem Bundle.advance_launch (b : Bundle) (n : Nat) : (b.advance n).launch = b.launch := rfl
@[simp] theorem Bundle.advance_width (b : Bundle) (n : Nat) : (b.advance n).width = b.width := rfl
@[simp] theorem Bundle.advance_allot (b : Bundle) (n : Nat) : (b.advance n).allot = b.allot := rfl
@[simp] theorem Bundle.advance_dmax (b : Bundle) (n : Nat) : (b.advance n).dmax = b.dmax := rfl
@[simp] theorem Bundle.advance_prio (b : Bundle) (n : Nat) : (b.advance n).prio = b.prio := rfl
@[simp] theorem Bundle.advance_v (b : Bundle) (n : Nat) : (b.advance n).v = b.v := rfl
@[simp] theorem Bundle.advance_ix (b : Bundle) (n : Nat) : (b.advance n).ix = b.ix := rfl
@[simp] theorem Bundle.advance_s (b : Bundle) (n : Nat) : (b.advance n).s = b.s := rfl
@[simp] theorem Bundle.advance_m (b : Bundle) (n : Nat) : (b.advance n).m = b.m := rfl
@[simp] theorem Bundle.advance_wf (b : Bundle) (n : Nat) : (b.advance n).wf = b.wf := rfl
@[simp] theorem Bundle.advance_fam (b : Bundle) (n : Nat) : (b.advance n).fam = b.fam := rfl
@[simp] theorem Bundle.advance_active (b : Bundle) (n : Nat) : (b.advance n).active = b.active := rfl
@[simp] theorem Bundle.advance_status (b : Bundle) (n : Nat) : (b.advance n).status = b.status := rfl
@[simp] theorem Bundle.advance_trapReg (b : Bundle) (n : Nat) : (b.advance n).trapReg = b.trapReg := rfl
@[simp] theorem Bundle.advance_pend (b : Bundle) (n : Nat) : (b.advance n).pend = b.pend := rfl
@[simp] theorem Bundle.advance_hidden (b : Bundle) (n : Nat) : (b.advance n).hidden = b.hidden := rfl
@[simp] theorem Bundle.advance_blk (b : Bundle) (n : Nat) : (b.advance n).blk = b.blk := rfl
@[simp] theorem Bundle.advance_bno (b : Bundle) (n : Nat) : (b.advance n).bno = b.bno := rfl
@[simp] theorem Bundle.advance_nb (b : Bundle) (n : Nat) : (b.advance n).nb = b.nb := rfl
@[simp] theorem Bundle.advance_fw (b : Bundle) (n : Nat) : (b.advance n).fw = b.fw := rfl
@[simp] theorem Bundle.advance_stalled (b : Bundle) (n : Nat) : (b.advance n).stalled = b.stalled := rfl
@[simp] theorem Bundle.advance_held (b : Bundle) (n : Nat) : (b.advance n).held = b.held := rfl
@[simp] theorem Bundle.advance_rel (b : Bundle) (n : Nat) : (b.advance n).rel = b.rel := rfl

/-! ### The register that was written, and the others -/

@[simp] theorem Bundle.sreg_setSreg (b : Bundle) (n : Nat) (x : DWord) : (b.setSreg n x).sreg n = x := by
  simp [Bundle.sreg, Bundle.setSreg, FMap.look_write]

theorem Bundle.sreg_setSreg_ne (b : Bundle) (n k : Nat) (x : DWord) (h : k ≠ n) : (b.setSreg n x).sreg k = b.sreg k := by
  simp [Bundle.sreg, Bundle.setSreg, FMap.look_write, h]

@[simp] theorem Bundle.flag_setFlag (b : Bundle) (k n : Nat) : (b.setFlag k n).flag k = n := by
  simp [Bundle.flag, Bundle.setFlag, FMap.look_write]

theorem Bundle.flag_setFlag_ne (b : Bundle) (k j n : Nat) (h : j ≠ k) : (b.setFlag k n).flag j = b.flag j := by
  simp [Bundle.flag, Bundle.setFlag, FMap.look_write, h]

@[simp] theorem Bundle.family_setFamily (b : Bundle) (k : Nat) (m : DWord) : (b.setFamily k m).family k = m := by
  simp [Bundle.family, Bundle.setFamily, FMap.look_write]

end Sys2Proof.Machine
end

