-- ==== Sys2Proof/Tests/Slice0.lean ====
section
/-! SUPPORT. Tests: words written out from the manual's encodings, ill-formed terms that are refused, small steps, and a
witness for each statement that has hypotheses. -/

namespace Sys2Proof.Tests

open Sys2Proof.Machine

/-! ### Decoding -/

/-- The fields of the words below: d = 11 at [19:15], a = 22 at [14:10], b = 13 at [9:5], ty = 2 at [4:3], I = 1 at [2],
U = 0 at [1], F = 1 at [0] (R87). -/
def e : Enc := { d := 11, a := 22, b := 13, ty := 2, i := true, f := true }

/-- Whether a word decodes to an instruction. -/
def wordGives (p : Nat × Instr) : Bool := decodeTableWord 32 p.1 == some p.2

/-- Words of class 1, with the op numbers of the op tables (R110 and its class's chapter). -/
theorem test_words_of_class_1_part_1 : (
  [(0x0405D9B5, Instr.add e), (0x0415D9B5, Instr.sub e), (0x0425D9B5, Instr.mul e), (0x0435D9B5, Instr.mulhi e),
   (0x0445D9B5, Instr.mad e), (0x0455D9B5, Instr.min e), (0x0465D9B5, Instr.max e), (0x0475D9B5, Instr.abs e),
   (0x0485D9B5, Instr.neg e), (0x0495D9B5, Instr.and e), (0x04A5D9B5, Instr.or e), (0x04B5D9B5, Instr.xor e),
   (0x04C5D9B5, Instr.andn e), (0x04D5D9B5, Instr.not e), (0x04E5D9B5, Instr.shl e), (0x04F5D9B5, Instr.shr e),
   (0x0505D9B5, Instr.sar e), (0x0515D9B5, Instr.rot e), (0x0525D9B5, Instr.clz e),
   (0x0535D9B5, Instr.popc e)] : List (Nat × Instr)).all wordGives = true := by decide

/-- Words of class 1, with the op numbers of the op tables (R110 and its class's chapter). -/
theorem test_words_of_class_1_part_2 : (
  [(0x0545D9B5, Instr.bfe e), (0x0555D9B5, Instr.bfi e), (0x0565D9B5, Instr.sel e), (0x0575D9B5, Instr.cmpEq e),
   (0x0585D9B5, Instr.cmpNe e), (0x0595D9B5, Instr.cmpLt e), (0x05A5D9B5, Instr.cmpLe e), (0x05B5D9B5, Instr.cmpGt e),
   (0x05C5D9B5, Instr.cmpGe e), (0x05D5D9B5, Instr.mov e), (0x05E5D9B5, Instr.movi e), (0x05F5D9B5, Instr.lea e),
   (0x0605D9B5, Instr.shfl e), (0x0615D9B5, Instr.shflUp e), (0x0625D9B5, Instr.shflDn e), (0x0635D9B5, Instr.shflX e),
   (0x0645D9B5, Instr.voteAny e), (0x0655D9B5, Instr.voteAll e), (0x0665D9B5, Instr.ballot e),
   (0x0675D9B5, Instr.matchOp e)] : List (Nat × Instr)).all wordGives = true := by decide

/-- Words of class 1, with the op numbers of the op tables (R110 and its class's chapter). -/
theorem test_words_of_class_1_part_3 : (
  [(0x0685D9B5, Instr.elect e), (0x0695D9B5, Instr.reduxAdd e), (0x06A5D9B5, Instr.reduxMin e),
   (0x06B5D9B5, Instr.reduxMax e), (0x06C5D9B5, Instr.reduxAnd e), (0x06D5D9B5, Instr.reduxOr e),
   (0x06E5D9B5, Instr.scanAdd e), (0x06F5D9B5, Instr.scanXadd e), (0x0705D9B5, Instr.movr e), (0x0715D9B5, Instr.movw e),
   (0x0725D9B5, Instr.ixset e), (0x0735D9B5, Instr.tidx e), (0x0745D9B5, Instr.bcast e),
   (0x0755D9B5, Instr.pick e)] : List (Nat × Instr)).all wordGives = true := by decide

/-- Words of class 2, with the op numbers of the op tables (R110 and its class's chapter). -/
theorem test_words_of_class_2_part_1 : (
  [(0x0805D9B5, Instr.fadd e), (0x0815D9B5, Instr.fsub e), (0x0825D9B5, Instr.fmul e), (0x0835D9B5, Instr.fma e),
   (0x0845D9B5, Instr.fmin e), (0x0855D9B5, Instr.fmax e), (0x0865D9B5, Instr.fabs e), (0x0875D9B5, Instr.fneg e),
   (0x0885D9B5, Instr.fcmpEq e), (0x0895D9B5, Instr.fcmpNe e), (0x08A5D9B5, Instr.fcmpLt e),
   (0x08B5D9B5, Instr.fcmpLe e), (0x08C5D9B5, Instr.fcmpUn e), (0x08D5D9B5, Instr.fclass e),
   (0x08E5D9B5, Instr.fscale e), (0x08F5D9B5, Instr.frnd e), (0x0905D9B5, Instr.fdot2 e),
   (0x0915D9B5, Instr.freduxAdd e), (0x0925D9B5, Instr.freduxMax e),
   (0x0935D9B5, Instr.fscanAdd e)] : List (Nat × Instr)).all wordGives = true := by decide

/-- Words of class 2, with the op numbers of the op tables (R110 and its class's chapter). -/
theorem test_words_of_class_2_part_2 : (
  [(0x0945D9B5, Instr.fcopysign e)] : List (Nat × Instr)).all wordGives = true := by decide

/-- Words of class 3, with the op numbers of the op tables (R110 and its class's chapter). -/
theorem test_words_of_class_3 : (
  [(0x0C05D9B5, Instr.rcp e), (0x0C15D9B5, Instr.rsq e), (0x0C25D9B5, Instr.sqrt e), (0x0C35D9B5, Instr.exp2 e),
   (0x0C45D9B5, Instr.log2 e), (0x0C55D9B5, Instr.sin e), (0x0C65D9B5, Instr.cos e), (0x0C75D9B5, Instr.tanh e),
   (0x0C85D9B5, Instr.erf e), (0x0C95D9B5, Instr.cvt e), (0x0CA5D9B5, Instr.qnt e), (0x0CB5D9B5, Instr.dqnt e),
   (0x0CC5D9B5, Instr.pack e), (0x0CD5D9B5, Instr.unpack e)] : List (Nat × Instr)).all wordGives = true := by decide

/-- Words of class 4, with the op numbers of the op tables (R110 and its class's chapter). -/
theorem test_words_of_class_4 : (
  [(0x1005D9B5, Instr.jmp e), (0x1015D9B5, Instr.br e), (0x1025D9B5, Instr.bru e), (0x1035D9B5, Instr.brx e),
   (0x1045D9B5, Instr.call e), (0x1055D9B5, Instr.callx e), (0x1065D9B5, Instr.ret e), (0x1075D9B5, Instr.rejoin e),
   (0x1085D9B5, Instr.exit e), (0x1095D9B5, Instr.kill e), (0x10A5D9B5, Instr.loop e), (0x10B5D9B5, Instr.trap e),
   (0x10C5D9B5, Instr.tret e), (0x10D5D9B5, Instr.yield e), (0x10E5D9B5, Instr.sleep e), (0x10F5D9B5, Instr.nop e),
   (0x1105D9B5, Instr.halt e)] : List (Nat × Instr)).all wordGives = true := by decide

/-- Words of class 5, with the op numbers of the op tables (R110 and its class's chapter). -/
theorem test_words_of_class_5 : (
  [(0x1405D9B5, Instr.ldL e), (0x1415D9B5, Instr.stL e), (0x1425D9B5, Instr.ldbL e), (0x1435D9B5, Instr.stbL e),
   (0x1445D9B5, Instr.tagClr e), (0x1455D9B5, Instr.tagSet e), (0x1465D9B5, Instr.tagWc e), (0x1475D9B5, Instr.plane e),
   (0x1485D9B5, Instr.unplane e), (0x1495D9B5, Instr.zeroL e)] : List (Nat × Instr)).all wordGives = true := by decide

/-- Words of class 6, with the op numbers of the op tables (R110 and its class's chapter). -/
theorem test_words_of_class_6 : (
  [(0x1805D9B5, Instr.ldG e), (0x1815D9B5, Instr.stG e), (0x1825D9B5, Instr.ldbG e), (0x1835D9B5, Instr.stbG e),
   (0x1845D9B5, Instr.prfG e), (0x1855D9B5, Instr.ldR e), (0x1865D9B5, Instr.stR e), (0x1875D9B5, Instr.ldAcq e),
   (0x1885D9B5, Instr.stRel e)] : List (Nat × Instr)).all wordGives = true := by decide

/-- Words of class 7, with the op numbers of the op tables (R110 and its class's chapter). -/
theorem test_words_of_class_7 : (
  [(0x1C05D9B5, Instr.atomAdd e), (0x1C15D9B5, Instr.atomMin e), (0x1C25D9B5, Instr.atomMax e),
   (0x1C35D9B5, Instr.atomAnd e), (0x1C45D9B5, Instr.atomOr e), (0x1C55D9B5, Instr.atomXor e),
   (0x1C65D9B5, Instr.atomXchg e), (0x1C75D9B5, Instr.atomCas e), (0x1C85D9B5, Instr.redAdd e),
   (0x1C95D9B5, Instr.redMin e), (0x1CA5D9B5, Instr.redMax e), (0x1CB5D9B5, Instr.redX96 e), (0x1CC5D9B5, Instr.x96Ld e),
   (0x1CD5D9B5, Instr.x96Init e), (0x1CE5D9B5, Instr.cellArm e), (0x1CF5D9B5, Instr.cellProp e),
   (0x1D05D9B5, Instr.cellLd e), (0x1D15D9B5, Instr.cellReset e),
   (0x1D25D9B5, Instr.cellFlush e)] : List (Nat × Instr)).all wordGives = true := by decide

/-- Words of class 8, with the op numbers of the op tables (R110 and its class's chapter). -/
theorem test_words_of_class_8 : (
  [(0x2005D9B5, Instr.barArv e), (0x2015D9B5, Instr.barWait e), (0x2025D9B5, Instr.barSync e),
   (0x2035D9B5, Instr.barBind e), (0x2045D9B5, Instr.setNew e), (0x2055D9B5, Instr.setJoin e),
   (0x2065D9B5, Instr.setLeave e), (0x2075D9B5, Instr.setFree e), (0x2085D9B5, Instr.fence e),
   (0x2095D9B5, Instr.opfence e), (0x20A5D9B5, Instr.waitf e), (0x20B5D9B5, Instr.acqRemote e),
   (0x20C5D9B5, Instr.scopeof e), (0x20D5D9B5, Instr.barPoll e)] : List (Nat × Instr)).all wordGives = true := by decide

/-- Words of class 9, with the op numbers of the op tables (R110 and its class's chapter). -/
theorem test_words_of_class_9 : (
  [(0x2405D9B5, Instr.mxLoop e), (0x2415D9B5, Instr.mxLoops e), (0x2425D9B5, Instr.mxZero e),
   (0x2435D9B5, Instr.mxWin e), (0x2445D9B5, Instr.mxRead e), (0x2455D9B5, Instr.mxStore e),
   (0x2465D9B5, Instr.mxLoad e), (0x2475D9B5, Instr.mxStat e),
   (0x2485D9B5, Instr.mxMove e)] : List (Nat × Instr)).all wordGives = true := by decide

/-- Words of class 10, with the op numbers of the op tables (R110 and its class's chapter). -/
theorem test_words_of_class_10 : (
  [(0x2805D9B5, Instr.sigCfg e), (0x2815D9B5, Instr.sigOne e), (0x2835D9B5, Instr.sigJoin e),
   (0x2845D9B5, Instr.sigJoinl e), (0x2855D9B5, Instr.sigLog e), (0x2865D9B5, Instr.sigRead e),
   (0x2875D9B5, Instr.sigStat e)] : List (Nat × Instr)).all wordGives = true := by decide

/-- Words of class 11, with the op numbers of the op tables (R110 and its class's chapter). -/
theorem test_words_of_class_11 : (
  [(0x2C05D9B5, Instr.xfPut e), (0x2C15D9B5, Instr.xfGet e), (0x2C25D9B5, Instr.xfCpy e), (0x2C35D9B5, Instr.xfDrain e),
   (0x2C45D9B5, Instr.ctrSet e), (0x2C55D9B5, Instr.ctrAdd e), (0x2C65D9B5, Instr.ctrArm e),
   (0x2C75D9B5, Instr.ctrWait e), (0x2C85D9B5, Instr.collPost e), (0x2C95D9B5, Instr.fetchwk e),
   (0x2CA5D9B5, Instr.xqPush e), (0x2CB5D9B5, Instr.xqTake e)] : List (Nat × Instr)).all wordGives = true := by decide

/-- Words of class 12, with the op numbers of the op tables (R110 and its class's chapter). -/
theorem test_words_of_class_12 : (
  [(0x3005D9B5, Instr.mfs e), (0x3015D9B5, Instr.mts e), (0x3025D9B5, Instr.tidWr e), (0x3035D9B5, Instr.tidRd e),
   (0x3045D9B5, Instr.clk e), (0x3055D9B5, Instr.snap e), (0x3065D9B5, Instr.shEvict e), (0x3075D9B5, Instr.shTouch e),
   (0x3085D9B5, Instr.pgInval e), (0x3095D9B5, Instr.ctxDrain e), (0x30A5D9B5, Instr.ctxSvb e),
   (0x30B5D9B5, Instr.ctxLdb e), (0x30C5D9B5, Instr.ctxSvd e), (0x30D5D9B5, Instr.ctxLdd e),
   (0x30E5D9B5, Instr.ctxSvx e), (0x30F5D9B5, Instr.ctxLdx e), (0x3105D9B5, Instr.leaseCas e),
   (0x3115D9B5, Instr.measure e), (0x3125D9B5, Instr.wfe e)] : List (Nat × Instr)).all wordGives = true := by decide

/-- A clause header with WAIT 0xABC, SETA 5, SETB 9 and LEN 42 (R104). -/
theorem test_header_decodes : decodeTableWord 32 0x02AF166A = some (.clauseHeader 0xABC 5 9 42) := by decide

/-- A prefixed unit: MSK 5, Z, RND 3, c 0xA5, and dx 1, ax 2, bx 3 before d 11, a 22, b 13 (R88, R90). -/
theorem test_prefixed_decodes : decodeWords [0x76DD2B60, 0x0835D9A8] = .ok (.fma
    { form := .prefixed, d := 43, a := 86, b := 109, c := 0xA5, ty := 1, msk := 5, z := true, rnd := 3 }, 2) := by decide

/-- An extended unit: dh 5, ah 6, bh 7, c 0xC3, MSK 6, Z, RND 4, BH 2, BW 3, ISEL 3, and word 2 (R89, R91). -/
theorem test_extended_decodes : decodeWords [0x9815D9BB, 0xBBE1EC4F, 0x12345678] = .ok (.stG
    { form := .extended, d := 171, a := 214, b := 237, c := 0xC3, ty := 3, u := true, f := true, msk := 6, z := true,
      rnd := 4, bh := 2, bw := 3, isel := 3, w2 := 0x12345678 }, 3) := by decide

/-- A unit with a literal: words 3 and 4 are its low and its high half (R92). -/
theorem test_literal_decodes : decodeWords [0xC405D9B0, 0, 0, 0x11223344, 0x55667788] = .ok (.add
    { form := .literal, d := 11, a := 22, b := 13, ty := 2, lit := 0x5566778811223344 }, 5) := by decide

/-- Extended units of class 4 with an offset of -2 words, or a code of 200, in word 2 (R91, R193). -/
theorem test_extended_control :
    decodeWords [0x90000002, 0, 0xFFFFFE00] = .ok (.jmp { form := .extended, u := true, w2 := 0xFFFFFE00 }, 3) ∧
    (decodeWords [0x90B00002, 0, 0x000000C8]).toOption = some (.trap { form := .extended, u := true, w2 := 0xC8 }, 3) ∧
    ([Instr.jmp { form := .extended, u := true, w2 := 0xFFFFFE00 }, .trap { form := .extended, u := true, w2 := 0xC8 },
      .sleep { form := .extended, u := true, w2 := 0xC8 }, .exit { form := .extended, w2 := 0 }].all Instr.wellFormed) = true ∧
    ([Instr.jmp { form := .extended, u := true, w2 := 0xFFFFFE01 }, .trap { form := .extended, u := true, w2 := 0x1C8 },
      .exit { form := .extended, w2 := 1 }].all (fun i => !i.wellFormed)) = true := by decide

/-- An extended `movi` with I = 0 has no register b that ISEL could make indirect (R100). -/
theorem test_movi_indirect :
    (Instr.movi { form := .extended, isel := 2, w2 := 0x100 }).wellFormed = false ∧ (Instr.movi { form := .extended, isel := 3, w2 := 0x100 }).wellFormed = true := by
  decide

/-- Class 13 with L = 00, class 14, class 15, a prefix before a prefix and an op without an entry are refused (R111, R112). -/
theorem test_reserved_words :
    decodeTableWord 32 0x34000000 = none ∧ decodeTableWord 32 0x38000000 = none ∧ decodeTableWord 32 0x3C000000 = none ∧
    decodeWords [0x74000000, 0x74000000] = .error .shape ∧ decodeWords [0x07F00000] = .error .unassigned := by decide

/-! ### Ill-formed terms -/

/-- Which of the checks of a unit refuse it, by number. -/
def refusing (i : Instr) : List Nat :=
  match i.parts with
  | none => []
  | some (r, x) => ([x.shapeOk, x.pre == 0, r.tyOk x, r.formOk x, r.fieldsOk x, r.modsOk x, r.immOk x, r.w2Ok x, r.ctlOk x,
      r.handleOk x, r.srOk x, r.d.m0Ok x, r.pairsOk x].zipIdx.filter (fun p => !p.1)).map Prod.snd

/-- One term for each check that this check alone refuses: a register number that a base form cannot hold; a prefix with
reserved bits; a type that `fadd` has not; a base form of a conversion; a b field without a role; rounding 7; an immediate
of `abs`; a word 2 of `add`; an extended jump with a in use; a barrier handle beside word 2; a special register that does
not exist; a compare into m0; an odd pair. -/
theorem test_each_check_refuses :
    [Instr.add { d := 40 }, .add { form := .prefixed, pre := 1 }, .fadd { ty := 3 }, .cvt {}, .abs { b := 1 },
     .fadd { form := .prefixed, rnd := 7 }, .abs { i := true }, .add { form := .extended, w2 := 1 },
     .jmp { form := .extended, a := 1, u := true }, .barArv { form := .extended, a := 1 }, .mfs { a := 5 }, .cmpEq {},
     .add { d := 1, ty := 2 }].map refusing = [[0], [1], [2], [3], [4], [5], [6], [7], [8], [9], [10], [11], [12]] := by decide

/-- What one of the checks refuses is ill-formed, and the nearest term that none refuses is well formed. -/
theorem test_ill_formed :
    ([Instr.add { d := 40 }, .fadd { ty := 3 }, .cvt {}, .cmpEq {}, .add { d := 1, ty := 2 }].all (fun i => !i.wellFormed)) = true ∧
    ([Instr.add { d := 31 }, .fadd { ty := 2 }, .cvt { form := .extended }, .cmpEq { d := 1 }, .add { d := 2, ty := 2 }].all
      Instr.wellFormed) = true := by decide

/-- Clause headers with LEN 0, SETA 12 and SETB 14 are ill-formed, with 15, 11 and 63 they are not (R104). -/
theorem test_header_checks :
    (Instr.clauseHeader 0 0 0 0).wellFormed = false ∧ (Instr.clauseHeader 0 12 0 1).wellFormed = false ∧
    (Instr.clauseHeader 0 0 14 1).wellFormed = false ∧ (Instr.clauseHeader 0 15 11 63).wellFormed = true := by decide

/-! ### A small state -/

/-- A thread at word 1 of a clause whose units set flag 3 or, with F, flag 5. -/
def th : Thread := { cond := .running, pc := 1, clo := 1, hdr := headerWord 0 3 5 63 }

/-- A bundle of width 4 with two running threads, both on the path. -/
def tb : Bundle := { ser := 1, launch := 1, width := 4, allot := 64, dmax := 2, prio := 1, thr := [(0, th), (1, th)], active := 3 }

/-- A state in which that bundle, of lane 0 of core 0 of context 0, issues. -/
def ts : State :=
  { nextId := 5, nextSer := 2, issuing := some 0, bundles := [(0, tb)], launches := [(1, {})],
    ctxs := [(0, { running := true, active := 1 })], parts := [(0, { layers := 1, cur := some 0 })] }

/-- The same with another bundle. -/
def tsb (b : Bundle) : State := { ts with bundles := [(0, b)] }

/-- A firmware core that issues. -/
def fwKey0 : Nat := fwKey 0 0

/-- Its bundle. -/
def fb : Bundle := { fwBundle 1 0 with thr := [(0, th)] }

/-- The state of that core. -/
def fs : State := { nextId := 5, nextSer := 2, issuing := some fwKey0, bundles := [(fwKey0, fb)] }

/-- `Passes` as a computed test. -/
def passing (s : State) (bk : Nat) (i : Instr) (x : Enc) : Bool :=
  s.issuing == some bk && ((s.bundle bk).regFault (rowOf i) x).isNone

/-- `MayHandOff` as a computed test. -/
def handing (s : State) (bk : Nat) (i : Instr) (x : Enc) : Bool :=
  passing s bk i x && !(s.bundle bk).flagFull ((s.bundle bk).flagFor x) && !s.fenced (s.bundle bk) (rowOf i).cls (rowOf i).op

theorem passes_of {s : State} {bk : Nat} {i : Instr} {x : Enc} (h : passing s bk i x = true) : Passes s bk (rowOf i) x := by
  simpa [passing, Passes, Option.isNone_iff_eq_none] using h

theorem mayHandOff_of {s : State} {bk : Nat} {i : Instr} {x : Enc} (h : handing s bk i x = true) :
    MayHandOff s bk (rowOf i) x := by
  simp only [handing, Bool.and_eq_true, Bool.not_eq_true'] at h
  refine ⟨passes_of h.1.1, fun k hk => ?_, h.2⟩
  have := h.1.2
  simp only [hk, Bundle.flagFull, decide_eq_false_iff_not] at this
  omega

theorem numbered_of_none {s : State} (h : s.ops = []) : s.numbered := by simp [State.numbered, h]

/-! ### Witnesses: encoding and the step -/

theorem test_witness_encoded_instruction : (Instr.add {}).wellFormed = true ∧ isEvent (.add {}) = false := by decide

theorem test_witness_decoded_words : decodeWords [0x04000000] = .ok (.add {}, 1) := by decide

theorem test_witness_reserved_shapes :
    (fld (0x38000000 : Word).toNat 26 4 = 14 ∧ fld (0x3C000000 : Word).toNat 26 4 = 15) ∧
    (fld (0x34000000 : Word).toNat 26 4 = 13 ∧ fld (0x34000000 : Word).toNat 30 2 ≠ 1) ∧
    (fld (0x44000000 : Word).toNat 30 2 = 1 ∧ fld (0x44000000 : Word).toNat 26 4 ≠ 13) ∧
    (fld (0x74000000 : Word).toNat 30 2 = 1 ∧ fld (0x80000000 : Word).toNat 30 2 ≠ 0 ∧ fld (0 : Word).toNat 26 4 = 0 ∧
      13 ≤ fld (0x34000000 : Word).toNat 26 4) ∧
    (2 ≤ fld (0x80000000 : Word).toNat 30 2 ∧ fld (0x80000000 : Word).toNat 26 4 = 0) ∧
    (fld (0x07F00000 : Word).toNat 30 2 = 0 ∧ 1 ≤ fld (0x07F00000 : Word).toNat 26 4 ∧ fld (0x07F00000 : Word).toNat 26 4 ≤ 12 ∧
      ∀ x, instrOfOp (fld (0x07F00000 : Word).toNat 26 4) (fld (0x07F00000 : Word).toNat 20 6) x = none) := by
  refine ⟨by decide, by decide, by decide, by decide, by decide, by decide, by decide, by decide, fun x => rfl⟩

/-- What step meets at a stored `add` and a stored clause header: the hypotheses of `StepRunsDecodedUnit`. -/
theorem test_witness_step_runs_unit :
    (∃ s s' : State, s.duePeriod = none ∧ s.issuing = some 0 ∧ (s.bundle 0).arrived = 0 ∧
      s.fetchUnit 0 (s.bundle 0).pc 1 = .words [0x04000000] s' ∧ unitWords (0x04000000 : Word).toNat = 1 ∧
      decodeWords [0x04000000] = .ok (.add {}, 1) ∧ (Instr.add {}).wellFormed = true ∧ isFw 0 = false ∧
      ((s.bundle 0).thread (s.bundle 0).lead).clo = 1 ∧ 1 + 1 ≤ clauseSpan ((s.bundle 0).thread (s.bundle 0).lead).hdr) ∧
    (∃ s s' : State, s.duePeriod = none ∧ s.issuing = some 0 ∧ (s.bundle 0).arrived = 0 ∧
      s.fetchUnit 0 (s.bundle 0).pc 1 = .words [0x0000BFC1] s' ∧ decodeWords [0x0000BFC1] = .ok (.clauseHeader 2 15 15 1, 1) ∧
      ((s.bundle 0).thread (s.bundle 0).lead).clo = 0) := by
  refine ⟨⟨State.reset.withFetchWord 32 0x04000000, _, by decide, by decide, by decide, rfl, by decide, by decide, by decide,
    by decide, by decide, by decide⟩, ⟨State.reset.withFetchWord 32 0x0000BFC1, _, by decide, by decide, by decide, rfl,
    by decide, by decide⟩⟩

/-! ### Worked examples of the manual -/

/-- Chapter 6, "writes to e4m3 and e5m2": 500, -0.001 (taken as -1/1000) in two modes, NaN, infinity. -/
theorem test_narrow_writes :
    (fmtOfWord 0x20739).write 1 (.fin false 500 0) 1 = (0x7F, stNSAT) ∧
    (fmtOfWord 0x20739).write 1 (.fin true 1 0) 1000 = (0x81, 0) ∧ (fmtOfWord 0x20739).write 2 (.fin true 1 0) 1000 = (0x00, 0) ∧
    (fmtOfWord 0x20739).write 1 .nan 1 = (0x80, 0) ∧ (fmtOfWord 0x10F2B).write 1 (.inf false) 1 = (0x7B, stNSAT) ∧
    (fmtOfWord 0x10F2B).write 1 .nan 1 = (0x7E, 0) ∧ (fmtOfWord 0x0115).write 1 .nan 1 = (0, stNNAN) ∧
    eqVal ((fmtOfWord 0x10F2B).read 0x7C) (.fin false 57344 0) = true := by decide

/-- Chapter 6, the alias table: largest finite and least positive values. -/
theorem test_narrow_bounds :
    [(0x20739, 480, 0), (0x10F2B, 57344, 0), (0x0115, 6, 0), (0x0327, 28, 0), (0x0135, 15, -1), (0x0071, 127, 0), (0x0080, 255, 0), (0x0031, 7, 0),
      (0x0040, 15, 0), (0x0011, 1, 0)].all (fun (p : Nat × Nat × Int) => eqVal (fmtOfWord p.1).largest (.fin false p.2.1 p.2.2)) = true ∧
    [(0x20739, 1, -9), (0x10F2B, 1, -16), (0x0115, 1, -1), (0x0327, 1, -4), (0x0135, 1, -3)].all
      (fun (p : Nat × Nat × Int) => eqVal ((fmtOfWord p.1).read 1) (.fin false p.2.1 p.2.2)) = true := by decide

/-- Chapter 6, "four contributions at L = -24", and Chapter 5's `.x96 0.75, -24`. -/
theorem test_x96_contributions :
    (((({ l := -24 } : Slot).add (.fin false 1 0)).add (.fin true 3 (-2))).add (.fin true 3 (-25)) |>.add (.fin false 1 (-30))).bytes =
      [0xFF, 0xFF, 0x3F, 0, 0, 0, 0, 0, 0, 0, 0, 0, 0xE8, 0xFF, 0x02, 0] ∧
    (({ l := -24 } : Slot).add (.fin false 3 (-2))).bytes = [0, 0, 0xC0, 0, 0, 0, 0, 0, 0, 0, 0, 0, 0xE8, 0xFF, 0, 0] := by decide

/-- Chapter 8: `frnd` of 2.5 (.rn) and of -2.5 (.ra), and the steps of "one order, one result". -/
theorem test_float_examples :
    fmtF32.integralCode 1 0x40200000 = 0x40000000 ∧ fmtF32.integralCode 5 0xC0200000 = 0xC0400000 ∧
    fmtF32.addCode 1 0x4B800000 0x3F800000 = (0x4B800000, stFINX) ∧ fmtF32.addCode 1 0x4B800000 0xCB800000 = (0, 0) := by decide

/-- Chapter 8: `tanh` of 10, whose result rounds to the boundary in .rn and to 1 - 2^-24 in .rz, and exact results. -/
theorem test_special_examples :
    sfu 7 1 0x41200000 = (0x3F800000, stFINX) ∧ sfu 7 2 0x41200000 = (0x3F7FFFFF, stFINX) ∧ sfu 4 1 0x3F800000 = (0, 0) ∧
    sfu 0 1 0x40800000 = (0x3E800000, 0) ∧ sfu 1 1 0x80000000 = (0xFF800000, stFDZ) ∧ sfu 2 1 0x41100000 = (0x40400000, 0) := by decide +kernel

/-- Chapter 8, "four weights into e4m3": the inputs 0.3, -1.7 and 2.5 as f32, the scale word, the codes, and the scale
under a mask that leaves out 2.5. -/
theorem test_scale_choice :
    chooseScale (fmtOfWord 0x60739) 1 (fmtF32.decode 0x40200000) = 0x7760 ∧ chooseScale (fmtOfWord 0x60739) 1 (fmtF32.decode 0x3FD9999A) = 0x76E0 ∧
    [0x3E99999A, 0xBFD9999A, 0x40200000, 0].map (fun (c : Nat) => writeScaled (fmtOfWord 0x60739) 1 (fmtF32.decode c) (scaleVal 0x7760)) =
      [(0x66, 0), (0xFA, 0), (0x7F, 0), (0, 0)] := by decide +kernel

/-- Chapter 13, "one cell, one step": the slot of the cell. -/
theorem test_one_cell :
    cellStep false { l := -4 } ([0x38, 0x9A, 0x01, 0x30].map (fun (c : Nat) => (true, (fmtOfWord 0x20739).read c)))
      ([0x3, 0x5, 0x1, 0xF].map (fun (c : Nat) => (true, timesScale ((fmtOfWord 0x0115).read c) (scaleVal 0x8080)))) =
      { n := -83, l := -4, inx := true } := by decide

/-- Chapter 7, "one digit vector through the cross-lane instructions": threads 0 to 7 active, the digits in v2. -/
def digits : State :=
  tsb { tb with width := 16, active := 0xFF, thr := (List.range 8).map (fun t => (t, th)),
                v := [3, 1, 3, 7, 1, 3, 0, 7].zipIdx.map (fun (p : Nat × Nat) => (64 * 2 + p.2, BitVec.ofNat 32 p.1)) }

/-- The value that an instruction will write to register n of thread t. -/
def willWrite (i : Instr) (s : State) (t n : Nat) : Option Word :=
  match exec i s with
  | .next s' => s'.ops.findSome? (fun o => o.ws.findSome? (fun w => if w.t = t then w.ws.findSome? (fun r => match r with
      | .v k x => if k = n then some x else none
      | _ => none) else none))
  | _ => none

theorem test_cross_lane_example :
    (List.range 8).map (willWrite (.matchOp { d := 6, a := 2, ty := 1 }) digits · 6) = [0x25, 0x12, 0x25, 0x88, 0x12, 0x25, 0x40, 0x88].map some ∧
    (List.range 8).map (willWrite (.scanXadd { d := 4, a := 2, ty := 1 }) digits · 4) = [0, 3, 4, 7, 14, 15, 18, 18].map some ∧
    willWrite (.ballot { d := 8, a := 2 }) digits 5 8 = some 0xBF ∧ willWrite (.reduxAdd { d := 5, a := 2, ty := 1 }) digits 5 5 = some 25 ∧
    (List.range 8).map (willWrite (.shflDn { d := 10, a := 2, b := 1, ty := 1, i := true }) digits · 10) = [1, 3, 7, 1, 3, 0, 7, 7].map some := by
  decide +kernel

/-- The low and high word of thread 0's v3 after an instruction of one step, b (64) = 0x1_FFFF_FFFF in v4 and v5. -/
def wrote (i : Instr) (n : Nat) : Option Word :=
  match exec i (tsb { tb with v := [(64 * 4, 0xFFFFFFFF), (64 * 5, 1), (64 * 6, 0x80000000), (64 * 7, 7)] }) with
  | .next s => some ((s.bundle 0).vreg 0 n)
  | _ => none

/-- R162 and R163 by hand: a 64-bit add carries into the upper word, -2^31 stays, an amount of 32 or more empties the
register and `sar` fills it with the sign. -/
theorem test_integer_cases :
    wrote (.add { d := 2, a := 4, b := 4, ty := 3 }) 2 = some 0xFFFFFFFE ∧ wrote (.add { d := 2, a := 4, b := 4, ty := 3 }) 3 = some 3 ∧
    wrote (.abs { d := 3, a := 6 }) 3 = some 0x80000000 ∧ wrote (.shl { d := 3, a := 4, b := 31, i := true }) 3 = some 0 ∧
    wrote (.sar { d := 3, a := 6, b := 4 }) 3 = some 0xFFFFFFFF := by decide +kernel

/-- The state with an instruction stored, and its thread's clause cut to one word. -/
def cut : State := State.reset.withFetchWord 32 0x74000000

/-- A header with LEN 0, a word of class 14 and a compare into m0 inside a clause, and a prefixed unit that leaves its
clause: the hypotheses of `StepTrapsIllegalUnit`. -/
theorem test_witness_step_traps :
    (∃ s s' : State, s.duePeriod = none ∧ s.issuing = some 0 ∧ (s.bundle 0).arrived = 0 ∧
      s.fetchUnit 0 (s.bundle 0).pc 1 = .words [0] s' ∧ ((s.bundle 0).thread (s.bundle 0).lead).clo = 0 ∧
      decodeWords [0] = .ok (.clauseHeader 0 0 0 0, 1) ∧ headerOk 0 0 0 = false) ∧
    (∃ s s' : State, s.duePeriod = none ∧ s.issuing = some 0 ∧ (s.bundle 0).arrived = 0 ∧
      s.fetchUnit 0 (s.bundle 0).pc 1 = .words [0x38000000] s' ∧ unitWords (0x38000000 : Word).toNat = 1 ∧
      ((s.bundle 0).thread (s.bundle 0).lead).clo = 1 ∧ 1 + 1 ≤ clauseSpan ((s.bundle 0).thread (s.bundle 0).lead).hdr ∧
      decodeWords [0x38000000] = .error .shape) ∧
    (∃ s s' : State, s.duePeriod = none ∧ s.issuing = some 0 ∧ (s.bundle 0).arrived = 0 ∧
      s.fetchUnit 0 (s.bundle 0).pc 1 = .words [0x05700000] s' ∧ decodeWords [0x05700000] = .ok (.cmpEq {}, 1) ∧
      (Instr.cmpEq {}).wellFormed = false) ∧
    (∃ s s' : State, s.duePeriod = none ∧ s.issuing = some 0 ∧ (s.bundle 0).arrived = 0 ∧
      s.fetchUnit 0 (s.bundle 0).pc 1 = .words [0x74000000] s' ∧ ((s.bundle 0).thread (s.bundle 0).lead).clo ≠ 0 ∧
      clauseSpan ((s.bundle 0).thread (s.bundle 0).lead).hdr <
        ((s.bundle 0).thread (s.bundle 0).lead).clo + unitWords (0x74000000 : Word).toNat) := by
  refine ⟨⟨State.reset.withFetchWord 32 0, _, by decide, by decide, by decide, rfl, by decide, by decide, by decide⟩,
    ⟨State.reset.withFetchWord 32 0x38000000, _, by decide, by decide, by decide, rfl, by decide, by decide, by decide, by decide⟩,
    ⟨State.reset.withFetchWord 32 0x05700000, _, by decide, by decide, by decide, rfl, by decide, by decide⟩,
    ⟨cut.setBundle 0 { cut.bundle 0 with thr := [(0, { (cut.bundle 0).thread 0 with hdr := 1 })] }, _, by decide, by decide,
      by decide, rfl, by decide, by decide⟩⟩

/-! ### Witnesses: control -/

theorem all_pass {s : State} {bk : Nat} {x : Enc} {l : List Instr} {p : Instr → Bool}
    (h : l.all (fun i => i.parts == some (rowOf i, x) && p i && passing s bk i x) = true) :
    ∀ i, i ∈ l → i.parts = some (rowOf i, x) ∧ p i = true ∧ Passes s bk (rowOf i) x := by
  intro i hi
  have := List.all_eq_true.1 h i hi
  simp only [Bool.and_eq_true, beq_iff_eq] at this
  exact ⟨this.1.1, this.1.2, passes_of this.2⟩

theorem all_hand {s : State} {bk : Nat} {x : Enc} {l : List Instr} {p : Instr → Bool}
    (h : l.all (fun i => i.parts == some (rowOf i, x) && p i && handing s bk i x) = true) :
    ∀ i, i ∈ l → i.parts = some (rowOf i, x) ∧ p i = true ∧ MayHandOff s bk (rowOf i) x := by
  intro i hi
  have := List.all_eq_true.1 h i hi
  simp only [Bool.and_eq_true, beq_iff_eq] at this
  exact ⟨this.1.1, this.1.2, mayHandOff_of this.2⟩

/-- Fields of a vector form, of a U form, and of either with d 1. -/
def xv : Enc := {}
def xu : Enc := { u := true }
def xd : Enc := { d := 1 }
def xdu : Enc := { d := 1, u := true }

theorem test_witness_transfers : ∀ i, i ∈ [Instr.jmp xu, .bru xu, .call xu, .ret xu, .loop xu] →
    i.parts = some (rowOf i, xu) ∧ isTransfer i = true ∧ Passes ts 0 (rowOf i) xu := all_pass (by decide)

theorem test_witness_transfers_of_threads : ∀ i, i ∈ [Instr.br xv, .brx xv, .call xv, .callx xv, .ret xv] →
    i.parts = some (rowOf i, xv) ∧ isTransfer i = true ∧ Passes ts 0 (rowOf i) xv := all_pass (by decide)

/-- Threads whose depth is the bundle's limit, and threads below it. -/
def full : Bundle := { tb with thr := [(0, { th with depth := 2 }), (1, { th with depth := 1 })] }

theorem test_witness_rejoin :
    (Passes (tsb full) 0 (rowOf (.rejoin xv)) xv ∧ hasBit (((tsb full).bundle 0).executing xv) 0 = true ∧
      (((tsb full).bundle 0).thread 0).depth = ((tsb full).bundle 0).dmax) ∧
    (Passes ts 0 (rowOf (.rejoin xv)) xv ∧
      ∀ t, t < 64 → hasBit ((ts.bundle 0).executing xv) t = true → ((ts.bundle 0).thread t).depth ≠ (ts.bundle 0).dmax) :=
  ⟨⟨passes_of (by decide), by decide, by decide⟩, passes_of (by decide), by decide⟩

theorem test_witness_exit_and_kill :
    (Passes ts 0 (rowOf (.exit xv)) xv ∧ (ts.bundle 0).fw = none) ∧ (Passes ts 0 (rowOf (.kill xd)) xd ∧ (ts.bundle 0).fw = none) :=
  ⟨⟨passes_of (by decide), by decide⟩, passes_of (by decide), by decide⟩

theorem test_witness_waits_and_headers :
    (Passes ts 0 (rowOf (.nop xv)) xv ∧ (ts.bundle 0).ser ≠ 0) ∧
    (Passes ts 0 (rowOf (.yield xu)) xu ∧ Passes ts 0 (rowOf (.sleep xu)) xu ∧ ctlCode xu = 0) ∧
    (Passes ts 0 (rowOf (.sleep { xu with b := 1 })) { xu with b := 1 } ∧ ctlCode { xu with b := 1 } ≠ 0) ∧
    (Passes fs fwKey0 (rowOf (.halt xu)) xu ∧ (fs.bundle fwKey0).fw = some 0 ∧
      ∀ o, o ∈ fs.ops → o.ser ≠ (fs.bundle fwKey0).ser) ∧
    (ts.issuing = some 0 ∧ (1 : BitVec 6) ≠ 0 ∧
      ∀ e, e ∈ ts.xerrs → e.ser = (ts.bundle 0).ser → e.onFlags (0xFFF : BitVec 12).toNat = false) := by
  refine ⟨⟨passes_of (by decide), by decide⟩, ⟨passes_of (by decide), passes_of (by decide), by decide⟩,
    ⟨passes_of (by decide), by decide⟩, ⟨passes_of (by decide), by decide, by decide⟩, by decide, by decide, by decide⟩

/-- The launch's kernel has no handler. -/
def noVec : State := { ts with launches := [(1, { kh := [(1, 0xFFFFFFFF)] })] }

/-- A bundle whose threads are in a handler. -/
def inHandler : Bundle :=
  { tb with hidden := some { s60 := 0, s61 := 0, s62 := 0, s63 := 0, prio := 1, hs := 3, rpc := 1, clo := 1, hdr := th.hdr, rel := 0 } }

theorem test_witness_taking_a_trap :
    (ts.vector 0 ≠ 0xFFFFFFFF ∧ (ts.bundle 0).hidden = none) ∧
    (noVec.vector 0 = 0xFFFFFFFF ∧ (noVec.bundle 0).fw = none ∧ (noVec.launch (noVec.bundle 0).launch).killed = false) ∧
    (((tsb inHandler).bundle 0).hidden ≠ none ∧ ((tsb inHandler).bundle 0).fw = none ∧
      ((tsb inHandler).launch ((tsb inHandler).bundle 0).launch).killed = false) := by decide

theorem test_witness_trap_instructions :
    (Passes ts 0 (rowOf (.trap { xu with a := 4 })) { xu with a := 4 } ∧ ts.vector 0 ≠ 0xFFFFFFFF ∧ (ts.bundle 0).hidden = none) ∧
    (Passes (tsb inHandler) 0 (rowOf (.tret xu)) xu ∧ ∃ h, ((tsb inHandler).bundle 0).hidden = some h) ∧
    ((Instr.add { xd with d := 64 }).parts = some (rowOf (.add { xd with d := 64 }), { xd with d := 64 }) ∧
      1 ≤ (rowOf (.add { xd with d := 64 })).cls ∧ (rowOf (.add { xd with d := 64 })).cls ≤ 3 ∧ ts.issuing = some 0 ∧
      (ts.bundle 0).regFault (rowOf (.add { xd with d := 64 })) { xd with d := 64 } = some 64) ∧
    (Passes ts 0 (rowOf (.tret xu)) xu ∧ (ts.bundle 0).hidden = none) ∧
    (Passes ts 0 (rowOf (.halt xu)) xu ∧ (ts.bundle 0).fw = none) := by
  refine ⟨⟨passes_of (by decide), by decide, by decide⟩, ⟨passes_of (by decide), _, rfl⟩, ⟨by decide, by decide, by decide, by decide,
    by decide⟩, ⟨passes_of (by decide), by decide⟩, passes_of (by decide), by decide⟩

/-! ### Witnesses: integer, float, special functions and conversions -/

theorem test_witness_integer : ∀ i, i ∈ [Instr.add xv, .sub xv, .mul xv, .mulhi xv, .mad xv, .min xv, .max xv, .abs xv, .neg xv,
      .and xv, .or xv, .xor xv, .andn xv, .not xv, .shl xv, .shr xv, .sar xv, .rot xv, .clz xv, .popc xv, .bfe xv, .bfi xv,
      .sel xv, .mov xv, .movi xv] →
    i.parts = some (rowOf i, xv) ∧ (intValue i true 32 0 0 0).isSome = true ∧ Passes ts 0 (rowOf i) xv := all_pass (by decide)

theorem test_witness_integer_uniform : ∀ i, i ∈ [Instr.add xu, .mad xu, .abs xu, .shl xu, .bfe xu, .sel xu, .mov xu] →
    i.parts = some (rowOf i, xu) ∧ (intValue i true 32 0 0 0).isSome = true ∧ Passes ts 0 (rowOf i) xu := all_pass (by decide)

theorem test_witness_compares : (∀ i, i ∈ [Instr.cmpEq xd, .cmpNe xd, .cmpLt xd, .cmpLe xd, .cmpGt xd, .cmpGe xd] →
    i.parts = some (rowOf i, xd) ∧ (intRelation i 0 0).isSome = true ∧ Passes ts 0 (rowOf i) xd) ∧
    (∀ i, i ∈ [Instr.fcmpEq xd, .fcmpNe xd, .fcmpLt xd, .fcmpLe xd, .fcmpUn xd] →
    i.parts = some (rowOf i, xd) ∧ (floatRelation i .nan .nan).isSome = true ∧ Passes ts 0 (rowOf i) xd) ∧ xd.u = false ∧ xd.d ≠ 0 :=
  ⟨all_pass (by decide), all_pass (by decide), by decide⟩

theorem test_witness_addresses_and_coordinates :
    Passes ts 0 (rowOf (.lea xv)) xv ∧ Passes ts 0 (rowOf (.lea xu)) xu ∧ (Passes ts 0 (rowOf (.tidx xv)) xv ∧ isBlock xv = false) ∧
    Passes ts 0 (rowOf (.tidx xu)) xu :=
  ⟨passes_of (by decide), passes_of (by decide), ⟨passes_of (by decide), by decide⟩, passes_of (by decide)⟩

/-- An index immediate of −1 names a register below v0. -/
def xm : Enc := { i := true, b := 31 }

theorem test_witness_index_registers :
    (Passes ts 0 (rowOf (.movr xm)) xm ∧ hasBit ((ts.bundle 0).executing xm) 0 = true ∧ namedRegister xm (ts.bundle 0) 0 0 < 0) ∧
    (Passes ts 0 (rowOf (.movw xm)) xm ∧ hasBit ((ts.bundle 0).executing xm) 0 = true ∧ namedRegister xm (ts.bundle 0) 0 0 < 0) ∧
    (Passes ts 0 (rowOf (.movr xv)) xv ∧ Passes ts 0 (rowOf (.movw xv)) xv ∧ xv.isel = 0 ∧ isBlock xv = false ∧
      ∀ u, u < 64 → hasBit ((ts.bundle 0).executing xv) u = true →
        0 ≤ namedRegister xv (ts.bundle 0) u 0 ∧ namedRegister xv (ts.bundle 0) u 0 < ((ts.bundle 0).allot : Int)) ∧
    Passes ts 0 (rowOf (.ixset xv)) xv :=
  ⟨⟨passes_of (by decide), by decide, by decide⟩, ⟨passes_of (by decide), by decide, by decide⟩,
    ⟨passes_of (by decide), passes_of (by decide), by decide, by decide, by decide⟩, passes_of (by decide)⟩

/-- Fields masked by m1, with zeroing: no thread executes, since no bit of m1 is set. -/
def xk : Enc := { form := .prefixed, msk := 1 }

theorem test_witness_cross_lane :
    (∀ i, i ∈ [Instr.shfl xv, .shflUp xv, .shflDn xv, .shflX xv, .ballot xv, .matchOp xv, .reduxAdd xv, .reduxMin xv, .reduxMax xv,
        .reduxAnd xv, .reduxOr xv, .scanAdd xv, .scanXadd xv] →
      i.parts = some (rowOf i, xv) ∧ (crossValue i (rowOf i) xv {} 0).isSome = true ∧ MayHandOff ts 0 (rowOf i) xv) ∧
    (isBlock xv = false ∧ ts.numbered ∧ (ts.bundle 0).executing xv ≠ 0) ∧
    (MayHandOff ts 0 (rowOf (.shfl xk)) xk ∧ (ts.bundle 0).executing xk = 0 ∧ (ts.bundle 0).zeroed xk = 0 ∧ (ts.bundle 0).live ≠ 0) ∧
    (∀ i, i ∈ [Instr.voteAny xv, .voteAll xv, .elect xv] →
      i.parts = some (rowOf i, xv) ∧ (crossBit i xv {} 0).isSome = true ∧ MayHandOff ts 0 (rowOf i) xv) ∧
    MayHandOff ts 0 (rowOf (.bcast xu)) xu ∧ MayHandOff ts 0 (rowOf (.pick xu)) xu :=
  ⟨all_hand (by decide), ⟨by decide, numbered_of_none rfl, by decide⟩, ⟨mayHandOff_of (by decide), by decide, by decide, by decide⟩,
    all_hand (by decide), mayHandOff_of (by decide), mayHandOff_of (by decide)⟩

theorem test_witness_float : (∀ i, i ∈ [Instr.fadd xv, .fsub xv, .fmul xv, .fma xv, .fmin xv, .fmax xv, .fabs xv, .fneg xv, .fclass xv,
      .fscale xv, .frnd xv, .fcopysign xv] →
      i.parts = some (rowOf i, xv) ∧ (floatWord i xv 1 0 0 0).isSome = true ∧ Passes ts 0 (rowOf i) xv) ∧
    (Passes ts 0 (rowOf (.fadd xu)) xu ∧ (floatWord (.fadd xu) xu ((ts.bundle 0).modeFor xu) 0 0 0).isSome = true) :=
  ⟨all_pass (by decide), passes_of (by decide), by decide⟩

theorem test_witness_exact_arithmetic : (FVal.fin true 0 0).isFin = true ∧ (FVal.fin false 3 (-2)).isFin = true := by decide

theorem test_witness_wide_rounding : fmtF16 ∈ [fmtF32, fmtBf16, fmtF16] ∧ 1 ≤ 6 ∧ 6 ≤ 6 ∧ 0 < 1 ∧ 0 < 3 := by decide

theorem test_witness_float_reductions : (∀ i, i ∈ [Instr.freduxAdd xv, .freduxMax xv, .fscanAdd xv] →
      i.parts = some (rowOf i, xv) ∧ (floatFold i xv 1 []).isSome = true ∧ MayHandOff ts 0 (rowOf i) xv) ∧
    isBlock xv = false ∧ ts.numbered ∧ (ts.bundle 0).executing xv ≠ 0 :=
  ⟨all_hand (by decide), by decide, numbered_of_none rfl, by decide⟩

theorem test_witness_special_functions :
    (∀ i, i ∈ [Instr.rcp xv, .rsq xv, .sqrt xv, .exp2 xv, .log2 xv, .sin xv, .cos xv, .tanh xv, .erf xv] →
      i.parts = some (rowOf i, xv) ∧ (specialOp i).isSome = true ∧ MayHandOff ts 0 (rowOf i) xv) ∧
    (MayHandOff ts 0 (rowOf (.erf xu)) xu ∧ specialOp (.erf xu) = some 8) :=
  ⟨all_hand (by decide), mayHandOff_of (by decide), by decide⟩

theorem test_witness_special_values : fmtF32.decode (0x7FC00000 : Word).toNat = .nan ∧
    fmtF32.decode (0x80000001 : Word).toNat = .fin true 1 (-149) ∧ 0 < 1 ∧ 1 < fmtF32.infCode := by decide

/-- The manual's entry for a scaled e4m3 tile of 64 by 256 elements (chapter 6). -/
def tidE4m3 : BitVec 128 := 0x04000100000400040001000000060739

/-- One element of f32. -/
def tidF32 : BitVec 128 := BitVec.ofNat 128 (0x240000 + 2 ^ 42 + 2 ^ 58 + 4 * 2 ^ 74)

/-- One row of 32 elements of e4m3, in element layout and in planes layout. -/
def tidRow : BitVec 128 := BitVec.ofNat 128 (0x60739 + 2 ^ 42 + 32 * 2 ^ 58 + 32 * 2 ^ 74)
def tidPlanes : BitVec 128 := BitVec.ofNat 128 (0x60739 + 2 ^ 42 + 32 * 2 ^ 58 + 40 * 2 ^ 74 + 2 ^ 96)

/-- The core of that bundle: 64 KiB of scratchpad, a tile, and identifiers. -/
def tcore : Core := { part := 0x30101, tid := [(1, tidE4m3), (2, tidF32), (3, tidRow), (4, tidPlanes)], tagV := [(1, false)] }

/-- The state with a core, and with a bundle and a core. -/
def tsc : State := { ts with cores := [(0, tcore)] }
def tscb (b : Bundle) : State := { tsc with bundles := [(0, b)] }

/-- Fields of an extended conversion with a tensor identifier. -/
def xc (d ty k : Nat) : Enc := { form := .extended, d := BitVec.ofNat 8 d, ty := BitVec.ofNat 2 ty, w2 := BitVec.ofNat 32 k }

theorem test_witness_conversions :
    (∀ i, i ∈ [Instr.cvt (xc 0 0 1), .qnt (xc 0 0 1), .dqnt (xc 0 0 1), .pack (xc 0 0 1), .unpack (xc 0 0 1)] →
      i.parts = some (rowOf i, xc 0 0 1) ∧ (convertedTo i (xc 0 0 1) {} (tidOf 0) 0).isSome = true ∧ MayHandOff tsc 0 (rowOf i) (xc 0 0 1)) ∧
    (MayHandOff tsc 0 (rowOf (.cvt (xc 0 0 5))) (xc 0 0 5) ∧ (tidOf (FMap.look (tsc.core 0).tid 0 5)).valid = false) ∧
    (MayHandOff tsc 0 (rowOf (.cvt (xc 1 1 2))) (xc 1 1 2) ∧ (tidOf (FMap.look (tsc.core 0).tid 0 2)).valid = true ∧
      twoRegs (xc 1 1 2) (tidOf tidF32).f = true ∧ codeField (.cvt (xc 1 1 2)) (xc 1 1 2) = some 1) ∧
    (MayHandOff tsc 0 (rowOf (.pack { xc 0 0 1 with i := true, b := 4 })) { xc 0 0 1 with i := true, b := 4 } ∧
      packsBeyond (.pack { xc 0 0 1 with i := true, b := 4 }) { xc 0 0 1 with i := true, b := 4 } (tsc.bundle 0) (tidOf tidE4m3) = true) ∧
    (MayHandOff (tscb { tb with allot := 63 }) 0 (rowOf (.cvt (xc 62 1 2))) (xc 62 1 2) ∧
      ((tscb { tb with allot := 63 }).bundle 0).allot ≤ 62 + 1) ∧
    ((tidOf (FMap.look (tsc.core (coreOfBundle 0)).tid 0 1)).valid = true ∧ twoRegs (xc 0 0 1) (tidOf tidE4m3).f = false ∧
      packsBeyond (.pack (xc 0 0 1)) (xc 0 0 1) (tsc.bundle 0) (tidOf tidE4m3) = false ∧ tsc.numbered ∧
      (tsc.bundle 0).executing (xc 0 0 1) ≠ 0) :=
  ⟨all_hand (by decide), ⟨mayHandOff_of (by decide), by decide⟩, ⟨mayHandOff_of (by decide), by decide, by decide, by decide⟩,
    ⟨mayHandOff_of (by decide), by decide⟩, ⟨mayHandOff_of (by decide), by decide⟩,
    ⟨by decide, by decide, by decide, numbered_of_none rfl, by decide⟩⟩

theorem test_witness_scale_and_format :
    (fmtValid 0x20739 = true ∧ (1 = 1 ∨ 1 = 2) ∧ 0 < 3) ∧
    (fmtValid 0x20739 = true ∧ 0x81 < 2 ^ (fmtOfWord 0x20739).codeBits ∧ ((fmtOfWord 0x20739).read 0x81).isFin = true) ∧
    (fmtOfWord 0x20739).kind = 0 ∧ (fmtValid 0x840000 = true ∧ (fmtOfWord 0x840000).kind = 4) := by decide

/-! ### Witnesses: memory -/

theorem admitted {s : State} (h : s.fns = []) : MemoryAdmitted s 0 :=
  Or.inr (fun k hk => Or.inl (by rcases hk with rfl | rfl <;> simp [State.fn, ctxOfBundle, h, FMap.look]))

theorem room {s : State} (h : s.replaysFull 0 = false) : ReplayRoom s 0 := h

/-- A displacement of a byte. -/
def x1 : Enc := { i := true, b := 1 }
def x1u : Enc := { i := true, b := 1, u := true }

theorem test_witness_loads_and_stores :
    (accessForm (.ldG x1) = some (x1, { cls := 6, op := 0, bytes := 4, loads := true }) ∧ MayHandOff ts 0 (rowOf (.ldG x1)) x1 ∧
      MemoryAdmitted ts 0 ∧ ReplayRoom ts 0 ∧ accessParties x1 (ts.bundle 0) = [] ++ (0, 1) :: [(1, 1)] ∧
      accessTrap ts 0 { cls := 6, op := 0, bytes := 4, loads := true } 1 = some 0x03) ∧
    (accessForm (.stL xv) = some (xv, { cls := 5, op := 1, bytes := 4, loads := false }) ∧ MayHandOff ts 0 (rowOf (.stL xv)) xv ∧
      MemoryAdmitted ts 0 ∧ accessParties xv (ts.bundle 0) = [] ++ (0, 0) :: [(1, 0)] ∧
      accessTrap ts 0 { cls := 5, op := 1, bytes := 4, loads := false } 0 = some 0x05) ∧
    (accessForm (.ldbL xv) = some (xv, { cls := 5, op := 2, bytes := 16, loads := true }) ∧ MayHandOff tsc 0 (rowOf (.ldbL xv)) xv ∧
      MemoryAdmitted tsc 0 ∧ tsc.numbered ∧ (tsc.bundle 0).executing xv ≠ 0 ∧
      ∀ p, p ∈ accessParties xv (tsc.bundle 0) → accessTrap tsc 0 { cls := 5, op := 2, bytes := 16, loads := true } p.2 = none) ∧
    (accessForm (.stRel xu) = some (xu, { cls := 6, op := 8, bytes := 4, loads := false, ord := 2 }) ∧
      MayHandOff ts 0 (rowOf (.stRel xu)) xu ∧ MemoryAdmitted ts 0 ∧ ReplayRoom ts 0 ∧
      ∀ p, p ∈ accessParties xu (ts.bundle 0) → accessTrap ts 0 { cls := 6, op := 8, bytes := 4, loads := false, ord := 2 } p.2 = none) ∧
    (MayHandOff ts 0 (rowOf (.prfG xv)) xv ∧ MemoryAdmitted ts 0 ∧ ReplayRoom ts 0 ∧ (ts.bundle 0).executing xv ≠ 0 ∧ ts.numbered) :=
  ⟨⟨by decide, mayHandOff_of (by decide), admitted rfl, room (by decide), by decide, by decide⟩,
    ⟨by decide, mayHandOff_of (by decide), admitted rfl, by decide, by decide⟩,
    ⟨by decide, mayHandOff_of (by decide), admitted rfl, numbered_of_none rfl, by decide, by decide⟩,
    ⟨by decide, mayHandOff_of (by decide), admitted rfl, room (by decide), by decide⟩, mayHandOff_of (by decide), admitted rfl,
    room (by decide), by decide, numbered_of_none rfl⟩

/-- Fields of a U form whose d, a and b name s3, s1 and s2. -/
def xs : Enc := { d := 3, a := 1, b := 2, u := true }

/-- The state with uniform registers. -/
def withS (l : FMap DWord) : State := tscb { tb with s := l }

theorem test_witness_tags_and_blocks :
    (MemoryAdmitted tsc 0 ∧ MemoryAdmitted ts 0 ∧ ∀ l, MemoryAdmitted (withS l) 0) ∧
    (MayHandOff tsc 0 (rowOf (.tagSet xu)) xu ∧ tsc.numbered ∧ addressOf xu (tsc.bundle 0) 0 < (tsc.core 0).spg * 65536) ∧
    (MayHandOff ts 0 (rowOf (.tagWc xu)) xu ∧ ts.numbered ∧ (ts.core 0).spg * 65536 ≤ addressOf xu (ts.bundle 0) 0) ∧
    (MayHandOff tsc 0 (rowOf (.zeroL x1u)) x1u ∧ addressOf x1u (tsc.bundle 0) 0 % 8 ≠ 0) ∧
    (MayHandOff (withS [(3, 1)]) 0 (rowOf (.zeroL xs)) xs ∧ addressOf xs ((withS [(3, 1)]).bundle 0) 0 % 8 = 0 ∧
      (((withS [(3, 1)]).bundle 0).sreg xs.d.toNat).toNat % 8 ≠ 0) ∧
    (MayHandOff (withS [(3, 65544)]) 0 (rowOf (.zeroL xs)) xs ∧ (((withS [(3, 65544)]).bundle 0).sreg xs.d.toNat).toNat = 65544 ∧
      ((withS [(3, 65544)]).core 0).spg * 65536 < 0 + 65544) ∧
    (MayHandOff (withS [(3, 65536)]) 0 (rowOf (.zeroL xs)) xs ∧ addressOf xs ((withS [(3, 65536)]).bundle 0) 0 = 0 ∧
      0 + 65536 ≤ ((withS [(3, 65536)]).core 0).spg * 65536) ∧
    (MayHandOff tsc 0 (rowOf (.plane xs)) xs ∧ (tidOf (FMap.look (tsc.core 0).tid 0 0)).valid = false) ∧
    (MayHandOff (withS [(2, 3)]) 0 (rowOf (.plane xs)) xs ∧ (tidOf tidRow).valid = true ∧ (tidOf tidRow).lay = 0 ∧ (tidOf tidRow).f.kind = 0) ∧
    (MayHandOff (withS [(2, 0x403), (3, 64)]) 0 (rowOf (.plane xs)) xs ∧ (tidOf tidPlanes).valid = true ∧ (tidOf tidPlanes).lay = 1 ∧
      (tidOf tidRow).fmt = (tidOf tidPlanes).fmt ∧ (tidOf tidRow).rows = (tidOf tidPlanes).rows ∧
      (tidOf tidRow).cols = (tidOf tidPlanes).cols ∧ 0 + (tidOf tidRow).extent ≤ 64 ∧ 64 + (tidOf tidPlanes).extent ≤ 65536) :=
  ⟨⟨admitted rfl, admitted rfl, fun _ => admitted rfl⟩, ⟨mayHandOff_of (by decide), numbered_of_none rfl, by decide⟩,
    ⟨mayHandOff_of (by decide), numbered_of_none rfl, by decide⟩,
    ⟨mayHandOff_of (by decide), by decide⟩, ⟨mayHandOff_of (by decide), by decide, by decide⟩,
    ⟨mayHandOff_of (by decide), by decide, by decide⟩, ⟨mayHandOff_of (by decide), by decide, by decide⟩,
    ⟨mayHandOff_of (by decide), by decide⟩, ⟨mayHandOff_of (by decide), by decide⟩, mayHandOff_of (by decide), by decide⟩

/-- An operation of that bundle with one request, and the state in which it is in progress. -/
def opr (cls : Nat) (r : Req) : Op := { id := 4, bk := 0, ser := 1, cls := cls, flag := some 3, upc := 1, ex := 3, reqs := [r] }
def during (o : Op) : State := { tsc with ops := [o], bundles := [(0, tb.setFlag 3 1)] }

/-- Requests in a bank's queue. -/
def rq (a : Act) : Req := { uid := 0, t := 0, stage := .queued, act := a, addr := 8, n := 8 }

/-- A load that has still to pass its lane. -/
def passLoad : Req := { rq (.ld 4 false) with stage := .pass }

theorem test_witness_passage : (during (opr 5 passLoad)).op? 4 = some (opr 5 passLoad) ∧ (during (opr 5 passLoad)).mayPass (opr 5 passLoad) = true ∧
    PassesNext (opr 5 passLoad) 0 :=
  ⟨by decide, by decide, ⟨[], passLoad, [], rfl, rfl, rfl, by simp⟩⟩

theorem test_witness_bank_service : ∀ r, r ∈ [rq (.ld 4 false), rq (.st 7), rq .zero, rq (.tag 0 1), rq (.tag 1 3), rq (.tag 2 0)] →
    InProgress (during (opr 5 r)) (opr 5 r) r ∧ (during (opr 5 r)).mayServe (opr 5 r) r = true ∧ (opr 5 r).fin = .none ∧
      Unraced (during (opr 5 r)) 0 ∧ (during (opr 5 r)).frameBad 0 ((tcore).spBase + 8) 8 = none := by
  simp only [List.mem_cons, List.not_mem_nil, or_false, forall_eq_or_imp, forall_eq, InProgress, Unraced]
  refine ⟨?_, ?_, ?_, ?_, ?_, ?_⟩ <;> exact ⟨by decide, by decide, by decide, by decide, by decide⟩

theorem test_witness_planes : (tidOf tidPlanes).valid = true ∧ (tidOf tidPlanes).f.kind = 0 ∧
    (List.replicate 32 0x81).length = (tidOf tidPlanes).cols ∧
    (∀ c, c ∈ List.replicate 32 0x81 → c < 2 ^ (tidOf tidPlanes).f.w) ∧ (tidOf tidRow).valid = true ∧ (tidOf tidRow).lay = 0 := by decide

theorem test_witness_home_instructions :
    (homeForm (.atomAdd x1) = some (x1, { op := 0, ord := (homeForm (.atomAdd x1)).elim 0 (fun p => p.2.ord) }) ∧
      MayHandOff ts 0 (rowOf (.atomAdd x1)) x1 ∧ MemoryAdmitted ts 0 ∧ ReplayRoom ts 0 ∧ accessParties x1 (ts.bundle 0) = [] ++ (0, 1) :: [(1, 1)] ∧
      1 % homeBytesOf { op := 0, ord := 0 } x1 ≠ 0) ∧
    (MayHandOff ts 0 (rowOf (.cellProp xu)) xu ∧ (homeForm (.cellProp xu)).isSome = true ∧
      ∀ p, p ∈ accessParties xu (ts.bundle 0) → p.2 % homeBytesOf { op := 15, ord := 0 } xu = 0) ∧ ts.numbered :=
  ⟨⟨by decide, mayHandOff_of (by decide), admitted rfl, room (by decide), by decide, by decide⟩,
    ⟨mayHandOff_of (by decide), by decide, by decide⟩, numbered_of_none rfl⟩

theorem test_witness_home_operations :
    ([1, 0, 0, 0] : List Byte).length = 32 / 8 ∧ (List.replicate 16 (0 : Byte)).length = 16 ∧
    ((slotOf (List.replicate 16 0)).ovf = false ∧ -2 ^ 95 ≤ (slotOf (List.replicate 16 0)).n + 5 ∧
      (slotOf (List.replicate 16 0)).n + 5 < 2 ^ 95) ∧ cellState (5 : DWord) < 6 := by decide

/-- An operation whose results have still to land. -/
def opw (ws : List WB) : Op := { id := 4, bk := 0, ser := 1, cls := 3, flag := some 3, upc := 1, ex := 3, ws := ws }

/-- A thread's result and the bundle's. -/
def wbv : WB := { t := 0, ws := [.v 4 7] }
def wbs : WB := { t := 64, ws := [.s 2 9] }
/-- Two halves of a 16-byte load, both read, the first in the service order of its port. -/
def halves : Op := { opw [{ wbv with seq := 2 }, { wbv with seq := 3 }] with cls := 5, opn := 2 }

theorem test_witness_results_land :
    ((during (opw [wbv, wbs])).op? 4 = some (opw [wbv, wbs]) ∧ (opw [wbv, wbs]).ws[1]? = some wbs ∧ wbs.proper ∧ wbv.proper ∧
      (opw [wbv, wbs]).pairs = false ∧ (during (opw [wbv, wbs])).landsBehind (opw [wbv, wbs]) wbs = false ∧ 1 < (opw [wbv, wbs]).ws.length) ∧
    ((during halves).op? 4 = some halves ∧ halves.pairs = true ∧ (∀ r, r ∈ halves.reqs → r.t ≠ 0) ∧
      (during halves).landsBehind halves { wbv with seq := 2 } = false ∧ (during halves).landsBehind halves { wbv with seq := 3 } = true) ∧
    ((during (opw [wbv])).op? 4 = some (opw [wbv]) ∧ (opw [wbv]).ws = [wbv] ∧ (opw [wbv]).reqs = [] ∧
      (during (opw [wbv])).landsBehind (opw [wbv]) wbv = false ∧ ((during (opw [wbv])).bundle 0).ser = 1 ∧
      ((during (opw [wbv])).bundle 0).live ≠ 0) ∧
    ((during { opw [] with flag := none, fin := .arrive 9 true }).op? 4 = some { opw [] with flag := none, fin := .arrive 9 true }) := by
  refine ⟨⟨by decide, by decide, Or.inr (by simp [wbs]), Or.inl (by decide), by decide⟩, by decide, by decide, by decide⟩

/-- Page tables that map virtual address 0 (as `State.probeTables` writes them), and a request that waits for its translation. -/
def paged (o : Op) : State :=
  { (State.reset.withFetchWord 32 0x04000000) with ops := [o], nextId := 5, issuing := none }
def rw (stage : Stage) (a : Act) : Req := { uid := 0, t := 0, stage := stage, act := a, addr := 16, n := 8, pa := 0xA010 }
/-- An address that no table maps. -/
def rfar : Req := { uid := 0, t := 0, stage := .walk, act := .st 3, addr := 2 ^ 40, n := 8 }

theorem test_witness_walks_and_homes :
    (InProgress (paged (opr 6 (rw .walk (.ld 4 false)))) (opr 6 (rw .walk (.ld 4 false))) (rw .walk (.ld 4 false)) ∧
      (paged (opr 6 (rw .walk (.ld 4 false)))).runs 0 = true ∧ (opr 6 (rw .walk (.ld 4 false))).pairs = false ∧
      (paged (opr 6 (rw .walk (.ld 4 false)))).heldOfThread (opr 6 (rw .walk (.ld 4 false))) (rw .walk (.ld 4 false)) = false ∧
      (paged (opr 6 (rw .walk (.ld 4 false)))).inOrder ((paged (opr 6 (rw .walk (.ld 4 false)))).sliceEngine (opr 6 (rw .walk (.ld 4 false)))) 0 = true ∧
      (∀ p q, p ∈ [opr 6 (rw .walk (.ld 4 false))] → q ∈ p.reqs → p = opr 6 (rw .walk (.ld 4 false)) ∧ q = rw .walk (.ld 4 false)) ∧
      ((paged (opr 6 (rw .walk (.ld 4 false)))).translate (opr 6 (rw .walk (.ld 4 false))) (rw .walk (.ld 4 false))).1 = .go 0xA010) ∧
    (InProgress (paged (opr 6 rfar)) (opr 6 rfar) rfar ∧ (paged (opr 6 rfar)).runs 0 = true ∧ (opr 6 rfar).records = false ∧
      (paged (opr 6 rfar)).heldOfThread (opr 6 rfar) rfar = false ∧
      (paged (opr 6 rfar)).inOrder ((paged (opr 6 rfar)).sliceEngine (opr 6 rfar)) 0 = true ∧ (∀ p q, p ∈ [opr 6 rfar] → q ∈ p.reqs → p = opr 6 rfar ∧ q = rfar) ∧
      ((paged (opr 6 rfar)).translate (opr 6 rfar) rfar).1 = .trap 0x04) ∧
    (∀ a, a ∈ [Act.ld 4 false, .st 7, .home 0 2 5 0 4 0 false 0 false] →
      InProgress (paged (opr 6 (rw .home a))) (opr 6 (rw .home a)) (rw .home a) ∧ (paged (opr 6 (rw .home a))).runs 0 = true ∧
      (rw .home a).claim = false ∧ (paged (opr 6 (rw .home a))).travels (opr 6 (rw .home a)) (rw .home a) = false ∧
      (paged (opr 6 (rw .home a))).blocked (opr 6 (rw .home a)) (rw .home a) false = false ∧
      (paged (opr 6 (rw .home a))).mgmtBehind (opr 6 (rw .home a)) (rw .home a) = false ∧
      (paged (opr 6 (rw .home a))).homeReady (opr 6 (rw .home a)) (rw .home a) = true ∧
      (paged (opr 6 (rw .home a))).target (opr 6 (rw .home a)).orig 0xA010 8 = .mem ∧
      (paged (opr 6 (rw .home a))).memBad 0xA010 8 = none) := by
  refine ⟨⟨by simp only [InProgress]; decide, by decide, by decide, by decide, by decide, ?_, by decide⟩,
    ⟨by simp only [InProgress]; decide, by decide, by decide, by decide, by decide, ?_, by decide⟩, ?_⟩
  · intro p q hp hq; simp only [List.mem_singleton] at hp; subst hp; exact ⟨rfl, by simpa [opr] using hq⟩
  · intro p q hp hq; simp only [List.mem_singleton] at hp; subst hp; exact ⟨rfl, by simpa [opr] using hq⟩
  · simp only [List.mem_cons, List.not_mem_nil, or_false, forall_eq_or_imp, forall_eq, InProgress]
    decide

/-- A packet of that request, and the state with it. -/
def pk (op : Nat) (data : List Byte) : Packet := { id := 2, op := op, opId := 4, uid := 0, data := data }
def sending (a : Act) (op : Nat) (data : List Byte) : State :=
  { paged { opr 6 (rw .fabric a) with reqs := [rw .fabric a, { rw .fabric a with uid := 1 }] } with pkts := [pk op data] }
def opk (a : Act) : Op := { opr 6 (rw .fabric a) with reqs := [rw .fabric a, { rw .fabric a with uid := 1 }] }

theorem test_witness_packets :
    (∀ p, p ∈ [(1, Act.ld 4 false), (0, .st 7), (3, .home 0 2 5 0 4 0 false 0 false), (5, .st 7), (6, .st 7)] →
      Delivered (sending p.2 p.1 []) (pk p.1 []) (opk p.2) (rw .fabric p.2) ∧
      (sending p.2 p.1 []).target (opk p.2).orig 0xA010 8 = .mem ∧ (sending p.2 p.1 []).memBad 0xA010 8 = none) ∧
    (Delivered (sending (.ld 4 false) 2 [1, 2]) (pk 2 [1, 2]) (opk (.ld 4 false)) (rw .fabric (.ld 4 false)) ∧
      (opk (.ld 4 false)).reqs.Nodup ∧ 1 < (opk (.ld 4 false)).reqs.length ∧
      ((sending (.ld 4 false) 2 [1, 2]).bundle 0).ser = (opk (.ld 4 false)).ser) ∧
    ({ sending (.st 7) 0 [] with cycle := 115200 }.pkt? 2 = some (pk 0 []) ∧ (pk 0 []).since + 115200 ≤ 115200) := by
  refine ⟨?_, by simp only [Delivered, InProgress]; decide, by decide⟩
  simp only [List.mem_cons, List.not_mem_nil, or_false, forall_eq_or_imp, forall_eq, Delivered, InProgress]
  decide

/-! ### Witnesses: barriers, sets, fences and special registers -/

/-- The core's first barrier, and a barrier of that core bound to its bundle's set. -/
def xb : Enc := { a := 1 }
def bound : State := { withS [(1, 0x4000)] with bars := [(524288, { bound := some (0, 1) })] }

/-- The executing threads of the bundle are members of the set that the barrier is bound to. -/
theorem bound_members : ∀ n, n ∈ threadsOf (bound.bundle 0) ((bound.bundle 0).executing xb) →
    n ∈ bound.members (bound.bar 524288).bound := by decide

theorem test_witness_barriers :
    (Passes ts 0 (rowOf (.barArv xb)) xb ∧ (ts.bundle 0).executing xb ≠ 0 ∧ Passes ts 0 (rowOf (.barBind xb)) xb ∧
      ts.barKey 0 ((ts.bundle 0).syncField xb) = none) ∧
    (Passes ts 0 (rowOf (.barArv { xb with form := .prefixed, msk := 1 })) { xb with form := .prefixed, msk := 1 } ∧
      (ts.bundle 0).executing { xb with form := .prefixed, msk := 1 } = 0) ∧
    (Passes (withS [(1, 0x4000)]) 0 (rowOf (.barSync xb)) xb ∧
      (withS [(1, 0x4000)]).barKey 0 (((withS [(1, 0x4000)]).bundle 0).syncField xb) = some 524288 ∧
      ¬ MayArrive (withS [(1, 0x4000)]) ((withS [(1, 0x4000)]).bundle 0) 3 ((withS [(1, 0x4000)]).bar 524288)) ∧
    (Passes bound 0 (rowOf (.barArv xb)) xb ∧ Passes bound 0 (rowOf (.barSync xb)) xb ∧ Passes bound 0 (rowOf (.barWait xb)) xb ∧
      Passes bound 0 (rowOf (.barPoll { xb with d := 1 })) { xb with d := 1 } ∧
      bound.barKey 0 ((bound.bundle 0).syncField xb) = some 524288 ∧
      MayArrive bound (bound.bundle 0) ((bound.bundle 0).executing xb) (bound.bar 524288) ∧
      (bound.bundle 0).executing xb ≠ 0 ∧ ∀ n, n ∈ threadsOf (bound.bundle 0) ((bound.bundle 0).executing xb) → n ∈ (bound.bar 524288).arr0 → n ∉ (bound.bar 524288).arr1) ∧
    (Passes bound 0 (rowOf (.barBind xs)) xs ∧ BindsTo bound 0 1 0xFFFF none ∧ BindsTo bound 0 1 0 (some (0, 1)) ∧
      (bound.bar 524288).arr0 = [] ∧ (bound.bar 524288).eng0 = 0 ∧ (bound.bar 524288).eb0 = []) :=
  ⟨⟨passes_of (by decide), by decide, passes_of (by decide), by decide⟩, ⟨passes_of (by decide), by decide⟩,
    ⟨passes_of (by decide), by decide, fun h => h.1 (by decide)⟩,
    ⟨passes_of (by decide), passes_of (by decide), passes_of (by decide), passes_of (by decide), by decide, ⟨by decide, bound_members⟩,
      by decide, by decide⟩,
    ⟨passes_of (by decide), Or.inl ⟨rfl, rfl⟩, Or.inr (Or.inl ⟨by decide, by decide, by decide⟩), by decide, by decide, by decide⟩⟩

theorem free_of {s : State} (hs : s.sets = []) (hb : s.bars = []) (k : Nat) : FreeSet s k := by
  refine ⟨by simp [State.setRec, hs, FMap.look], by simp [State.setRec, hs, FMap.look], by simp [State.setRec, hs, FMap.look], ?_⟩
  rintro ⟨e, h, he, -⟩
  simp [hb] at he

/-- All 256 sets of the context's core level are taken. -/
def taken : State := { ts with sets := (List.range 256).map (fun n => (ts.keyFor 0 1 n, { alloc := true })) }

theorem test_witness_sets :
    (Passes ts 0 (rowOf (.setNew { d := 1, b := 1 })) { d := 1, b := 1 } ∧ FreeSet ts (ts.keyFor 0 1 0) ∧ ∀ k, k < 0 → ¬ FreeSet ts (ts.keyFor 0 1 k)) ∧
    (Passes taken 0 (rowOf (.setNew { d := 1, b := 1 })) { d := 1, b := 1 } ∧ ∀ n, n < 256 → ¬ FreeSet taken (taken.keyFor 0 1 n)) ∧
    (Passes ts 0 (rowOf (.setJoin xb)) xb ∧ ts.setKeyOf 0 ((ts.bundle 0).syncField xb) = none) ∧
    (Passes bound 0 (rowOf (.setJoin xb)) xb ∧ Passes bound 0 (rowOf (.setLeave xb)) xb ∧
      bound.setKeyOf 0 ((bound.bundle 0).syncField xb) = some 524288) := by
  refine ⟨⟨passes_of (by decide), free_of rfl rfl _, by omega⟩, ⟨passes_of (by decide), ?_⟩, ⟨passes_of (by decide), by decide⟩,
    passes_of (by decide), passes_of (by decide), by decide⟩
  intro n hn h
  have : ∀ n, n < 256 → (taken.setRec (taken.keyFor 0 1 n)).alloc = true := by decide +kernel
  simp [this n hn, FreeSet] at h

theorem test_witness_set_free :
    (Passes bound 0 (rowOf (.setFree xb)) xb ∧ bound.setKeyOf (coreOfBundle 0) ((bound.bundle 0).syncField xb) = some 524288 ∧
      (bound.setRec 524288).members = [] ∧ (bound.setRec 524288).initial = false) ∧
    ({ bound with sets := [(524288, { members := [64] })] }.setRec 524288).members ≠ [] ∧ ¬ BoundSomewhere bound 524288 := by
  refine ⟨⟨passes_of (by decide), by decide, by decide, by decide⟩, by decide, ?_⟩
  rintro ⟨e, h, he, hb, hk⟩
  simp only [bound, List.mem_singleton] at he
  subst he
  simp at hb

/-- A fence in progress, and a store in progress before an `opfence`. -/
def fenceOp : Op :=
  { id := 5, bk := 0, ser := 1, cls := 8, opn := 8, flag := none, upc := 1, ex := 3, lvl := scopeOf xu
    reqs := [{ uid := 0, t := 64, stage := .wait, act := .drain 2 }] }

/-- An `acq.remote` in progress, asked. -/
def remoteOp : Op :=
  { id := 4, bk := 0, ser := 1, cls := 8, opn := 11, flag := some 3, upc := 1, ex := 3
    reqs := [{ uid := 0, t := 64, stage := .fabric, act := .sys 2 0 0 0 }] }

/-- The partition has one core. -/
def oneCore : State := { ts with parts := [(0, { layers := 1, cur := some 0, remap := [(0, 1)] })] }

theorem test_witness_fences :
    (Passes ts 0 (rowOf (.fence xk)) xk ∧ (ts.bundle 0).acting xk = 0) ∧
    (Passes ts 0 (rowOf (.fence xu)) xu ∧ (ts.bundle 0).acting xu ≠ 0 ∧ FenceOf ts 0 xu fenceOp ∧
      (during fenceOp).op? 5 = some fenceOp ∧ (during fenceOp).runs 0 = true ∧ (during fenceOp).accessesBefore fenceOp = false) ∧
    (Passes ts 0 (rowOf (.opfence xu)) xu ∧ ts.ops = []) ∧
    (Passes (during (opr 6 (rw .home (.st 1)))) 0 (rowOf (.opfence xu)) xu ∧ (opr 6 (rw .home (.st 1))).isData = true ∧
      (opr 6 (rw .home (.st 1))).id < (during (opr 6 (rw .home (.st 1)))).nextId ∧ (rw .home (.st 1)).writes = true) ∧
    (Passes ts 0 (rowOf (.waitf xu)) xu ∧ (∀ e, e ∈ ts.xerrs → e.ser = (ts.bundle 0).ser → e.onFlags 0 = false) ∧
      flagsClear ((during fenceOp).bundle 0) 8 = false) ∧
    (MayHandOff ts 0 (rowOf (.acqRemote xu)) xu ∧ MayHandOff (withS [(1, 0x3FF0000)]) 0 (rowOf (.acqRemote xs)) xs ∧
      MayHandOff oneCore 0 (rowOf (.acqRemote xu)) xu ∧ oneCore.coresOf (partOfCtx 0) = 1 ∧ (oneCore.bundle 0).acting xu ≠ 0) ∧
    ((during remoteOp).op? 4 = some remoteOp ∧ (∀ r, r ∈ remoteOp.reqs → r.stage = .fabric) ∧
      (during remoteOp).strongBefore remoteOp remoteOp.ex = false ∧ ((during remoteOp).bundle 0).live ≠ 0) ∧
    (Passes ts 0 (rowOf (.scopeof xu)) xu ∧ (ts.bundle 0).parties xu = [] ++ (64, 0) :: [] ∧ ts.scopeLevel 0 64 0 = none) ∧
    (Passes (withS [(1, 0x8000000000000000)]) 0 (rowOf (.scopeof { xs with b := 0 })) { xs with b := 0 } ∧
      ∀ p, p ∈ ((withS [(1, 0x8000000000000000)]).bundle 0).parties { xs with b := 0 } →
        (withS [(1, 0x8000000000000000)]).scopeLevel 0 p.1 p.2 ≠ none ∧
        (withS [(1, 0x8000000000000000)]).walkBad 0 ((withS [(1, 0x8000000000000000)]).sliceOf 0) (microOf 0) p.2 = none) := by
  refine ⟨⟨passes_of (by decide), by decide⟩, ⟨passes_of (by decide), by decide, by simp only [FenceOf]; decide, by decide, by decide, by decide⟩, ⟨passes_of (by decide), rfl⟩,
    ⟨passes_of (by decide), by decide, by decide, by decide⟩, ⟨passes_of (by decide), by decide, by decide⟩,
    ⟨mayHandOff_of (by decide), mayHandOff_of (by decide), mayHandOff_of (by decide), by decide, by decide⟩,
    ⟨by decide, by decide, by decide, by decide⟩,
    ⟨passes_of (by decide), by decide, by decide⟩,
    passes_of (by decide), by decide⟩

/-- A `snap` in progress. -/
def snapReq : Req := { uid := 0, t := 64, stage := .home, act := .sys 6 0 0 3 }

theorem test_witness_special_registers :
    (Passes ts 0 (rowOf (.mfs xv)) xv ∧ Passes ts 0 (rowOf (.mfs xu)) xu ∧ isFw 0 = false) ∧ Passes ts 0 (rowOf (.clk xu)) xu ∧
    Passes ts 0 (rowOf (.mts xu)) xu ∧ MayHandOff ts 0 (rowOf (.snap xu)) xu ∧
    (InProgress (during (opr 12 snapReq)) (opr 12 snapReq) snapReq ∧ (during (opr 12 snapReq)).runs 0 = true) :=
  ⟨⟨passes_of (by decide), passes_of (by decide), by decide⟩, passes_of (by decide), passes_of (by decide), mayHandOff_of (by decide),
    by simp only [InProgress]; decide⟩

/-- `tid.wr` and `tid.rd` of identifier 1 on s10 and s11, with the manual's words. -/
def xt : Enc := { form := .extended, d := 12, a := 10, u := true, w2 := 1 }

theorem test_witness_tensor_identifiers :
    (Passes ts 0 (rowOf (.tidWr xt)) xt ∧ (tidOf 0).valid = false) ∧
    (Passes (withS [(10, 0x0001000000060739), (11, 0x0400010000040004)]) 0 (rowOf (.tidWr xt)) xt ∧ (tidOf tidE4m3).valid = true) ∧
    Passes ts 0 (rowOf (.tidRd xt)) xt :=
  ⟨⟨passes_of (by decide), by decide⟩, ⟨passes_of (by decide), by decide⟩, passes_of (by decide)⟩

/-! ### Witnesses: the engines -/

/-- Fields of a class-9 unit on tile 1 with barrier 2 and identifiers 3 and 3. -/
def xx : Enc := { form := .extended, a := 1, b := 2, u := true, w2 := 0x03030410 }

/-- One step of one loop over 32 columns: the A operand at 0, the B operand at 1024. -/
def loopState : State := withS [(1, 0), (2, 0)]

/-- Entries at the head of a core's queue. -/
def ent (op : Nat) : MxEntry :=
  { op := op, opId := 4, bk := 0, ser := 1, upc := 1, ex := 3, tile := 1, ta := tidRow, tb := tidRow, ra := 512, rb := 0x0001000000000400 }
def engineOp : Op :=
  { id := 4, bk := 0, ser := 1, cls := 9, flag := some 3, upc := 1, ex := 3
    reqs := [{ uid := 0, t := 64, stage := .fabric, act := .sys 5 0 0 0 }] }
def withMx (c : Core) : State := { during engineOp with cores := [(0, c)] }

theorem test_witness_matrix_hand_off :
    (∃ e, mxCaptured (.mxZero { xx with w2 := 0x1000 }) tsc 0 = some ({ xx with w2 := 0x1000 }, e) ∧ (tsc.core 0).tiles ≤ e.tile ∧
      MayHandOff tsc 0 (rowOf (.mxZero { xx with w2 := 0x1000 })) { xx with w2 := 0x1000 }) ∧
    (∃ e, mxCaptured (.mxStore xx) (withS [(1, 8)]) 0 = some (xx, e) ∧ e.tile < ((withS [(1, 8)]).core 0).tiles ∧
      mxFault (.mxStore xx) xx (withS [(1, 8)]) 0 e = some (3, 8) ∧ MayHandOff (withS [(1, 8)]) 0 (rowOf (.mxStore xx)) xx) ∧
    (∃ e, mxCaptured (.mxStat xx) tsc 0 = some (xx, e) ∧ mxFault (.mxStat xx) xx tsc 0 e = none ∧ (tsc.core 0).mq.length < 16 ∧
      mxNamesBarrier (.mxStat xx) = false ∧ MayHandOff tsc 0 (rowOf (.mxStat xx)) xx) ∧
    (∃ e, mxCaptured (.mxStat xx) (withMx { tcore with mq := List.replicate 16 (ent 2) }) 0 = some (xx, e) ∧
      16 ≤ ((withMx { tcore with mq := List.replicate 16 (ent 2) }).core 0).mq.length ∧
      MayHandOff (withMx { tcore with mq := List.replicate 16 (ent 2) }) 0 (rowOf (.mxStat xx)) xx) ∧
    (∃ e, mxCaptured (.mxWin xx) tsc 0 = some (xx, e) ∧ mxFault (.mxWin xx) xx tsc 0 e = none ∧ mxNamesBarrier (.mxWin xx) = true ∧
      (tsc.bar (tsc.keyFor 0 1 2)).eng (tsc.bar (tsc.keyFor 0 1 2)).p < 255 ∧ MayHandOff tsc 0 (rowOf (.mxWin xx)) xx) :=
  ⟨⟨_, rfl, by decide, mayHandOff_of (by decide)⟩, ⟨_, rfl, by decide, by decide, mayHandOff_of (by decide)⟩,
    ⟨_, rfl, by decide, by decide, by decide, mayHandOff_of (by decide)⟩, ⟨_, rfl, by decide, mayHandOff_of (by decide)⟩,
    ⟨_, rfl, by decide, by decide, by decide, mayHandOff_of (by decide)⟩⟩

/-- A bundle and surge request of that core. -/
def surging : State := { withMx { tcore with loop := some { ent 0 with grant := false } } with pkgs := [(0, { surge := [(0, [(0, 0)])] })] }

/-- Where nothing is in uncorrectable error, no element is. -/
theorem sound_of {s : State} (h : s.poison = []) (ck : Nat) (l : List Area) : AreasSound s ck l :=
  fun r _ => by simp [State.frameBad, h, badWord]

theorem test_witness_matrix_engine :
    (∀ c l, AreasSound (withMx c) 0 l) ∧
    (∀ op, op ∈ [2, 3, 4, 5, 7, 8] → (withMx { tcore with mq := [ent op] }).enginesGo 0 = true ∧
      ((withMx { tcore with mq := [ent op] }).core 0).port = none ∧ ((withMx { tcore with mq := [ent op] }).core 0).mq = ent op :: [] ∧
      (ent op).raced = [] ∧ (withMx { tcore with mq := [ent op] }).op? 4 = some engineOp) ∧
    ((∀ n, n ∈ linesOf (ent 6).ra.toNat 49168 → FMap.look ((withMx { tcore with mq := [ent 6] }).core 0).tagV true n = true) ∧ (ent 6).old = [] ∧
      (withMx { tcore with mq := [ent 6] }).frameBad 0 (tcore.spBase + (ent 6).ra.toNat) 49168 = none) ∧
    (256 / 256 ∈ linesOf 0 49168 ∧ FMap.look ((withMx { tcore with mq := [ent 6] }).core 0).tagV true 1 = false) ∧
    ((withMx { tcore with mq := [ent 0] }).enginesGo 0 = true ∧ ((withMx { tcore with mq := [ent 0] }).core 0).loop = none ∧
      ((withMx { tcore with mq := [ent 0] }).core 0).port = none ∧ (ent 0).op ≤ 1) ∧
    ((withMx { tcore with loop := some (ent 0), tagV := [] }).enginesGo 0 = true ∧ (ent 0).raced = [] ∧
      (withMx { tcore with loop := some (ent 0), tagV := [] }).admits 0 0 = true ∧ (ent 0).grant = true ∧
      (withMx { tcore with loop := some (ent 0), tagV := [] }).stepBad 0 (ent 0) = none ∧ (tidOf (ent 0).ta).rows = 1 ∧
      (((withMx { tcore with loop := some (ent 0), tagV := [] }).core 0).status 1).getLsbD 16 = false ∧
      ((withMx { tcore with loop := some (ent 0), tagV := [] }).elem 0 1 0 0).natAbs +
        ((loopProducts false (statusL (((withMx { tcore with loop := some (ent 0), tagV := [] }).core 0).status 1))
          ((withMx { tcore with loop := some (ent 0), tagV := [] }).loopRow 0 (ent 0) 0 0 0)
          ((withMx { tcore with loop := some (ent 0), tagV := [] }).loopRow 0 (ent 0) 1 0 0)).map (fun q => (truncated q).natAbs)).sum < 2 ^ 95) ∧
    (nextSurge (FMap.look (surging.pkg 0).surge [] 0) (FMap.look (surging.pkg 0).lastGrant 255 0) = some (0, 0) ∧
      FMap.look (surging.pkg 0).grants 0 0 % 8 < 4 ∧ (surging.core 0).loop = some { ent 0 with grant := false }) := by
  refine ⟨fun c l => sound_of rfl 0 l, by decide, by decide +kernel, by decide, by decide,
    ⟨by decide, by decide, by decide, by decide, by decide, by decide, by decide, ?_⟩, by decide⟩
  decide +kernel

/-- Fields of a class-10 unit on descriptor 0, base tile 0, barrier 0, identifier 2. -/
def xg : Enc := { form := .extended, a := 1, u := true, w2 := 0x02000000 }
def xgk : Enc := { xg with u := false, msk := 1 }

/-- A core whose descriptor 0 has one level of dimension 2 on tile 0, and an entry of its queue. -/
def score (q : List SigEntry) : Core := { tcore with desc := [(0, { dim := 2, n := 1 })], sq := q }
def sent (op : Nat) : SigEntry :=
  { op := op, opId := 4, bk := 0, ser := 1, upc := 1, ex := 3, dx := { dim := 2, n := 1 }, dy := { dim := 2, n := 1 }, tid := tidF32, ra := 0x01000000 }

theorem test_witness_signature_hand_off :
    (∃ e, sigCaptured (.sigOne xg) tsc 0 = some (xg, e) ∧ sigFault (.sigOne xg) xg tsc 0 e = some (9, 0) ∧
      MayHandOff tsc 0 (rowOf (.sigOne xg)) xg) ∧
    (∃ e, sigCaptured (.sigStepReg xgk) (withMx (score [])) 0 = some (xgk, e) ∧ sigFault (.sigStepReg xgk) xgk (withMx (score [])) 0 e = none ∧
      ((withMx (score [])).bundle 0).executing xgk = 0 ∧ MayHandOff (withMx (score [])) 0 (rowOf (.sigStepReg xgk)) xgk) ∧
    (∃ e, sigCaptured (.sigStat xg) (withMx (score [])) 0 = some (xg, e) ∧ sigFault (.sigStat xg) xg (withMx (score [])) 0 e = none ∧
      ((withMx (score [])).core 0).sq.length < 8 ∧ sigNamesBarrier e.op = false ∧ MayHandOff (withMx (score [])) 0 (rowOf (.sigStat xg)) xg) ∧
    (∃ e, sigCaptured (.sigOne xg) (withMx (score [])) 0 = some (xg, e) ∧ sigFault (.sigOne xg) xg (withMx (score [])) 0 e = none ∧
      sigNamesBarrier e.op = true ∧ ((withMx (score [])).bar (524288)).eng false < 255 ∧ MayHandOff (withMx (score [])) 0 (rowOf (.sigOne xg)) xg) ∧
    (8 ≤ ((withMx (score (List.replicate 8 (sent 7)))).core 0).sq.length ∧
      MayHandOff (withMx (score (List.replicate 8 (sent 7)))) 0 (rowOf (.sigStat xg)) xg ∧
      MayHandOff (withMx (score (List.replicate 8 (sent 7)))) 0 (rowOf (.sigCfg xg)) xg) ∧
    (MayHandOff tsc 0 (rowOf (.sigCfg xg)) xg ∧ MayHandOff (withS [(1, 0x104000)]) 0 (rowOf (.sigCfg xg)) xg ∧
      (0x104000 : DWord).toNat / 2 ^ 13 % 128 = 2 ∧ (0x104000 : DWord).toNat / 2 ^ 20 % 16 = 1 ∧
      0 + ({ dim := 2, n := 1 } : SigDesc).tiles ≤ ((withS [(1, 0x104000)]).core 0).tiles) :=
  ⟨⟨_, rfl, by decide, mayHandOff_of (by decide)⟩, ⟨_, rfl, by decide, by decide, mayHandOff_of (by decide)⟩,
    ⟨_, rfl, by decide, by decide, by decide, mayHandOff_of (by decide)⟩,
    ⟨_, rfl, by decide, by decide, by decide, mayHandOff_of (by decide)⟩, ⟨by decide, mayHandOff_of (by decide), mayHandOff_of (by decide)⟩,
    mayHandOff_of (by decide), mayHandOff_of (by decide), by decide⟩

theorem test_witness_signature_engine :
    (∀ c l, AreasSound (withMx c) 0 l) ∧
    (∀ op, op ∈ [0, 1, 3, 5, 6, 7] → (withMx (score [sent op])).enginesGo 0 = true ∧
      ((withMx (score [sent op])).core 0).sgo = none ∧ ((withMx (score [sent op])).core 0).sq = sent op :: [] ∧
      (sent op).raced = [] ∧ (sent op).reads = [] ∧ (withMx (score [sent op])).sigBad 0 (sent op) = none ∧
      (withMx (score [sent op])).op? 4 = some engineOp) ∧
    (2 ≤ (sent 3).dx.dim ∧ (sent 3).dy.dim = (sent 3).dx.dim ∧
      (∀ n, n < (sent 3).dx.tiles → (((withMx (score [sent 3])).core 0).status ((sent 3).dx.base + n)).getLsbD 16 = false) ∧
      ∀ n, n < (sent 3).dx.dim ^ 1 → signatureTerms (withMx (score [sent 3])) 0 (sent 3) false 1 n = [] ∧
        (signatureStart (sent 3) false ((withMx (score [sent 3])).sigElem 0 (sent 3).dx 1 n)).natAbs < 2 ^ 95) := by
  refine ⟨fun c l => sound_of rfl 0 l, by decide, by decide, by decide, by decide, by decide +kernel⟩

/-! ### Witnesses: the transfer engine -/

/-- Requests of copies, counters and queues. -/
def rt (stage : Stage) (a : Act) : Req := { uid := 0, t := 64, stage := stage, act := a, addr := 64, n := 8, pa := 0xA010 }

/-- Page tables, and that bundle's core. -/
def pagedc (o : Op) : State := { paged o with cores := [(0, tcore)] }
def bulkState (kind op : Nat) (ctr : Option Nat) (l : List Byte) : State :=
  { pagedc (opr 11 (rt .fabric (.bulk kind 128 ctr))) with pkts := [{ pk op l with dst := 0xA010 }] }

theorem test_witness_copies :
    (MayHandOff (withS [(3, 8)]) 0 (rowOf (.xfGet xs)) xs ∧ MemoryAdmitted (withS [(3, 8)]) 0 ∧ ReplayRoom (withS [(3, 8)]) 0 ∧
      copyTrap (withS [(3, 8)]) 0 1 8 0 0 none = some (3, 8)) ∧
    (MayHandOff tsc 0 (rowOf (.xfPut xs)) xs ∧ MemoryAdmitted tsc 0 ∧ ReplayRoom tsc 0 ∧ copyTrap tsc 0 0 0 0 0 none = none ∧ tsc.numbered ∧ (tsc.bundle 0).live ≠ 0) ∧
    (MayHandOff (withS [(2, 65536)]) 0 (rowOf (.xfCpy xs)) xs ∧ MemoryAdmitted (withS [(2, 65536)]) 0 ∧ ReplayRoom (withS [(2, 65536)]) 0 ∧
      copyTrap (withS [(2, 65536)]) 0 2 0 0 65536 none = none) ∧
    (∀ e, e ∈ [(0, 0, none), (1, 1, none), (1, 2, none), (1, 2, some 64)] →
      Delivered (bulkState e.1 e.2.1 e.2.2 [1, 2]) { pk e.2.1 [1, 2] with dst := 0xA010 } (opr 11 (rt .fabric (.bulk e.1 128 e.2.2)))
        (rt .fabric (.bulk e.1 128 e.2.2)) ∧
      (opr 11 (rt .fabric (.bulk e.1 128 e.2.2))).reqs.filter (rt .fabric (.bulk e.1 128 e.2.2)).samePacket = [rt .fabric (.bulk e.1 128 e.2.2)] ∧
      (e.2.1 = 1 → (bulkState e.1 2 e.2.2 [1, 2]).pkts.find? (fun q => q.op == 2 && q.opId == 4 && q.uid == 0 &&
        (bulkState e.1 2 e.2.2 [1, 2]).onLink q) = some { pk 2 [1, 2] with dst := 0xA010 }) ∧ (bulkState e.1 2 e.2.2 [1, 2]).spBad 0 64 8 = none ∧
      (bulkState e.1 e.2.1 e.2.2 [1, 2]).target (some 0) 0xA010 2 = .mem ∧ (bulkState e.1 e.2.1 e.2.2 [1, 2]).memBad 0xA010 8 = none ∧
      ((bulkState e.1 e.2.1 e.2.2 [1, 2]).ctx 0).running = true ∧ (bulkState e.1 e.2.1 e.2.2 [1, 2]).arms = [] ∧ 64 + 8 ≤ 128) ∧
    (MayHandOff ts 0 (rowOf (.xfDrain xu)) xu ∧ MemoryAdmitted ts 0) ∧
    (InProgress (during (opr 11 (rt .wait (.drain 1)))) (opr 11 (rt .wait (.drain 1))) (rt .wait (.drain 1)) ∧
      (during (opr 11 (rt .wait (.drain 1)))).runs 0 = true ∧
      (during (opr 11 (rt .wait (.drain 1)))).strongBefore (opr 11 (rt .wait (.drain 1))) ((opr 11 (rt .wait (.drain 1))).affected (rt .wait (.drain 1))) = false ∧
      ∀ p, p ∈ (during (opr 11 (rt .wait (.drain 1)))).ops → p.ser = 1 → p.cls = 11 → p.opn ≤ 2 → 4 ≤ p.id) := by
  refine ⟨⟨mayHandOff_of (by decide), admitted rfl, room (by decide), by decide⟩,
    ⟨mayHandOff_of (by decide), admitted rfl, room (by decide), by decide, numbered_of_none rfl, by decide⟩,
    ⟨mayHandOff_of (by decide), admitted rfl, room (by decide), by decide⟩, ?_, ⟨mayHandOff_of (by decide), admitted rfl⟩, by simp only [InProgress]; decide⟩
  simp only [List.mem_cons, List.not_mem_nil, or_false, forall_eq_or_imp, forall_eq, Delivered, InProgress]
  refine ⟨?_, ?_, ?_, ?_⟩ <;> (repeat' apply And.intro) <;> decide

/-- Fields of `ctr.arm` with the core's first barrier. -/
def xa : Enc := { form := .extended, d := 3, a := 1, u := true, w2 := 0x40000000 }
/-- An arming that waits. -/
def armed : Arming := { key := ctrKey 0 0, bk := 0, ser := 1, target := 5, bar := none, lvl := 7 }
/-- A push of 16 bytes. -/
def xp : Enc := { form := .extended, a := 1, b := 4, w2 := 0x100 }
/-- A descriptor at 0 of an expert queue: QBASE 4096, rows of 16 bytes, one batch, taken and freed counts. -/
def queueState (put take free : Nat) (o : Op) : State :=
  let s := { pagedc o with cores := [(0, { tcore with tagV := [] })], parts := [(0, { layers := 1, cur := some 0, remap := [(0, 1)] })] }
  s.spWrite 0 64 (bytesOfNat 4 4096 ++ bytesOfNat 2 1 ++ bytesOfNat 2 1 ++ bytesOfNat 8 0 ++ bytesOfNat 8 put ++ bytesOfNat 8 0 ++
    bytesOfNat 8 take ++ bytesOfNat 8 free)
/-- A physical address of the window of core 0's scratchpad, where its place is the descriptor at 64. -/
def pushState (n : Nat) : State :=
  { queueState 0 0 0 (opr 11 (rt .fabric (.push 0))) with pkts := [{ pk 0 (List.replicate n 7) with dst := 0x3C0000000040 }] }
def heldRow : HeldRow := { id := 9, core := 0, desc := 64, slot := 0, data := List.replicate 16 7, opId := 4, uid := 0 }
def armReq : Req := rt .home (.ctr 2 1 none 7)
def takeReq (m v : Nat) : Req := { rt .home (.sys 3 m v 6) with n := 64 }

theorem test_witness_counters :
    ((∀ l, MemoryAdmitted (withS l) 0) ∧ MemoryAdmitted tsc 0) ∧
    (MayHandOff (withS [(1, 4)]) 0 (rowOf (.ctrSet xs)) xs ∧ counterTrap (withS [(1, 4)]) 0 4 = some (3, 4)) ∧
    (MayHandOff (withS [(1, 65536)]) 0 (rowOf (.ctrArm xs)) xs ∧ counterTrap (withS [(1, 65536)]) 0 65536 = some (5, 65536)) ∧
    (MayHandOff (withS [(1, 65528)]) 0 (rowOf (.ctrAdd xs)) xs ∧ counterTrap (withS [(1, 65528)]) 0 65528 = none) ∧
    (MayHandOff tsc 0 (rowOf (.ctrArm xa)) xa ∧ tsc.armsFull 0 = false ∧ counterTrap tsc 0 0 = none ∧ xa.w2.toNat / 2 ^ 16 / 2 ^ 14 = 1 ∧
      tsc.barKey 0 0x4000 = some 524288 ∧ (tsc.bar 524288).eng (tsc.bar 524288).p < 255 ∧ tsc.barKey 0 0x8000 ≠ none) ∧
    (∀ k, k ∈ [0, 1, 2] → InProgress (during (opr 11 (rt .home (.ctr k 1 none 7)))) (opr 11 (rt .home (.ctr k 1 none 7))) (rt .home (.ctr k 1 none 7)) ∧
      ((during (opr 11 (rt .home (.ctr k 1 none 7)))).ctx 0).running = true ∧ (during (opr 11 (rt .home (.ctr k 1 none 7)))).spBad 0 64 8 = none ∧
      (during (opr 11 (rt .home (.ctr k 1 none 7)))).blocked (opr 11 (rt .home (.ctr k 1 none 7))) (rt .home (.ctr k 1 none 7)) false = false ∧
      (during (opr 11 (rt .home (.ctr k 1 none 7)))).inOrder ((during (opr 11 (rt .home (.ctr k 1 none 7)))).transferEngine (opr 11 (rt .home (.ctr k 1 none 7)))) 0 = true ∧
      (during (opr 11 (rt .home (.ctr k 1 none 7)))).counterBehind (opr 11 (rt .home (.ctr k 1 none 7))) (rt .home (.ctr k 1 none 7)) = false ∧
      (during (opr 11 (rt .home (.ctr k 1 none 7)))).arms = [] ∧
      2 ^ 63 ≤ ((during (opr 11 (rt .home (.ctr k 1 none 7)))).ctrValue 0 64 - 1).toNat) ∧
    (Passes tsc 0 (rowOf (.ctrWait xu)) xu ∧ counterTrap tsc 0 0 = none ∧ tsc.ops = [] ∧ tsc.xerrs = [] ∧ tsc.arms = [] ∧
      tsc.fenced (tsc.bundle 0) 11 7 = false) ∧
    (Passes { tsc with arms := [armed] } 0 (rowOf (.ctrWait xu)) xu ∧ armed.ser = 1 ∧ armed.key = ctrKey 0 0 ∧ armed.bar = none ∧ armed.reached = false) := by
  refine ⟨⟨fun _ => admitted rfl, admitted rfl⟩, ⟨mayHandOff_of (by decide), by decide⟩, ⟨mayHandOff_of (by decide), by decide⟩,
    ⟨mayHandOff_of (by decide), by decide⟩, ⟨mayHandOff_of (by decide), by decide⟩, ?_, ⟨passes_of (by decide), by decide⟩, passes_of (by decide), by decide⟩
  simp only [List.mem_cons, List.not_mem_nil, or_false, forall_eq_or_imp, forall_eq, InProgress]
  decide

theorem test_witness_queues :
    (MayHandOff tsc 0 (rowOf (.xqPush xp)) xp ∧ MemoryAdmitted tsc 0 ∧ (∀ l, MemoryAdmitted (withS l) 0) ∧ ReplayRoom tsc 0 ∧ tsc.numbered ∧ xp.w2.toNat / 2 ^ 8 % 2 ^ 24 * 16 = 16 ∧
      pushesOf xp (tsc.bundle 0) ≠ [] ∧
      ∀ p, p ∈ pushesOf xp (tsc.bundle 0) → p.2.1 % 64 = 0 ∧ p.2.2 % 16 = 0 ∧ p.2.2 + 16 ≤ (tsc.core 0).spg * 65536) ∧
    (MayHandOff (withS [(1, 8)]) 0 (rowOf (.xqTake xs)) xs ∧ (8 : DWord).toNat % 64 ≠ 0) ∧
    (MayHandOff (withS [(1, 65536)]) 0 (rowOf (.xqTake xs)) xs ∧ (65536 : DWord).toNat % 64 = 0 ∧ tcore.spg * 65536 < 65536 + 64) ∧
    (MayHandOff (withS [(1, 65472)]) 0 (rowOf (.xqTake xs)) xs ∧ (65472 : DWord).toNat % 64 = 0 ∧ 65472 + 64 ≤ tcore.spg * 65536) ∧
    (∀ m, m ∈ [0, 1, 2] → InProgress (queueState 0 1 0 (opr 11 (takeReq m 0))) (opr 11 (takeReq m 0)) (takeReq m 0) ∧
      (queueState 0 1 0 (opr 11 (takeReq m 0))).spBad 0 64 64 = none ∧
      (queueState 0 1 0 (opr 11 (takeReq m 0))).runs 0 = true ∧ (queueState 0 1 0 (opr 11 (takeReq m 0))).rows = [] ∧
      0 < (queueState 0 1 0 (opr 11 (takeReq m 0))).xqField 0 64 32 8 ∧ 0 = (queueState 0 1 0 (opr 11 (takeReq m 0))).xqField 0 64 40 8 ∧
      (queueState 0 1 0 (opr 11 (takeReq m 0))).freed = []) ∧
    (∀ n, n ∈ [16, 32] → Delivered (pushState n) { pk 0 (List.replicate n 7) with dst := 0x3C0000000040 } (opr 11 (rt .fabric (.push 0))) (rt .fabric (.push 0)) ∧
      (pushState n).target (some 0) 0x3C0000000040 64 = .sp 0 64 ∧ (pushState n).spBad 0 64 64 = none) ∧
    ((pushState 16).xqField 0 64 12 4 % 2 = 0 ∧ (pushState 16).xqField 0 64 4 2 % 512 * 16 = 16 ∧
      (pushState 16).xqField 0 64 0 4 + 128 * (pushState 16).xqField 0 64 6 2 * 16 ≤ ((pushState 16).core 0).spg * 65536) ∧
    (({ pushState 16 with rows := [heldRow] } : State).spBad 0 64 64 = none ∧ ({ pushState 16 with rows := [heldRow] } : State).rows.find? (fun r => r.id == heldRow.id) = some heldRow ∧
      heldRow.slot < 128 * (pushState 16).xqField 0 64 40 8 + 128 * (pushState 16).xqField 0 64 6 2 ∧
      64 + 64 ≤ (pushState 16).xqField 0 64 0 4 ∧ (pushState 16).xqField 0 64 12 4 % 2 = 0 ∧
      (({ pushState 16 with rows := [heldRow] } : State).rows.filter (fun r => r.core == 0 && r.desc == 64 &&
        decide (128 * (pushState 16).xqField 0 64 24 8 ≤ r.slot) && decide (r.slot < 128 * (pushState 16).xqField 0 64 24 8 + 128))).length < 128) := by
  refine ⟨⟨mayHandOff_of (by decide), admitted rfl, fun _ => admitted rfl, room (by decide), numbered_of_none rfl, by decide⟩, ⟨mayHandOff_of (by decide), by decide⟩,
    ⟨mayHandOff_of (by decide), by decide⟩, ⟨mayHandOff_of (by decide), by decide⟩, ?_, ?_, by decide, by decide⟩
  · simp only [List.mem_cons, List.not_mem_nil, or_false, forall_eq_or_imp, forall_eq, InProgress]
    decide
  · simp only [List.mem_cons, List.not_mem_nil, or_false, forall_eq_or_imp, forall_eq, Delivered, InProgress]
    decide

/-- A launch with a collective on group 0: one block of one chunk of 256 bytes from 0 to 4096. -/
def collective (op : Nat) : Launch :=
  { lr := [(2, 0x0001000100000001), (8, BitVec.ofNat 64 (op * 2 ^ 60)), (9, 0), (10, 4096)], ended := [(0, true)], tids := [(0, tidE4m3)] }

/-- The launch of the bundle has that collective, its context is the only member of the group, with a member word. -/
def collState (x : Launch) (w : DWord) (o : Op) : State :=
  let s := pagedc o
  { s with launches := [(1, x)], ctxs := [(0, { s.ctx 0 with group := [(0, 1), (1, w)] })], bundles := [(0, tb)], issuing := some 0 }
def postReq : Req := { uid := 0, t := 64, stage := .home, act := .sys 4 0 0 3 }
def postOp : Op := { opr 11 postReq with launch := 1 }
def posted3 : State :=
  { collState { collective 3 with posted := [0] } 0 (opr 6 (rw .home (.st 1))) with
    posts := [{ lid := 1, chunk := 0, data := List.replicate 256 3, fixed := true }] }

theorem ok_of {ε α : Type} {x : Except ε α} (h : x.isOk = true) : ∃ a, x = .ok a := by
  cases x with
  | error e => simp [Except.isOk, Except.toBool] at h
  | ok a => exact ⟨a, rfl⟩

theorem read_ok : ∃ q, (collState (collective 3) 0 postOp).collRead 0 0 256 = .ok q := ok_of (by decide +kernel)

theorem test_witness_collectives :
    (MayHandOff tsc 0 (rowOf (.collPost xs)) xs ∧ MemoryAdmitted tsc 0 ∧ ReplayRoom tsc 0 ∧ (tsc.launch (tsc.bundle 0).launch).collOp = 0) ∧
    (MayHandOff (collState (collective 3) 0 postOp) 0 (rowOf (.collPost xs)) xs ∧ MemoryAdmitted (collState (collective 3) 0 postOp) 0 ∧
      ReplayRoom (collState (collective 3) 0 postOp) 0 ∧ (collective 3).collOp ≠ 0 ∧ 0 < (collective 3).chunks) ∧
    (∀ x, x ∈ [collective 3, { collective 3 with posted := [0] }] → InProgress (collState x 0 postOp) postOp postReq ∧
      (collState x 0 postOp).runs 0 = true ∧ (collState x 0 postOp).unperformed 1 4 (widthMask 64) = false ∧
      ((collState x 0 postOp).core x.collCore).sgo = none ∧ ((collState x 0 postOp).core x.collCore).port = none) ∧
    (∃ data, SourceBytes (collState (collective 3) 0 postOp) 1 0 data) ∧ (∃ data, SourceBytes (collState (collective 5) 0 postOp) 1 0 data) ∧
    MayPost (collState (collective 3) 0 postOp) 1 0 ∧
    ((collState (collective 3) 0x8000000000000000 postOp).collBroken (collective 3) = true ∧ (collective 3).complete = false ∧
      (collective 3).killed = false ∧ ∃ t, (collState (collective 3) 0x8000000000000000 postOp).collError 1 = .ok t) ∧
    (posted3.partners (posted3.launch 1) = some [(1, { collective 3 with posted := [0] })] ∧ posted3.collBroken (posted3.launch 1) = false ∧
      posted3.post? 1 0 = some { lid := 1, chunk := 0, data := List.replicate 256 3, fixed := true } ∧
      ApartFromSource (posted3.launch 1) 4096 256 ∧ ∃ s', posted3.writePieces 0 [(4096, List.replicate 256 3)] = .ok s') ∧
    (∃ s', posted3.collReach 0 4096 .dst 256 = .ok 0xB000 s' ∧ posted3.target (some 0) 0xB000 256 = .mem ∧ 4096 / 4096 = (4096 + 256 - 1) / 4096) ∧
    ((collective 3).collElem < 4 ∧ (collective 3).resultTid.f.rnd ≠ 0 ∧ (x96Contribution 0 0).isFin = true) := by
  refine ⟨⟨mayHandOff_of (by decide), admitted rfl, room (by decide), by decide⟩,
    ⟨mayHandOff_of (by decide), admitted rfl, room (by decide), by decide, by decide⟩, ?_,
    read_ok.elim (fun q h => ⟨q.2, Or.inr ⟨by decide, q.1, h⟩⟩), ⟨_, Or.inl ⟨by decide, rfl⟩⟩, ?_,
    ⟨by decide, by decide, by decide, ok_of (by decide +kernel)⟩, ⟨by decide +kernel, by decide +kernel, by decide +kernel, Or.inr (by decide), ok_of (by decide +kernel)⟩,
    ⟨_, rfl, by decide, by decide⟩, by decide⟩
  · simp only [List.mem_cons, List.not_mem_nil, or_false, forall_eq_or_imp, forall_eq, InProgress]
    decide
  · refine ⟨by decide, by decide, by decide, by decide, by decide, by decide, ?_, by decide⟩
    intro b _ hb _
    have : b = 0 := by simpa [collective, Launch.collBlocks, Launch.col, FMap.look, FMap.find, State.launch, collState] using hb
    subst this
    decide

/-! ### Witnesses: shards -/

/-- Context 0 and context 256 are the two members of group 0, with records at 2 ^ 24 and one staging frame; page 0 of context 0 is a
shard page of an SST whose entry stands at 0x8000 and whose frame stands at 0xA000. -/
def shardState (sst : Nat) (msgs : List Msg) (o : Op) : State :=
  let s := (pagedc o).memWrite 0x8000 (bytesOfNat 8 (0xA067 + sst * 2 ^ 53))
  { s with ctxs := [(0, { s.ctx 0 with group := [(0, BitVec.ofNat 64 (2 + 0x100 + 2 ^ 36)), (2, 1)] })], msgs := msgs }
def shardLeaf (sst : Nat) : Leaf := { level := 1, word := BitVec.ofNat 64 (0xA067 + sst * 2 ^ 53), at_ := 0x8000 }
def shReq (kind m : Nat) : Req := { uid := 0, t := 64, stage := .walk, act := .sys kind m 0 0, addr := 16, n := 1 }
def shOp (kind m : Nat) : Op := opr 12 (shReq kind m)

theorem test_witness_shard_instructions :
    (MayHandOff ts 0 (rowOf (.shEvict xu)) xu ∧ MayHandOff ts 0 (rowOf (.shTouch xu)) xu) ∧
    (MayHandOff (withS [(1, 0x0010000000000000)]) 0 (rowOf (.pgInval { xs with b := 0 })) { xs with b := 0 } ∧
      canonical 0x0010000000000000 = false ∧ canonical 0 = true) ∧
    (∀ e, e ∈ [(7, 0, 0), (7, 0, 2), (7, 0, 3), (7, 0, 5), (7, 1, 0), (8, 0, 0), (8, 1, 0), (8, 2, 0), (8, 0, 5), (8, 1, 2), (8, 2, 3)] →
      InProgress (shardState e.2.2 [] (shOp e.1 e.2.1)) (shOp e.1 e.2.1) (shReq e.1 e.2.1) ∧ (shardState e.2.2 [] (shOp e.1 e.2.1)).runs 0 = true ∧
      (shardState e.2.2 [] (shOp e.1 e.2.1)).walkBad 0 ((shardState e.2.2 [] (shOp e.1 e.2.1)).sliceOf 0) (microOf 0) 16 = none ∧
      (∃ l u, (shardState e.2.2 [] (shOp e.1 e.2.1)).findLeaf 0 ((shardState e.2.2 [] (shOp e.1 e.2.1)).sliceOf 0) (microOf 0) 16 = some (l, u) ∧
        l.word = (shardLeaf e.2.2).word) ∧
      ShardPage (shardState e.2.2 [] (shOp e.1 e.2.1)) 0 0 (shardLeaf e.2.2) ∧ leafSst (shardLeaf e.2.2).word = e.2.2 ∧
      (shardLeaf e.2.2).grants .write = true) ∧
    ((∀ q, q ∈ ((shardState 0 [] (shOp 8 0)).ctx 0).ranks 0 → ((shardState 0 [] (shOp 8 0)).ctx 0).down 0 q = false) ∧
      ((shardState 0 [] (shOp 8 0)).ctx 0).asked 0 = false ∧ (shardState 0 [] (shOp 8 1)).stagingOpen 0 0 0 = false ∧
      (shardState 0 [] (shOp 8 0)).unperformed 1 4 (widthMask 64) = false ∧ (shardState 3 [] (shOp 7 0)).pageBusy 0 0 = false ∧
      (shardState 3 [] (shOp 7 0)).unperformed 1 4 (widthMask 64) = false) ∧
    ((shardState 0 [] (shOp 7 0)).findLeaf 0 0 (microOf 0) (2 ^ 40) = none ∧ (shardState 0 [] (shOp 7 0)).walkBad 0 0 (microOf 0) (2 ^ 40) = none ∧
      ({ shardState 0 [] (shOp 7 0) with poison := [2 * 0x8000 + 1] } : State).walkBad 0 0 (microOf 0) 16 = some 0x8000 ∧
      (pagedc (shOp 7 0)).walkBad 0 0 (microOf 0) 16 = none ∧
      ∃ l u, (pagedc (shOp 7 0)).findLeaf 0 0 (microOf 0) 16 = some (l, u) ∧ leafKind l.word ≠ 3) ∧
    (∀ lv, lv ∈ [0, 1] → InProgress (during (opr 12 { shReq 9 0 with stage := .home, act := .sys 9 0 lv 0 }))
        (opr 12 { shReq 9 0 with stage := .home, act := .sys 9 0 lv 0 }) { shReq 9 0 with stage := .home, act := .sys 9 0 lv 0 } ∧
      (during (opr 12 { shReq 9 0 with stage := .home, act := .sys 9 0 lv 0 })).runs 0 = true ∧
      (during (opr 12 { shReq 9 0 with stage := .home, act := .sys 9 0 lv 0 })).unperformed 1 4 (widthMask 64) = false ∧
      (during (opr 12 { shReq 9 0 with stage := .home, act := .sys 9 0 lv 0 })).stillThrough 0 16 (lv - 1) 0 (fun _ => true) = false) := by
  refine ⟨⟨mayHandOff_of (by decide), mayHandOff_of (by decide)⟩, ⟨mayHandOff_of (by decide), by decide, by decide⟩, ?_, by decide,
    ⟨by decide, by decide, by decide, by decide, _, _, rfl, by decide⟩, ?_⟩
  · simp only [List.mem_cons, List.not_mem_nil, or_false, forall_eq_or_imp, forall_eq, InProgress, ShardPage]
    refine ⟨?_, ?_, ?_, ?_, ?_, ?_, ?_, ?_, ?_, ?_, ?_⟩ <;>
      exact ⟨by decide, by decide, by decide, ⟨_, _, rfl, by decide⟩, by decide, by decide, by decide⟩
  · simp only [List.mem_cons, List.not_mem_nil, or_false, forall_eq_or_imp, forall_eq, InProgress]
    decide

/-! ### Witnesses: contexts, lanes, messages -/

/-- A bundle at the last word of its clause, and the save or load it may issue. -/
def lastWord : Bundle := { tb with thr := [(0, { th with hdr := headerWord 0 3 5 1 }), (1, { th with hdr := headerWord 0 3 5 1 })], s := [(2, 256)] }
def odd8 : Bundle := { lastWord with s := [(1, 8)] }
/-- A thread of the bundle has arrived at the core's first barrier. -/
def arrivedBar (s : State) : State := { s with bars := [(524288, { arr0 := [64] })] }
def usedBar (s : State) : State := { s with bars := [(524288, { arr0 := [64] })] }

theorem maySave_of {s : State} {bk : Nat} {i : Instr} {x : Enc} (h : handing s bk i x = true) (hw : (s.bundle bk).wf = []) :
    MaySave s bk (rowOf i) x := ⟨mayHandOff_of h, hw⟩

/-- The last request of a save or load, and operations that wait for it. -/
def endReq (phase n : Nat) : Req := { uid := 7, t := 64, stage := .wait, act := .sys 12 phase n 6, addr := 0x100 }
def endOp (opn phase n : Nat) (ws : List RegW) : Op := { opr 6 (endReq phase n) with opn := opn, ws := [{ t := 65, ws := ws }] }
/-- A bundle of one thread of 16 registers, and a record of it whose thread is present. -/
def oneThread : Bundle := { ser := 1, launch := 1, width := 1, allot := 16, thr := [(0, th)], active := 1 }
def oneState (o : Op) : State := { tsc with ops := [o], bundles := [(0, oneThread)] }
def recordWs : List RegW := (List.range 106).map (fun k => .s k (if k = 0x2D8 / 8 then 1 else 0))
def wantedOp : Op := endOp 0x1B 1 0 [.s 0 (BitVec.ofNat 64 (848 * 2 ^ 32 + 2 ^ 8 + 1)), .s 1 (BitVec.ofNat 64 oneThread.recordFields)]

theorem test_witness_context_saves :
    (MayHandOff ts 0 (rowOf (.ctxDrain xu)) xu ∧ InProgress (during (opr 12 (rt .wait (.drain 0)))) (opr 12 (rt .wait (.drain 0))) (rt .wait (.drain 0)) ∧
      (∀ p, p ∈ (during (opr 12 (rt .wait (.drain 0)))).ops → p.ser = 1 → 4 ≤ p.id) ∧
      ((during (opr 12 (rt .wait (.drain 0)))).core 0).mxOpen = [] ∧ ((during (opr 12 (rt .wait (.drain 0)))).core 0).sq = [] ∧
      (during (opr 12 (rt .wait (.drain 0)))).runs 0 = true ∧ (during (opr 12 (rt .wait (.drain 0)))).arms = []) ∧
    (MaySave tsc 0 (rowOf (.ctxSvb xs)) xs ∧ ((tsc.bundle 0).thread (tsc.bundle 0).lead).clo + unitLen xs ≠
      ((tsc.bundle 0).thread (tsc.bundle 0).lead).hdr.toNat % 64 + 1) ∧
    (MaySave (tscb odd8) 0 (rowOf (.ctxSvb xs)) xs ∧ (8 : DWord).toNat % 16 ≠ 0 ∧ odd8.hidden = none ∧ odd8.strayPark = false ∧
      (odd8.thread odd8.lead).clo + unitLen xs = (odd8.thread odd8.lead).hdr.toNat % 64 + 1 ∧ (tscb odd8).arrivedOn odd8 = none) ∧
    (MaySave (arrivedBar (tscb lastWord)) 0 (rowOf (.ctxSvb xs)) xs ∧ (arrivedBar (tscb lastWord)).arrivedOn lastWord = some 0x4000) ∧
    (MaySave (tscb lastWord) 0 (rowOf (.ctxSvb xs)) xs ∧ lastWord.hidden = none ∧ lastWord.strayPark = false ∧ (tscb lastWord).bars = []) ∧
    (MaySave (tscb odd8) 0 (rowOf (.ctxSvd xs)) xs ∧ MaySave (usedBar tsc) 0 (rowOf (.ctxSvd xs)) xs ∧ (usedBar tsc).coreBarUsed 0 = some 0x4000 ∧
      ∀ n, n < 128 → (tsc.bar (tsc.keyFor 0 1 n)).inUse = false) ∧
    (MaySave (tscb odd8) 0 (rowOf (.ctxSvx xs)) xs ∧ MaySave tsc 0 (rowOf (.ctxSvx xs)) xs ∧ MaySave (tscb lastWord) 0 (rowOf (.ctxSvx xs)) xs ∧
      0 + 1 ≤ ((tscb lastWord).core 0).tiles) := by
  refine ⟨⟨mayHandOff_of (by decide), by simp only [InProgress]; decide, by decide, by decide, by decide, by decide, by decide⟩,
    ⟨maySave_of (by decide) (by decide), by decide⟩, ⟨maySave_of (by decide) (by decide), by decide⟩,
    ⟨maySave_of (by decide) (by decide), by decide⟩,
    ⟨maySave_of (by decide) (by decide), by decide⟩, ⟨maySave_of (by decide) (by decide), maySave_of (by decide) (by decide), by decide, by decide⟩,
    maySave_of (by decide) (by decide), maySave_of (by decide) (by decide), maySave_of (by decide) (by decide), by decide⟩

theorem test_witness_context_loads :
    (loadKind (.ctxLdx xs) = some (xs, 0x1F) ∧ MaySave (tscb odd8) 0 (rowOf (.ctxLdx xs)) xs ∧
      MaySave (tscb lastWord) 0 (rowOf (.ctxLdx xs)) xs ∧ 64 ≤ (256 : DWord).toNat ∧ MaySave tsc 0 (rowOf (.ctxLdx xs)) xs ∧
      0 < (tsc.core 0).tiles) ∧
    (loadKind (.ctxLdd xs) = some (xs, 0x1D) ∧ MaySave (usedBar tsc) 0 (rowOf (.ctxLdd xs)) xs ∧ (usedBar tsc).coreBarUsed 0 = some 0x4000) ∧
    AtItsEnd (oneState (endOp 0x1A 0 848 [])) (endOp 0x1A 0 848 []) (endReq 0 848) 0 848 6 ∧
    (AtItsEnd (oneState (endOp 0x1B 1 0 [])) (endOp 0x1B 1 0 []) (endReq 1 0) 1 0 6 ∧
      (oneState (endOp 0x1B 1 0 [])).lengthWanted (endOp 0x1B 1 0 []) 0 6 = none) ∧
    ((oneState wantedOp).lengthWanted wantedOp (recordWord wantedOp.record 8).toNat 6 = some 848 ∧
      recordWord wantedOp.record 0 = BitVec.ofNat 64 (848 * 2 ^ 32 + 2 ^ 8 + wantedOp.recordType)) ∧
    (AtItsEnd (oneState (endOp 0x1B 2 0 recordWs)) (endOp 0x1B 2 0 recordWs) (endReq 2 0) 2 0 6 ∧
      (oneState (endOp 0x1B 2 0 recordWs)).bundleFit 0 oneThread (endOp 0x1B 2 0 recordWs).record = true ∧
      oneThread.live &&& ~~~recordWord (endOp 0x1B 2 0 recordWs).record 0x2D8 = 0 ∧
      hasBit (recordWord (endOp 0x1B 2 0 recordWs).record 0x2D8) 0 = true ∧
      (recordWord (endOp 0x1B 2 0 recordWs).record (threadBlockAt oneThread 0 + 8)).toNat / 2 ^ 8 % 4 = 0) ∧
    (AtItsEnd (oneState (endOp 0x1D 2 0 [])) (endOp 0x1D 2 0 []) (endReq 2 0) 2 0 6 ∧ (oneState (endOp 0x1D 2 0 [])).coreBarUsed 0 = none ∧
      (oneState (endOp 0x1D 2 0 [])).coreRecordFit 0 (endOp 0x1D 2 0 []).record = true) := by
  refine ⟨⟨by decide, maySave_of (by decide) (by decide), maySave_of (by decide) (by decide), by decide, maySave_of (by decide) (by decide), by decide⟩,
    ⟨by decide, maySave_of (by decide) (by decide), by decide⟩, by simp only [AtItsEnd]; decide, ⟨by simp only [AtItsEnd]; decide, by decide⟩,
    by decide +kernel, ⟨by simp only [AtItsEnd]; decide +kernel, by decide +kernel, by decide +kernel, by decide +kernel, by decide +kernel⟩,
    by simp only [AtItsEnd]; decide, by decide, by decide +kernel⟩

/-- A lane that is free. -/
def idle (b : Bundle) : State := { tsc with issuing := none, bundles := [(0, b)] }
def record5 : TrapRec := { code := 5, cnt := 1, eng := 5, upc := 9, threads := 1, detail := 0 }
def report5 (code : Nat) (threads : DWord) (ser : Nat) : Report :=
  { id := 3, bk := 0, ser := ser, code := code, eng := 5, upc := 9, threads := threads, detail := 0 }
def reporting (r : Report) : State := { idle { tb with pend := [record5] } with reports := [r] }
def asleep : Bundle := { tb with thr := [(0, { th with cond := .sleep 1 })], active := 0 }

theorem test_witness_lane_events :
    (MayBegin (idle tb) 0 ∧ tb.pend = []) ∧ ¬ MayBegin tsc 0 ∧
    (MayBegin (idle { tb with pend := [record5] }) 0 ∧ FirstRecord [record5] record5 ∧ (idle { tb with pend := [record5] }).vector 0 ≠ 0xFFFFFFFF) ∧
    (∀ r, r ∈ [report5 5 1 1, report5 6 1 1, report5 5 4 1, report5 5 1 2] → (reporting r).reports.find? (fun q => q.id == r.id) = some r) ∧
    (((reporting (report5 5 1 2)).bundle 0).ser ≠ 2 ∧ (4 : DWord) &&& ((reporting (report5 5 4 1)).bundle 0).live = 0 ∧
      (1 : DWord) &&& ((reporting (report5 5 1 1)).bundle 0).live ≠ 0) ∧
    ((idle asleep).runs 0 = true ∧ (0, { th with cond := .sleep 1 }) ∈ asleep.thr ∧ 1 ≤ (idle asleep).activeCycles 0) := by
  refine ⟨⟨⟨by decide, by decide, by decide, Or.inr ⟨by decide, by decide⟩⟩, by decide⟩, fun h => absurd h.1 (by decide),
    ⟨⟨by decide, by decide, by decide, Or.inr ⟨by decide, by decide⟩⟩, ⟨0, by decide, ?_⟩, by decide⟩, by decide, by decide, by decide⟩
  intro j q h
  match j, h with
  | 0, h => right; simp at h; subst h; exact ⟨rfl, Nat.le_refl 0⟩

/-- A message from the other member about page 0, and the state with it; `w` is the record's words from its second on. -/
def mm (kind rank : Nat) (data : List Byte) : Msg := { id := 2, kind := kind, src := 256, dst := 0, group := 0, page := 0, rank := rank, data := data }
def withMsg (sst : Nat) (m : Msg) (w : List Nat) : State :=
  { (shardState sst [m] (shOp 8 0)).memWrite (2 ^ 24) (w.flatMap (bytesOfNat 8)) with ops := [] }
def notRunning (s : State) : State := { s with ctxs := [(0, { s.ctx 0 with running := false })] }
/-- Two messages of one path, the younger behind the older. -/
def behind : State := { withMsg 0 (mm 0 1 []) [] with msgs := [mm 0 1 [], { mm 0 1 [] with id := 3 }] }
/-- The package of rank 1 is down on member 0. -/
def rankDown (s : State) : State :=
  { s with ctxs := [(0, { s.ctx 0 with group := [(0, BitVec.ofNat 64 (2 + 0x100 + 2 ^ 36)), (2, 0x8000000000000001)] })] }
def sacking (w : DWord) : State :=
  let s := withMsg 4 (mm 7 1 []) []
  { s with ctxs := [(0, { s.ctx 0 with sacks := [(0, w)] })] }

/-- A message that is found, that none stands before and of which no flit waits may be received. -/
theorem pending_of {s : State} {m : Msg} {k : Nat} (h : (s.msgs.find? (fun q => q.id == m.id && q.kind == k) == some m && !s.msgBehind m &&
    (s.pkg (pkgOfCtx m.src)).outbox.isEmpty) = true) : Pending s m k := by
  simp only [Bool.and_eq_true, beq_iff_eq, Bool.not_eq_true', List.isEmpty_iff] at h
  exact ⟨h.1.1, h.1.2, fun _ f hf => by simp [h.2] at hf⟩

theorem pending_each : ∀ k, k ∈ [0, 1, 2, 4, 5, 7, 8] → Pending (withMsg 0 (mm k 1 []) []) (mm k 1 []) k := by
  simp only [List.mem_cons, List.not_mem_nil, or_false, forall_eq_or_imp, forall_eq]
  exact ⟨pending_of (by decide), pending_of (by decide), pending_of (by decide), pending_of (by decide), pending_of (by decide),
    pending_of (by decide), pending_of (by decide)⟩

theorem test_witness_shard_messages :
    (OnItsWay behind { mm 0 1 [] with id := 3 } 0 ∧ behind.msgBehind { mm 0 1 [] with id := 3 } = true) ∧
    (∀ k, k ∈ [0, 1, 2, 4, 5, 7, 8] → Pending (withMsg 0 (mm k 1 []) []) (mm k 1 []) k) ∧
    ((withMsg 0 (mm 0 1 []) [0, 3, 2 ^ 63 + 5]).recordOpen 0 0 0 = false ∧ (withMsg 0 (mm 0 1 []) []).recordOpen 0 0 0 = true ∧
      (withMsg 0 (mm 0 1 []) []).word (2 ^ 24 + 24) / 2 ^ 0 % 2 = 0 ∧ ((withMsg 0 (mm 0 1 []) []).ctx 0).down 0 0 = false ∧
      (withMsg 0 (mm 0 1 []) []).word (2 ^ 24 + 8) % 8 = 0 ∧ (withMsg 0 (mm 0 1 []) [5, 3]).word (2 ^ 24 + 8) % 2 ^ 32 = 3) ∧
    (((notRunning (withMsg 0 (mm 1 1 []) [])).ctx 0).running = false ∧ ((withMsg 0 (mm 1 1 []) []).ctx 0).running = true) ∧
    ((withMsg 0 (mm 2 1 []) []).rankIn 0 0 = some 0 ∧ (withMsg 0 (mm 2 1 []) [0, 3, 2 ^ 63, 0, 2 ^ 63]).stagingOpen 0 0 0 = true ∧
      (withMsg 0 (mm 2 1 []) []).stagingOpen 0 0 0 = false ∧ hasBit (FMap.look ((withMsg 0 (mm 2 1 []) []).ctx 0).got 0 0) 0 = false ∧
      ShardPage (withMsg 0 (mm 2 1 []) []) 0 0 (shardLeaf 0) ∧ ¬ GatheredWith (withMsg 0 (mm 2 1 []) []) 0 0 0 0 ∧
      NoneDown (withMsg 0 (mm 2 1 []) []) 0 0 ∧ ((rankDown (withMsg 0 (mm 2 1 []) [])).ctx 0).down 0 1 = true ∧
      (rankDown (withMsg 0 (mm 2 1 []) [])).rankIn 0 0 = some 0 ∧
      hasBit (FMap.look ((rankDown (withMsg 0 (mm 2 1 []) [])).ctx 0).got 0 0) 1 = false) ∧
    (Pending (withMsg 1 (mm 3 1 [1, 2]) []) (mm 3 1 [1, 2]) 3 ∧ ShardPage (withMsg 1 (mm 3 1 [1, 2]) []) 0 0 (shardLeaf 1) ∧
      NoneDown (withMsg 1 (mm 3 1 [1, 2]) []) 0 0 ∧ leafSst (shardLeaf 1).word ≤ 1 ∧ 256 * unitFrom 2 1 + 2 ≤ 8192) ∧
    ((withMsg 0 (mm 4 1 []) []).word (2 ^ 24 + 16) ≠ tagFor 0 ∧ (withMsg 0 (mm 4 1 []) [0, 3, 2 ^ 63]).word (2 ^ 24 + 16) = tagFor 0 ∧
      (withMsg 0 (mm 4 1 []) [0, 3, 2 ^ 63, 1]).word (2 ^ 24 + 24) / 2 ^ 0 % 2 = 1 ∧ (withMsg 0 (mm 4 1 []) [0, 3, 2 ^ 63, 1]).word (2 ^ 24 + 8) % 8 ≠ 0 ∧
      (withMsg 0 (mm 4 1 []) [0, 3, 2 ^ 63, 1]).word (2 ^ 24 + 32) / 2 ^ 63 = 0) ∧
    (Pending (withMsg 0 (mm 6 1 (List.replicate 16 0)) [0, 3, 2 ^ 63, 0, 2 ^ 63]) (mm 6 1 (List.replicate 16 0)) 6 ∧
      (withMsg 0 (mm 6 1 (List.replicate 16 0)) [0, 3, 2 ^ 63, 0, 2 ^ 63]).stagingOpen 0 0 0 = true ∧
      (withMsg 0 (mm 6 1 (List.replicate 16 0)) [0, 3, 2 ^ 63, 0, 2 ^ 63]).word (2 ^ 24 + 40) / 2 ^ 0 % 2 = 0 ∧
      NoneDown (withMsg 0 (mm 6 1 (List.replicate 16 0)) [0, 3, 2 ^ 63, 0, 2 ^ 63]) 0 0 ∧
      (withMsg 0 (mm 6 1 []) [0, 3, 2 ^ 63 + 5]).openStaging 0 0 0 = none) ∧
    (Pending (sacking 3) (mm 7 1 []) 7 ∧ FMap.find ((sacking 3).ctx 0).sacks 0 = some 3 ∧ (3 : DWord) &&& ~~~bitMask 1 ≠ 0 ∧
      FMap.find ((sacking 2).ctx 0).sacks 0 = some 2 ∧ (2 : DWord) &&& ~~~bitMask 1 = 0 ∧ leafSst (shardLeaf 4).word = 4 ∧ ShardPage (sacking 2) 0 0 (shardLeaf 4) ∧
      RecordApart (shardLeaf 4) ((sacking 2).recordAt 0 0 0) ∧ (sacking 2).stagingOpen 0 0 0 = false) ∧
    (ShardPage (withMsg 2 (mm 8 1 []) []) 0 (pageOf 16) (shardLeaf 2) ∧ ShardPage (withMsg 3 (mm 8 1 []) []) 0 (pageOf 16) (shardLeaf 3) ∧
      (withMsg 2 (mm 8 1 []) []).pageBusy 0 (pageOf 16) = false ∧ (withMsg 3 (mm 8 1 []) []).pageBusy 0 (pageOf 16) = false ∧
      pageOf 16 ∉ ((withMsg 2 (mm 8 1 []) []).ctx 0).props) := by
  refine ⟨by simp only [OnItsWay]; decide, pending_each, by decide +kernel, by decide,
    ⟨by decide, by decide +kernel, by decide, by decide, by simp only [ShardPage]; decide, ?_, by simp only [NoneDown]; decide, by decide, by decide, by decide⟩,
    ⟨pending_of (by decide), by simp only [ShardPage]; decide, by simp only [NoneDown]; decide, by decide, by decide⟩, by decide,
    ⟨pending_of (by decide), by decide, by decide, by simp only [NoneDown]; decide, by decide⟩,
    ⟨pending_of (by decide), by decide, by decide, by decide, by decide, by decide, by simp only [ShardPage]; decide,
      Or.inl (by decide), by decide⟩,
    by simp only [ShardPage]; decide, by simp only [ShardPage]; decide, by decide, by decide, by decide⟩
  intro h
  exact absurd (h 1 (by decide) (by decide)) (by decide)

/-! ### Witnesses: command queues and launches -/

/-- Queue 0 of function 0 has some words fetched from count 0 on, and its tail past them. -/
def queueOf (ws : List DWord) : Queue :=
  { en := true, tail := BitVec.ofNat 64 (8 * ws.length), base := 0x1000
    fetched := (ws.zipIdx.flatMap (fun (e : DWord × Nat) => (List.range 8).map (fun j => (8 * (8 * e.2 + j), ((e.1 >>> (8 * j)).truncate 8 : Byte))))) }
def fnState (x : Queue) : State :=
  { (pagedc (opr 6 (rw .home (.st 1)))).memWrite 0x8008 (bytesOfNat 8 0xC00F) with ops := [], issuing := none, fns := [(0, { q := [(0, x)] })], pkgs := [(0, { hbm := [(0, { inService := true })] })] }
def packets (ws : List DWord) : State := fnState (queueOf ws)

/-- What `PacketBegins` and `FetchedPacket` ask of such a state, computed. -/
def ready (ws : List DWord) : Bool :=
  (packets ws).queueTurns 0 0 && (packets ws).firstQueue 0 0 && !ws.isEmpty && pkWords (ws.getD 0 0) == some ws.length &&
    decide ((queueOf ws).pos + 8 * ws.length ≤ (queueOf ws).tail.toNat) && packetFaults (queueOf ws) ws 0 none == [] &&
    !(packets ws).queueBusy 0 0 && (List.range ws.length).all (fun i => (List.range 8).all (fun j =>
      FMap.find (queueOf ws).fetched (8 * (8 * i + j)) == some ((ws.getD i 0 >>> (8 * j)).truncate 8)))

theorem packets_of {ws : List DWord} (h : ready ws = true) : QueueTurns (packets ws) 0 0 ∧ FetchedPacket (queueAt (packets ws) 0 0) ws ∧
    (queueAt (packets ws) 0 0).signal = none ∧ Unfinished (queueAt (packets ws) 0 0) (8 * ws.length) ∧ (packets ws).queueBusy 0 0 = false ∧
    (packets ws).firstQueue 0 0 = true := by
  have hq : queueAt (packets ws) 0 0 = queueOf ws := rfl
  have hl : (queueOf ws).levels = [] := rfl
  simp only [ready, Bool.and_eq_true, Bool.not_eq_true', decide_eq_true_eq, beq_iff_eq, List.all_eq_true, List.mem_range] at h
  obtain ⟨⟨⟨⟨⟨⟨⟨h1, hf⟩, h2⟩, h3⟩, h4⟩, h5⟩, h6⟩, h7⟩ := h
  refine ⟨⟨by decide, h1, fun l r e => ?_⟩, ⟨hq ▸ hl, rfl, ?_, h3, h4, fun i j hi hj => ?_, h5⟩, rfl, fun l r e => ?_, h6, hf⟩
  · rw [hq, hl] at e
    cases e
  · rintro rfl
    simp at h2
  · rw [hq]
    have : (queueOf ws).pos = 0 := rfl
    rw [this, Nat.zero_add]
    exact h7 i hi j hj
  · rw [hq, hl] at e
    cases e

/-- NOP, FETCHFENCE, INDIRECT, LOOP of no and of two passes, GRAPH, PRED in wait and skip mode, COPY of 0 and of 16 bytes, SIGNAL without
and with a record. -/
theorem test_witness_packets_begin : ∀ ws, ws ∈ [[0], [0x6000000000000000], [0x3000000000000008, 0x100], [0x5000000000000010, 0],
      [0x5000000000000008, 2], [0x7000000000000000, 0x100], [0x4000000000000000, 0x100, 0, 0], [0x4100000000000000, 0x100, 1, 0xFF],
      [0x2000000000000000, 0x100, 0x200], [0x2000000000000010, 0x100, 0x2200], [0x8000000000000000, 0x100, 5], [0x8100000000000001, 0x100, 5]] →
    QueueTurns (packets ws) 0 0 ∧ FetchedPacket (queueAt (packets ws) 0 0) ws ∧ (queueAt (packets ws) 0 0).signal = none ∧
      Unfinished (queueAt (packets ws) 0 0) (8 * ws.length) ∧ (packets ws).queueBusy 0 0 = false ∧ (packets ws).firstQueue 0 0 = true := by
  intro ws h
  have : ([[0], [0x6000000000000000], [0x3000000000000008, 0x100], [0x5000000000000010, 0],
      [0x5000000000000008, 2], [0x7000000000000000, 0x100], [0x4000000000000000, 0x100, 0, 0], [0x4100000000000000, 0x100, 1, 0xFF],
      [0x2000000000000000, 0x100, 0x200], [0x2000000000000010, 0x100, 0x2200], [0x8000000000000000, 0x100, 5],
      [0x8100000000000001, 0x100, 5]] : List (List DWord)).all ready = true := by decide +kernel
  exact packets_of (List.all_eq_true.1 this ws h)

/-- The state past a packet of some words, with its page tables. -/
def pastOf (ws : List DWord) : State := pastPacket (packets ws) 0 0 (8 * ws.length)
def reached (r : Reach) (pa : Nat) (p : State → Bool) : Bool :=
  match r with
  | .ok a s => a == pa && p s
  | _ => false

theorem reached_of {r : Reach} {pa : Nat} {p : State → Bool} (h : reached r pa p = true) : ∃ s, r = .ok pa s ∧ p s = true := by
  cases r <;> simp_all [reached]

/-- A packet of an unknown kind, and its error. -/
theorem test_witness_packet_error : QueueTurns (packets [0xF000000000000000]) 0 0 ∧ (packets [0xF000000000000000]).nextPacket 0 0 = Next.error 1 false ∧
    (queueAt (packets [0xF000000000000000]) 0 0).signal = none ∧ (packets [0xF000000000000000]).firstQueue 0 0 = true :=
  ⟨⟨by decide, by decide, fun l r e => by cases (show ([] : List Level) = l :: r from e)⟩, rfl, by decide, by decide⟩

/-- What a COPY, a SIGNAL, a PRED and a GRAPH reach. -/
theorem test_witness_packet_addresses :
    (∃ v, (pastOf [0x2000000000000010, 0x100, 0x2200]).collReach 0 0x100 .src 16 = .ok 0xA100 v ∧ v.target (some 0) 0xA100 16 = .mem ∧
      v.memBad 0xA100 16 = none ∧ ∃ y, v.collReach 0 0x2200 .dst 16 = .ok 0xC200 y ∧ y.target (some 0) 0xC200 16 = .mem) ∧
    (∃ v, (pastOf [0x8100000000000001, 0x100, 5]).shawmReach 0 0x100 .st 8 = .ok 0xA100 v) ∧
    (∃ v a, (pastOf [0x4000000000000000, 0x100, 0, 0]).readVa 0 0x100 = .ok a v) ∧
    (∃ v l, (pastOf [0x7000000000000000, 0x100]).shawmBytes 0 0x100 32 = .ok l v) := by
  obtain ⟨v, hv, hp⟩ := reached_of (p := fun v => v.target (some 0) 0xA100 16 == .mem && v.memBad 0xA100 16 == none &&
    reached (v.collReach 0 0x2200 .dst 16) 0xC200 (fun y => y.target (some 0) 0xC200 16 == .mem))
    (by decide +kernel : reached ((pastOf [0x2000000000000010, 0x100, 0x2200]).collReach 0 0x100 .src 16) 0xA100 _ = true)
  obtain ⟨w, hw, -⟩ := reached_of (p := fun _ => true)
    (by decide +kernel : reached ((pastOf [0x8100000000000001, 0x100, 5]).shawmReach 0 0x100 .st 8) 0xA100 _ = true)
  simp only [Bool.and_eq_true, beq_iff_eq] at hp
  obtain ⟨y, hy, hz⟩ := reached_of hp.2
  exact ⟨⟨v, hv, hp.1.1, hp.1.2, y, hy, by simpa using hz⟩, ⟨w, hw⟩, ⟨_, _, rfl⟩, _, _, rfl⟩

/-- Queues that poll and skip, and queue registers. -/
def polling : Queue := { queueOf [0] with polling := some { va := 0x100, value := 0, mask := 0, cmp := 0, since := 0 } }
def skipping : Queue := { queueOf [0] with skip := 8 }

theorem test_witness_queue_events :
    (QueueTurns { fnState polling with cycle := 231 } 0 0 ∧ (queueAt { fnState polling with cycle := 231 } 0 0).skip = 0 ∧
      (queueAt { fnState polling with cycle := 231 } 0 0).polling = some { va := 0x100, value := 0, mask := 0, cmp := 0, since := 0 } ∧
      ∃ a v, ({ fnState polling with cycle := 231 } : State).readVa 0 0x100 = .ok a v) ∧
    (QueueTurns (fnState skipping) 0 0 ∧ pkWords (0 : DWord) = some 1 ∧ (queueAt (fnState skipping) 0 0).skip = 8 * 1 ∧
      (queueAt (fnState skipping) 0 0).here.2.1 + 8 * 1 ≤ (queueAt (fnState skipping) 0 0).tail.toNat ∧
      ∃ w v, (fnState skipping).fetchWord 0 0 (queueAt (fnState skipping) 0 0).here.1 (queueAt (fnState skipping) 0 0).here.2.1 = .ok w v) ∧
    ((queueAt (packets [0]) 0 0).owes = [] ∧ 0 + 8 ≤ min (queueAt (packets [0]) 0 0).tail.toNat (queueAt (packets [0]) 0 0).tail.toNat ∧
      ∃ w v, (packets [0]).readVa 0 ((queueAt (packets [0]) 0 0).va true 0) = .ok w v) ∧
    ((queueAt (packets [0]) 0 0).en = true ∧ (queueAt (packets [0]) 0 0).err = false ∧
      4096 * 2 ^ (queueAt (packets [0]) 0 0).size < (BitVec.ofNat 64 4104 - (queueAt (packets [0]) 0 0).head).toNat ∧
      (BitVec.ofNat 64 4096 - (queueAt (packets [0]) 0 0).head).toNat ≤ 4096 * 2 ^ (queueAt (packets [0]) 0 0).size) ∧
    ((queueAt (fnState {}) 0 0).en = false ∧ 0xC01 % 2 = 1 ∧ 0xC01 / 2 ^ 8 % 16 < 13 ∧ 13 ≤ 0xD01 / 2 ^ 8 % 16) := by
  refine ⟨⟨⟨by decide, by decide, fun l r e => by cases (show ([] : List Level) = l :: r from e)⟩, by decide, by decide, _, _, rfl⟩,
    ⟨⟨by decide, by decide, fun l r e => by cases (show ([] : List Level) = l :: r from e)⟩, by decide, by decide, by decide, _, _, rfl⟩,
    ⟨by decide, by decide, _, _, rfl⟩, by decide, by decide⟩

/-- The words of a LAUNCH at code 0x100 with a completion pointer: one block of one thread, W 16, A 16, and a partition with one granule of
registers; its kernel header says the same of a body of one word. -/
def askWords (cptr : Nat) (grid : DWord) : List DWord :=
  [0x1000000000000000, 0x100, 0, grid, 0x0000000100010001, 0x0000000100000200, 0x101, 0, BitVec.ofNat 64 cptr] ++ List.replicate 8 0
def asking (cptr : Nat) (grid : DWord) : State :=
  (packets (askWords cptr grid)).memWrite 0xA100 (bytesOfNat 8 0x0000000100000200 ++ bytesOfNat 8 0xFFFFFFFF ++ bytesOfNat 8 1)
def grid1 : DWord := 0x0001000100000001
def askedOf (cptr : Nat) (grid : DWord) : Launch := askedLaunch (queueAt (asking cptr grid) 0 0) 0 0 (askWords cptr grid)
def pastAsk (cptr : Nat) (grid : DWord) : State := pastPacket (asking cptr grid) 0 0 (8 * (askWords cptr grid).length)

/-- The faults of a launch once its header is read, and whether it could be. -/
def launchFaults (s : State) (x : Launch) : Option (List Nat) :=
  match s.readHeader x with
  | .ok (z, bad, readable, e) => some (e.recordFaults z ++ (if readable then z.headerFaults bad else [0]))
  | .error _ => none

theorem launchFaults_of {s : State} {x : Launch} {l : List Nat} (h : launchFaults s x = some l) : ∃ z bad readable e,
    s.readHeader x = .ok (z, bad, readable, e) ∧ e.recordFaults z ++ (if readable then z.headerFaults bad else [0]) = l := by
  unfold launchFaults at h
  split at h
  · next z b r e hz => exact ⟨z, b, r, e, hz, by simpa using h⟩
  · cases h

/-- A LAUNCH whose CPTR is not a multiple of 32, one that passes every check, with and without CPTR, and one with no block. -/
theorem test_witness_launches :
    (∀ c, c ∈ [0x108, 0, 0x1000] → ready (askWords c grid1) = true ∧ (asking c grid1).queueTurns 0 0 = true ∧
      (asking c grid1).firstQueue 0 0 = true ∧
      pkKind ((askWords c grid1).getD 0 0) = 1 ∧ (queueAt (asking c grid1) 0 0).signal = none) ∧ (askedOf 0x108 grid1).word 7 % 32 ≠ 0 ∧
    (∃ z bad readable e, (pastAsk 0 grid1).readHeader (askedOf 0 grid1) = .ok (z, bad, readable, e) ∧
      e.recordFaults z ++ (if readable then z.headerFaults bad else [0]) = []) ∧
    (∃ z bad readable e, (pastAsk 0 0).readHeader (askedOf 0 0) = .ok (z, bad, readable, e) ∧
      e.recordFaults z ++ (if readable then z.headerFaults bad else [0]) ≠ []) ∧
    (∃ v, (pastAsk 0x1000 0).shawmReach 0 0x1000 .st 32 = .ok 0xB000 v ∧ (askedOf 0x1000 0).word 7 ≠ 0) := by
  refine ⟨by decide +kernel, by decide +kernel, launchFaults_of (by decide +kernel), ?_, ?_⟩
  · obtain ⟨z, b, r, e, h, hl⟩ := launchFaults_of (s := pastAsk 0 0) (x := askedOf 0 0) (l := [2]) (by decide +kernel)
    exact ⟨z, b, r, e, h, by rw [hl]; simp⟩
  · obtain ⟨v, h, -⟩ := reached_of (p := fun _ => true) (by decide +kernel : reached ((pastAsk 0x1000 0).shawmReach 0 0x1000 .st 32) 0xB000 _ = true)
    exact ⟨v, h, by decide +kernel⟩

/-- A launch of one block that is not placed, on a partition of two cores, of which none, one or both hold a bundle under another partition
word. -/
def toPlace (n : Nat) : State :=
  { tsc with issuing := none, launches := [(1, { lr := (askedOf 0 grid1).lr })],
             parts := [(0, { layers := 1, cur := some 0, remap := [(0, 1), (1, 0x41)] })],
             bundles := ((List.range n).map (fun k => (512 * k, { oneThread with ser := 7 + k, launch := 9 }))),
             cores := [(0, tcore), (1, tcore)] }

theorem test_witness_placement :
    (((toPlace 0).ctx 0).running = true ∧ (toPlace 0).nextLaunch 0 = some 1 ∧ 1 < (toPlace 0).coresOf (partOfCtx 0) ∧
      (toPlace 0).planAt ((toPlace 0).launch 1) 0 = some [0] ∧ ((toPlace 0).launch 1).bundles = 1) ∧
    ((toPlace 1).nextLaunch 0 = some 1 ∧ (toPlace 1).planAt ((toPlace 1).launch 1) 0 = none ∧ (toPlace 1).anyPlan ((toPlace 1).launch 1) = true) ∧
    ((toPlace 2).nextLaunch 0 = some 1 ∧ (toPlace 2).anyPlan ((toPlace 2).launch 1) = false) := by
  decide +kernel

def claimReq (phase k : Nat) : Req := { uid := 0, t := 64, stage := if phase = 0 then .home else .fabric, act := .sys 11 0 phase k, addr := 0, n := 16 }
def claimOp (phase k : Nat) : Op := { opr 11 (claimReq phase k) with launch := 1 }
def claiming (next phase k : Nat) : State :=
  { during (claimOp phase k) with launches := [(1, { lr := (askedOf 0 grid1).lr, next := next })] }
/-- Its launch when its only block has ended. -/
def finished : State := { claiming 1 0 0 with bundles := [], ops := [], issuing := none }

theorem test_witness_claims_and_completion :
    (MayHandOff (withS [(1, 8)]) 0 (rowOf (.fetchwk xs)) xs ∧ (∀ l, MemoryAdmitted (withS l) 0) ∧ (8 : DWord).toNat % 16 ≠ 0) ∧
    (MayHandOff (withS [(1, 65536)]) 0 (rowOf (.fetchwk xs)) xs ∧ tcore.spg * 65536 < 65536 + 16) ∧
    (MayHandOff (withS [(1, 65520)]) 0 (rowOf (.fetchwk xs)) xs ∧ 65520 % 16 = 0 ∧ 65520 + 16 ≤ tcore.spg * 65536) ∧
    (∀ n, n ∈ [0, 1] → InProgress (claiming n 0 0) (claimOp 0 0) (claimReq 0 0) ∧ (claiming n 0 0).runs 0 = true ∧
      ((claiming n 0 0).launch 1).killed = false ∧ (claiming n 0 0).launch 1 = { lr := (askedOf 0 grid1).lr, next := n }) ∧
    (0 < ((claiming 0 0 0).launch 1).blocks ∧ ¬ 1 < ((claiming 1 0 0).launch 1).blocks) ∧
    InProgress (claiming 1 1 1) (claimOp 1 1) (claimReq 1 1) ∧ (finished.launchOver 1 = true ∧ (finished.launch 1).word 7 = 0) := by
  refine ⟨⟨mayHandOff_of (by decide), fun _ => admitted rfl, by decide⟩, ⟨mayHandOff_of (by decide), by decide⟩,
    ⟨mayHandOff_of (by decide), by decide⟩, ?_, by decide +kernel, by simp only [InProgress]; decide +kernel, by decide +kernel⟩
  intro n h
  simp only [List.mem_cons, List.not_mem_nil, or_false] at h
  rcases h with rfl | rfl <;> (simp only [InProgress]; exact ⟨by decide +kernel, by decide +kernel, by decide +kernel, rfl⟩)

/-! ### Witnesses: the firmware complex -/

/-- A firmware core with uniform registers, its package on. -/
def fsS (l : FMap DWord) : State := { fs with bundles := [(fwKey0, { fb with s := l })], pkgs := [(0, {})] }
def fwOp (r : Req) : Op := { id := 4, bk := fwKey0, ser := 1, cls := 12, flag := some 3, upc := 1, ex := 1, reqs := [r] }
def fwDuring (r : Req) : State := { fsS [] with ops := [fwOp r] }
def leaseReq (want : Nat) : Req := { uid := 0, t := 64, stage := .home, act := .sys 10 want 0 6, addr := 0x3F0000000000, n := 8 }
def measureReq (n a : Nat) : Req := { uid := 0, t := 64, stage := .home, act := .sys 13 n 0 0, addr := a, n := 1 }

theorem test_witness_lease :
    (MayHandOff ts 0 (rowOf (.leaseCas xs)) xs ∧ isFw 0 = false) ∧
    (MayHandOff (fsS []) fwKey0 (rowOf (.leaseCas xs)) xs ∧ isFw fwKey0 = true ∧ (((fsS []).bundle fwKey0).sreg 1).toNat ≠ 0x3F0000000000) ∧
    (MayHandOff (fsS [(1, 0x3F0000000000)]) fwKey0 (rowOf (.leaseCas xs)) xs ∧
      (((fsS [(1, 0x3F0000000000)]).bundle fwKey0).sreg 1).toNat = 0x3F0000000000) ∧
    (∀ w, w ∈ [31 * 2 ^ 59, 5] → InProgress (fwDuring (leaseReq w)) (fwOp (leaseReq w)) (leaseReq w) ∧ (fwDuring (leaseReq w)).runs fwKey0 = true ∧
      ∀ p, p ∈ (fwDuring (leaseReq w)).ops → p.ser = 1 → 4 ≤ p.id) ∧
    (((fwDuring (leaseReq 5)).pkg 0).lease.toNat = 31 * 2 ^ 59 ∧ Lapsed ((fwDuring (leaseReq 5)).pkg 0).lease 0) := by
  refine ⟨⟨mayHandOff_of (by decide), by decide⟩, ⟨mayHandOff_of (by decide), by decide, by decide⟩, ⟨mayHandOff_of (by decide), by decide⟩, ?_,
    by decide, Or.inl (by decide)⟩
  simp only [List.mem_cons, List.not_mem_nil, or_false, forall_eq_or_imp, forall_eq, InProgress]
  decide

theorem test_witness_measure :
    MayHandOff ts 0 (rowOf (.measure xs)) xs ∧ MayHandOff (fsS []) fwKey0 (rowOf (.measure xs)) xs ∧
    (InProgress (fwDuring (measureReq 2 0)) (fwOp (measureReq 2 0)) (measureReq 2 0) ∧ (fwDuring (measureReq 2 0)).runs fwKey0 = true ∧
      (fwDuring (measureReq 2 0)).unperformed 1 4 (widthMask 64) = false ∧
      ∀ j, j < 2 → (fwDuring (measureReq 2 0)).measuredByte (fwOp (measureReq 2 0)) (0 + j) = .ok (([0, 0] : List Byte).getD j 0)) ∧
    (InProgress (fwDuring (measureReq 1 (2 ^ 45))) (fwOp (measureReq 1 (2 ^ 45))) (measureReq 1 (2 ^ 45)) ∧
      ∃ c d, (fwDuring (measureReq 1 (2 ^ 45))).measuredByte (fwOp (measureReq 1 (2 ^ 45))) (2 ^ 45 + 0) = .error (c, d)) := by
  refine ⟨mayHandOff_of (by decide), mayHandOff_of (by decide), ⟨by simp only [InProgress]; decide, by decide, by decide, ?_⟩,
    by simp only [InProgress]; decide, _, _, rfl⟩
  intro j hj
  match j, hj with
  | 0, _ => rfl
  | 1, _ => rfl

theorem test_witness_wfe :
    (Passes ts 0 (rowOf (.wfe xs)) xs ∧ isFw 0 = false) ∧ (Passes (fsS []) fwKey0 (rowOf (.wfe xs)) xs ∧ ((fsS []).bundle fwKey0).sreg 1 = 0) ∧
    (Passes (fsS [(1, 6)]) fwKey0 (rowOf (.wfe xs)) xs ∧ ((fsS [(1, 6)]).bundle fwKey0).sreg 1 ≠ 0 ∧ FMap.look ((fsS [(1, 6)]).pkg 0).evt 0 0 &&& 6 = 0) ∧
    (Passes { fsS [(1, 6)] with pkgs := [(0, { evt := [(0, 2)] })] } fwKey0 (rowOf (.wfe xs)) xs ∧ (2 : DWord) &&& 6 ≠ 0 ∧
      (FMap.find (({ fsS [(1, 6)] with pkgs := [(0, { evt := [(0, 2)] })] } : State).bundle fwKey0).thr 0).isSome = true) :=
  ⟨⟨passes_of (by decide), by decide⟩, ⟨passes_of (by decide), by decide⟩, ⟨passes_of (by decide), by decide, by decide⟩,
    passes_of (by decide), by decide, by decide⟩

/-- A package that is on, at a cycle. -/
def pkgState (p : Pkg) (cycle : Nat) : State := { pkgs := [(0, p)], cycle := cycle }

theorem test_witness_firmware_events :
    (FMap.find State.reset.pkgs (5 / 16) = none ∧ FMap.find (pkgState {} 3600000).pkgs (5 / 16) ≠ none ∧
      FMap.look ((pkgState {} 3600000).pkg 0).timer 0 5 < 3600000 / 3600000 ∧ 3599999 / 3600000 ≤ FMap.look ((pkgState {} 3599999).pkg 0).timer 0 5) ∧
    (FMap.look ((pkgState {} 0).pkg 0).fwstat 0 5 / 2 % 2 = 0 ∧ FMap.look ((pkgState { fwstat := [(5, 6)] } 0).pkg 0).fwstat 0 5 / 2 % 2 = 1) ∧
    (Lapsed ((pkgState {} 0).pkg 0).lease 0 ∧ ¬ Lapsed (BitVec.ofNat 64 (2 ^ 59 + 100)) 99 ∧ Lapsed (BitVec.ofNat 64 (2 ^ 59 + 100)) 100) ∧
    (NextTo (shardState 0 [] (shOp 8 0)) 0 1 ∧ Machine.Lists (shardState 0 [] (shOp 8 0)) 0 1 0 1) := by
  refine ⟨by decide, by decide, ⟨Or.inl (by decide), by simp only [Lapsed]; decide, by simp only [Lapsed]; decide⟩,
    ⟨0, 1, 0, by simp only [Machine.Lists]; decide, by decide, by decide, Or.inl (by decide)⟩, by simp only [Machine.Lists]; decide⟩

/-- The owner cell that agent 20's proposal decided. -/
def owned : Pkg := { owner1 := BitVec.ofNat 64 ((2 ^ 31 + 2 * 2 ^ 23 + (20 - 16) * 2 ^ 13) * 2 ^ 32 + 3) }

theorem test_witness_management :
    (16 ≤ 16 ∧ ((pkgState { octlBusy := true } 0).pkg 0).octlBusy = true ∧ ((pkgState {} 0).pkg 0).octlBusy = false) ∧
    (((pkgState { octlBusy := true, octlCmd := 1 } 0).pkg 0).octlCmd = 1 ∧ (pkgState { octlBusy := true, octlCmd := 1 } 0).ops = []) ∧
    (∀ w, w ∈ [1, 10, 5, 2, 0] → (w % 8 = 1 ∨ (w % 8 = 2 ∧ w / 2 ^ 3 % 2 ^ 29 ≠ 0) ∨ w % 8 = 5 ∨ (w % 8 ≠ 1 ∧ w / 2 ^ 3 % 2 ^ 29 = 0 ∧ w % 8 ≠ 5))) ∧
    (OwnsPackage owned 20 ∧ ¬ OwnsPackage owned 21 ∧ ¬ OwnsPackage {} 16) := by
  refine ⟨by decide, by decide, by decide, by simp only [OwnsPackage]; decide, by simp only [OwnsPackage]; decide, by simp only [OwnsPackage]; decide⟩

theorem test_witness_register_writes :
    (FMap.find State.reset.pkgs (pkgOfPa 0) = none ∧ (pkgState {} 0).place 0 = .nowhere ∧ (pkgState {} 0).place 0x3C0000000040 = .pool 0 64) ∧
    ((pkgState { hbm := [(0, { inService := true })] } 0).place 0 = .hbm 0 ∧ (pkgState {} 0).place 0x3F0000000138 = .mgmt (0xC0 + 8 * 15) ∧
      (pkgState {} 0).place 0x3F0000000678 = .mgmt (0x600 + 8 * 15) ∧ (pkgState {} 0).place 0x3F0000000020 = .mgmt 0x20 ∧
      (pkgState {} 0).place 0x3E000001F118 = .shawm 1 0xF118) ∧
    ((fsS []).ctx 0).running = false ∧ (ts.ctx 0).running = true ∧ (ts.fn 0).pause = false ∧
    (({ ts with fns := [(0, { pause := true })] } : State).fn 0).pause = true ∧
    (((pkgState {} 17999).pkg 0).period = 0 ∧ 17999 / 18000 ≤ 0 ∧ 0 < 18000 / 18000) := by decide

theorem test_witness_functions_and_slices :
    (ts.fn 0).reset = false ∧
    (({ ts with fns := [(0, { reset := true })] } : State).resetSettled 0 = false ∨ ({ ts with fns := [(0, { reset := true })] } : State).resetSettled 0 = true) ∧
    (({ fns := [(0, { reset := true })] } : State).resetSettled 0 = true ∧ ({ fns := [(0, { reset := true })] } : State).addressed 0 = false) ∧
    ((State.reset.part 0).layers = 0 ∧ FMap.find ts.ctxs (0 * 16 + 1) = none ∧ (ts.part 0).layers ≠ 0 ∧ FMap.find ts.ctxs (0 * 16 + 0) ≠ none ∧
      (ts.part 0).ending = none) ∧
    (({ during (opw [wbv]) with parts := [(0, { layers := 1, cur := some 0, ending := some 16 })] } : State).settled (0 * 16 + 0) = false) ∧
    (({ ts with parts := [(0, { layers := 1, cur := some 0, ending := some 16 })] } : State).settled (0 * 16 + 0) = true) := by
  decide

/-! ### Witnesses: power, training and links -/

/-- A base die that is on with a die of it on, and a domain that changes. -/
def powered : Pkg := { pd := [(0, { state := 2 }), (8, { state := 2 }), (9, { state := 3, goal := 0, since := 0 })] }
def tripped : Pkg := { pd := [(0, { state := 2, tripped := true }), (8, { state := 3, goal := 0 })] }

theorem test_witness_power :
    (domainRequest (.pdReqOff 0 0) = some (0, 0, 0) ∧ BreaksOrder powered 0 0) ∧ (domainRequest (.pdReqOn 0 40) = some (0, 40, 2) ∧ ¬ BreaksOrder powered 40 2) ∧
    (8 ≤ 8 ∧ UnderBase 8 0 ∧ UnderBase 39 7 ∧ ¬ UnderBase 40 0) ∧
    ((powered.domain 9).state = 3 ∧ (powered.domain 9).settle ≤ (0x1000 - 0) * 10 / 9 ∧ ¬ (powered.domain 9).settle ≤ (3600 - 0) * 10 / 9) ∧
    ((tripped.domain 0).tripped = true ∧ (tripped.domain 8).goal = 0 ∧ ∀ k, k ∈ [9, 24, 25] → (tripped.domain k).state = 0) ∧
    (FMap.find State.reset.pkgs 0 = none ∧ FMap.find (pkgState {} 0).pkgs 0 ≠ none) ∧
    ((∃ e ∈ ({ poison := [17] } : State).poison, e % 2 = 1 % 2 ∧ e / 2 / 8 = 8 / 8) ∧
      ∀ e ∈ ({ poison := [17] } : State).poison, ¬ (e % 2 = 1 % 2 ∧ e / 2 / 8 = 16 / 8)) ∧
    ((stackAt (pkgState { hbm := [(0, { inService := true })] } 0) 0 0).inService = true ∧
      (stackAt (pkgState { hbm := [(0, { inService := true })] } 0) 0 0).scrubbed < ((pkgState {} 0).pkg 0).budget 1 ∧ (stackAt (pkgState {} 0) 0 0).inService = false) := by
  refine ⟨⟨by decide, Or.inr ⟨by decide, by decide, 8, Or.inl (by decide), by decide⟩⟩, ⟨by decide, ?_⟩,
    ⟨by decide, Or.inl (by decide), Or.inr (by decide), by simp only [UnderBase]; decide⟩, by decide, by decide, by decide, by decide, by decide⟩
  rintro (⟨-, b, hb, -⟩ | ⟨h, -⟩)
  · simp only [UnderBase] at hb
    omega
  · omega

/-- A stack and a link in a phase of training. -/
def training (ph : Nat) (repaired : Bool) : Stack := { phase := ph, repaired := repaired }

theorem test_witness_training :
    (memoryPhase (.mtScrubStart 0 3) = some (0, 3, 7) ∧ FMap.find ((pkgState {} 0).pkg 0).hbm 3 = none ∧
      FMap.find ((pkgState { hbm := [(3, training 4 false)] } 0).pkg 0).hbm 3 ≠ none) ∧
    (∀ ph, ph ∈ [1, 4, 5, 7, 8] → (training ph false).phase ≠ 0 ∧ (training ph false).done = false ∧ (training ph false).fail = false) ∧
    ((training 8 false).failed = false ∧ (training 4 true).repaired = true ∧ (training 0 false).phase = 0) ∧
    (linkPhase (.ltFlitLock 0 1) = some (0, 1, 3) ∧ linkPhase (.ltActive 0 1) = some (0, 1, 5) ∧ (linkAt (pkgState {} 0) 0 1).out = false ∧
      (linkAt (pkgState { links := [(1, { out := true })] } 0) 0 1).out = true) ∧
    (∀ x, x ∈ [({ phase := 1 } : Link), { phase := 5 }, { phase := 2, recal := true }, { phase := 3, recal := true }, { phase := 1, tries := 3 }] →
      x.phase ≠ 0 ∧ x.done = false ∧ x.out = false) := by decide

theorem test_witness_links :
    (({ inService := true } : Link).inService = true ∧ FMap.look ((pkgState {} 0).pkg 0).used 0 2 = 0 ∧
      0 < ((pkgState {} 0).pkg 0).budget 2 ∧ ¬ 1 < ((pkgState {} 0).pkg 0).budget 2) ∧
    (Accepted 0 1023 ∧ Accepted 0 512 ∧ ¬ Accepted 0 511 ∧ ¬ Accepted 0 0 ∧ 1 % 1024 ≠ (0 : Nat)) ∧
    (256 ≤ (231 - 0) * 10 / 9 ∧ ¬ 256 ≤ (230 - 0) * 10 / 9) ∧
    ((∃ e, e ∈ ({ retry := [(4, 0)] } : Link).retry ∧ e.1 = 4) ∧ (∀ e, e ∈ ({ retry := [(4, 0)] } : Link).retry → e.1 ≠ 5)) ∧
    (512 ≤ ({ retry := List.replicate 512 (0, 0) } : Link).retry.length ∧ ({ } : Link).retry.length < 512) := by
  refine ⟨by decide, by simp only [Accepted]; decide, by decide, ⟨⟨(4, 0), by decide, rfl⟩, by decide⟩, by decide +kernel⟩

/-- A flit that waits for the only link of its package, which has a credit for its channel, or none. -/
def waitingFlit : OutFlit := { pkt := 2, path := 3, vc := 1, kind := 1, body := 7 }
def sendingPkg (credit : Nat) : Pkg := { outbox := [waitingFlit], links := [(0, { inService := true, credit := [(1, credit)] })] }

theorem test_witness_waiting_flits : ∀ n, n ∈ [0, 1] → (sendingPkg n).outbox = [waitingFlit] ∧ (sendingPkg n).linkFor waitingFlit.path = some 0 ∧
    ((FMap.look (FMap.look (sendingPkg n).links {} 0).credit 0 1 + 2 ^ 16 - 0) % 2 ^ 16 ≠ 0 ↔ n = 1) := by
  intro n h
  refine ⟨rfl, by simp [Pkg.linkFor, sendingPkg, Nat.mod_one], ?_⟩
  simp only [List.mem_cons, List.not_mem_nil, or_false] at h
  rcases h with rfl | rfl <;> decide

/-! ### Witnesses: fetches, walks, values and events -/

/-- A prefixed, an extended and a literal word of an op that class 1 does not assign. -/
theorem test_witness_unassigned_ops :
    (fld (0x74000000 : Word).toNat 30 2 = 1 ∧ fld (0x74000000 : Word).toNat 26 4 = 13 ∧ fld (0x07F00000 : Word).toNat 30 2 = 0) ∧
    (fld (0x87F00000 : Word).toNat 30 2 = 2 ∧ fld (0xC7F00000 : Word).toNat 30 2 = 3) ∧
    ∀ w, w ∈ [0x87F00000, 0xC7F00000] → 1 ≤ fld (w : Word).toNat 26 4 ∧ fld (w : Word).toNat 26 4 ≤ 12 ∧
      ∀ x, instrOfOp (fld (w : Word).toNat 26 4) (fld (w : Word).toNat 20 6) x = none := by
  refine ⟨by decide, by decide, ?_⟩
  simp only [List.mem_cons, List.not_mem_nil, or_false, forall_eq_or_imp, forall_eq]
  exact ⟨⟨by decide, by decide, fun x => rfl⟩, by decide, by decide, fun x => rfl⟩

/-- The probe's tables with the leaf of virtual address 0 replaced: readable and writable at most. -/
def leafed (w : Nat) : State := (State.reset.withFetchWord 32 0x04000000).memWrite 0x8000 (bytesOfNat 8 w)

/-- A fetch from an address that nothing maps, from one that may not be executed, and one that reads its word; a firmware core. -/
theorem test_witness_fetch_addresses :
    (isFw 0 = false ∧ Walks (leafed 0xA00F) 0 0x2000 ∧ (leafed 0xA00F).ops = [] ∧ (leafed 0xA00F).walk 0 0x2000 = none ∧
      ((leafed 0xA00F).launch ((leafed 0xA00F).bundle 0).launch).codeBase + 4 * (0x800 : Word).toNat = 0x2000) ∧
    (Walks (leafed 0xA007) 0 4 ∧ ∃ l, (leafed 0xA007).walk 0 4 = some l ∧ l.word.getLsbD 3 = false) ∧
    (Walks (leafed 0xA00F) 0 4 ∧ ∃ l, (leafed 0xA00F).walk 0 4 = some l ∧ l.word.getLsbD 3 = true ∧ l.word.toNat / 2 ^ 5 % 8 = 0 ∧
      (leafed 0xA00F).place (leafAddress l 4) = .hbm 0 ∧ (leafed 0xA00F).memBad (leafAddress l 4) 4 = none) ∧
    isFw fwKey0 = true :=
  ⟨⟨by decide, by simp only [Walks]; decide, rfl, by decide, by decide⟩, ⟨by simp only [Walks]; decide, _, rfl, by decide⟩,
    ⟨by simp only [Walks]; decide, _, rfl, by decide⟩, by decide⟩

/-- Accesses that a walk refuses and lets pass: rights, atomics and cells by the page's kind. -/
theorem test_witness_walk_results :
    (isFw 0 = false ∧ Walks (leafed 0xA003) 0 0x2010 ∧ (leafed 0xA003).walk 0 0x2010 = none) ∧
    (∀ e, e ∈ [(0xA003, Act.st 7, false), (0xA007, Act.home 14 2 5 0 4 0 false 0 false, true), (0xA047, Act.home 14 2 5 0 4 0 false 0 false, true),
        (0xA047, Act.home 0 2 5 0 4 0 false 0 false, true), (0xA043, Act.ld 4 false, true)] →
      Walks (leafed e.1) 0 0x10 ∧ ∃ l, (leafed e.1).walk 0 0x10 = some l ∧ l.word.getLsbD (if needsWrite e.2.1 then 2 else 1) = e.2.2 ∧
        (leafed e.1).place (leafAddress l 0x10) = .hbm 0 ∧ (l.word.toNat / 2 ^ 5 % 8 = if e.1 / 2 ^ 6 % 2 = 1 then 2 else 0)) ∧
    (∃ l t, (leafed 0xA003).walk 0 0x10 = some l ∧ tableAt (leafed 0xA003) 0 0x10 (4 - l.level) = some t ∧
      LeafFits (leafed 0xA003) 0 l.level (entryAt (leafed 0xA003) l.level t 0x10)) := by
  refine ⟨⟨by decide, by simp only [Walks]; decide, by decide⟩, ?_, _, _, rfl, rfl, by simp only [LeafFits]; decide⟩
  simp only [List.mem_cons, List.not_mem_nil, or_false, forall_eq_or_imp, forall_eq, Walks]
  exact ⟨⟨by decide, _, rfl, by decide⟩, ⟨by decide, _, rfl, by decide⟩, ⟨by decide, _, rfl, by decide⟩, ⟨by decide, _, rfl, by decide⟩,
    by decide, _, rfl, by decide⟩

/-- The operands of the clauses on fmin, fmax, fscale, frnd and fclass: a NaN, an infinity, a zero, finite values of both signs. -/
theorem test_witness_float_values :
    (∀ f, f ∈ [fmtF32, fmtBf16, fmtF16] → f.nanCode < 2 * f.signBit ∧ f.decode f.nanCode = .nan ∧ f.decode f.infCode = .inf false ∧
      (f.decode 0).rat = 0 ∧ (f.decode 0).isFin = true ∧ (f.decode 1).isFin = true ∧ f.decode 1 ≠ .nan) ∧
    (fmtF16.decode 0x6000).rat = 512 ∧ (fmtF16.decode 0xE000).rat = -512 ∧ (fmtF16.decode 0x3C00).rat = 1 ∧ (fmtF16.decode 0xBC00).rat = -1 ∧
    (fmtF16.decode 0xFC00 = .inf true ∧ fmtF16.codeOrder 0x8000 ≤ fmtF16.codeOrder 0 ∧ ¬ fmtF16.codeOrder 0 ≤ fmtF16.codeOrder 0x8000) := by
  refine ⟨by decide +kernel, by decide +kernel, by decide +kernel, by decide +kernel, by decide +kernel, by decide⟩

/-- `sh.touch` alone on its way to the page, which holds an SST, or to one of another kind, and judged there. -/
theorem test_witness_shard_walks :
    (ReplayRoom ts 0 ∧ ∀ e, e ∈ [(7, 0), (8, 0), (8, 1)] →
      InProgress (shardState 0 [] (shOp e.1 e.2)) (shOp e.1 e.2) (shReq e.1 e.2) ∧ (shOp e.1 e.2).cls = 12 ∧
      (shReq e.1 e.2).stage = .walk ∧ isFw (shOp e.1 e.2).bk = false ∧
      (shardState 0 [] (shOp e.1 e.2)).inOrder ((shardState 0 [] (shOp e.1 e.2)).sliceEngine (shOp e.1 e.2)) 0 = true ∧
      (shardState 0 [] (shOp e.1 e.2)).ops = [shOp e.1 e.2]) ∧
    (∀ e, e ∈ [(7, 0, 0), (7, 0, 2), (7, 0, 3), (7, 0, 5), (7, 1, 0), (8, 0, 0), (8, 1, 0), (8, 2, 0), (8, 0, 5), (8, 1, 2), (8, 2, 3)] →
      InProgress (shardState e.2.2 [] (opr 12 { shReq e.1 e.2.1 with stage := .shard })) (opr 12 { shReq e.1 e.2.1 with stage := .shard })
        { shReq e.1 e.2.1 with stage := .shard } ∧
      (shardState e.2.2 [] (opr 12 { shReq e.1 e.2.1 with stage := .shard })).runs 0 = true ∧
      (shardState e.2.2 [] (opr 12 { shReq e.1 e.2.1 with stage := .shard })).heldBefore (opr 12 { shReq e.1 e.2.1 with stage := .shard })
        { shReq e.1 e.2.1 with stage := .shard } = false ∧
      (shardState e.2.2 [] (opr 12 { shReq e.1 e.2.1 with stage := .shard })).walkBad 0 0 (microOf 0) 16 = none ∧
      (∃ l u, (shardState e.2.2 [] (opr 12 { shReq e.1 e.2.1 with stage := .shard })).findLeaf 0 0 (microOf 0) 16 = some (l, u) ∧
        l.word = (shardLeaf e.2.2).word) ∧
      ShardPage (shardState e.2.2 [] (opr 12 { shReq e.1 e.2.1 with stage := .shard })) 0 0 (shardLeaf e.2.2)) := by
  simp only [List.mem_cons, List.not_mem_nil, or_false, forall_eq_or_imp, forall_eq, InProgress, ShardPage]
  refine ⟨⟨room (by decide), by decide⟩, ?_⟩
  refine ⟨?_, ?_, ?_, ?_, ?_, ?_, ?_, ?_, ?_, ?_, ?_⟩ <;> exact ⟨by decide, by decide, by decide, by decide, ⟨_, _, rfl, by decide⟩, by decide⟩

theorem put_last {α : Type} (m : FMap α) (k : Nat) (v : α) (h : ∀ e, e ∈ m → e.1 < k) : FMap.put m k v = m ++ [(k, v)] := by
  induction m with
  | nil => rfl
  | cons e t ih =>
    obtain ⟨j, w⟩ := e
    have hj : j < k := h (j, w) List.mem_cons_self
    simp only [FMap.put]
    rw [if_neg (by omega), if_neg (by omega), ih (fun e he => h e (List.mem_cons_of_mem _ he)), List.cons_append]

/-- The words of a record in order. -/
theorem words_of (n : Nat) (f : Nat → DWord) :
    (List.range n).foldl (fun m k => FMap.put m k (f k)) ([] : FMap DWord) = (List.range n).map (fun k => (k, f k)) := by
  induction n with
  | zero => rfl
  | succ n ih =>
    rw [List.range_succ, List.foldl_append, ih]
    simp only [List.foldl_cons, List.foldl_nil, List.map_append, List.map_cons, List.map_nil]
    exact put_last _ _ _ (by simp)

/-- The operation at the end of a load of one tile: word 1 of its record names one tile. -/
def tileWord (k : Nat) : DWord := if k = 1 then 2 ^ 8 else 0
def tileOp : Op := endOp 0x1F 2 0 ((List.range 6148).map (fun k => .s k (tileWord k)))

theorem tile_record : tileOp.record = (List.range 6148).flatMap (fun k => bytesOfNat 8 (tileWord k).toNat) := by
  simp only [Op.record, tileOp, endOp, List.foldl_cons, List.foldl_nil, List.foldl_map, words_of, List.flatMap_map]

theorem words_length (n : Nat) (f : Nat → Nat) : ((List.range n).flatMap (fun k => bytesOfNat 8 (f k))).length = 8 * n := by
  induction n with
  | zero => rfl
  | succ n ih => rw [List.range_succ, List.flatMap_append, List.length_append, ih]; simp [bytesOfNat_length]; omega

theorem test_witness_tile_load :
    AtItsEnd (oneState tileOp) tileOp (endReq 2 0) 2 0 6 ∧ tileOp.opn = 0x1F ∧
    (recordWord tileOp.record 8).toNat / 2 ^ 8 % 64 = 1 ∧ 0x10 + 0 * 0xC010 + 0xC010 ≤ tileOp.record.length ∧
    (oneState tileOp).tileBusy 0 tileOp.ser (0 + 0) = false ∧ tileOp.raced = [] := by
  refine ⟨⟨rfl, rfl, rfl, rfl, by decide, rfl, rfl⟩, rfl, ?_, ?_, by decide, rfl⟩
  · have h : tileOp.record = bytesOfNat 8 0 ++ (bytesOfNat 8 256 ++ (List.range' 2 6146).flatMap (fun k => bytesOfNat 8 (tileWord k).toNat)) := by
      rw [tile_record, List.range_eq_range', show 6148 = 6146 + 1 + 1 from rfl, List.range'_succ, List.range'_succ]
      rfl
    rw [h, recordWord, List.drop_left' (bytesOfNat_length 8 0), List.take_left' (bytesOfNat_length 8 256)]
    decide
  · rw [tile_record, words_length 6148 (fun k => (tileWord k).toNat)]

/-- A SHARD of which a flit waits for a link. -/
def unsent : State := { withMsg 0 (mm 3 1 [1]) [] with pkgs := [(1, { outbox := [{ pkt := 2, path := 0, vc := 0, kind := 1, body := 0 }] })] }

theorem test_witness_unsent_message : OnItsWay unsent (mm 3 1 [1]) 3 ∧ unsent.msgLeft (mm 3 1 [1]) = false ∧ unsent.msgBehind (mm 3 1 [1]) = false := by
  refine ⟨by simp only [OnItsWay]; decide, by decide, by decide⟩

/-- An erroneous packet behind a PRED that polls, and an erroneous LAUNCH without WAITPREV. -/
def waitingError : State :=
  fnState { queueOf [0xF000000000000000] with polling := some { va := 0x100, value := 0, mask := 0, cmp := 0, since := 0 } }
def earlyError : State := packets ((askWords 0 grid1).set 0 0x1000000000000001)

theorem turns_of {s : State} {c q : Nat} (h : (decide (q < 8) && s.queueTurns c q && (queueAt s c q).levels.isEmpty) = true) : QueueTurns s c q := by
  simp only [Bool.and_eq_true, decide_eq_true_eq, List.isEmpty_iff] at h
  exact ⟨h.1.1, h.1.2, fun l r e => by rw [h.2] at e; cases e⟩

theorem test_witness_waiting_errors :
    (QueueTurns waitingError 0 0 ∧ waitingError.firstQueue 0 0 = true ∧ (queueAt waitingError 0 0).signal = none ∧
      waitingError.nextPacket 0 0 = Next.error 1 false ∧ waitingError.queueBusy 0 0 = true) ∧
    (QueueTurns earlyError 0 0 ∧ earlyError.firstQueue 0 0 = true ∧ (queueAt earlyError 0 0).signal = none ∧
      earlyError.nextPacket 0 0 = Next.error 1 true) :=
  ⟨⟨turns_of (by decide), by decide, by decide, rfl, by decide⟩, turns_of (by decide), by decide, by decide, rfl⟩

/-- A running queue's size written so that its tail lies inside, and beyond. -/
def longQueue : State := fnState { queueOf [] with tail := 8192, size := 1 }

theorem test_witness_queue_sizes :
    (({ fnState polling with cycle := 231 } : State).pollTurns 0 = true ∧ (queueAt (fnState skipping) 0 0).polling = none) ∧
    ((queueAt longQueue 0 0).en = true ∧ (queueAt longQueue 0 0).err = false ∧ 0x101 % 2 = 1 ∧ 0x101 / 2 ^ 8 % 16 < 13 ∧
      ((queueAt longQueue 0 0).tail - (queueAt longQueue 0 0).head).toNat ≤ 4096 * 2 ^ (0x101 / 2 ^ 8 % 16) ∧
      ¬ ((queueAt longQueue 0 0).tail - (queueAt longQueue 0 0).head).toNat ≤ 4096 * 2 ^ (0x001 / 2 ^ 8 % 16)) := by decide

/-- The leader's package 0 and its neighbour 1 of a group, which is on or off, a link leading out or none; a neighbour whose lease was
missed twice. -/
def beside (on : Bool) (links : FMap Link) (missed : FMap Nat) : State :=
  { shardState 0 [] (shOp 8 0) with pkgs := [(0, { lease := 0, links := links, missed := missed })] ++ if on then [(1, { lease := 0 })] else []
                                    cycle := 3600000 }

theorem test_witness_missed_leases :
    (1 ∈ (beside false [] []).nearPackages (0 / 16) ∧ 2 ∉ (beside false [] []).nearPackages (0 / 16) ∧
      FMap.find (beside false [] []).pkgs 1 = none ∧ ((beside false [] []).pkg 0).lease.toNat / 2 ^ 59 = 0 % 16) ∧
    (FMap.find (beside true [(0, { inService := true })] []).pkgs 1 ≠ none ∧
      ∃ e, e ∈ ((beside true [(0, { inService := true })] []).pkg 0).links ∧ e.2.inService = true) ∧
    (∀ e, e ∈ ((beside true [] []).pkg 0).links → e.2.inService = false) ∧
    (∃ e, e ∈ (beside false [] [(1, 2)]).ctxs ∧ (beside false [] [(1, 2)]).ctx e.1 = e.2 ∧
      2 ≤ FMap.look ((beside false [] [(1, 2)]).pkg (pkgOfCtx e.1)).missed 0 1 ∧ Machine.Lists (beside false [] [(1, 2)]) e.1 1 0 1 ∧ e.2.down 0 1 = false) := by
  refine ⟨by decide, by decide, by decide, ?_⟩
  refine ⟨(0, (beside false [] [(1, 2)]).ctx 0), by decide, by decide, by decide, by simp only [Machine.Lists]; decide, by decide⟩

/-- A store of firmware core 0 and of core 1 to SRAM. -/
def sramReq : Req := { uid := 0, t := 64, stage := .home, act := .st 5, addr := 0x100, n := 8, pa := 2 ^ 52 + 0x100 }
def sramOp (n : Nat) : Op := { id := 4, bk := fwKey 0 n, ser := 1, cls := 6, flag := some 3, upc := 1, ex := 1, reqs := [sramReq] }

theorem test_witness_sram_stores : ∀ n, n ∈ [0, 1] →
    InProgress { fsS [] with ops := [sramOp n] } (sramOp n) sramReq ∧ (sramOp n).cls = 6 ∧ isFw (sramOp n).bk = true ∧ 2 ^ 52 ≤ sramReq.pa ∧
    ({ fsS [] with ops := [sramOp n] } : State).blocked (sramOp n) sramReq false = false ∧
    ({ fsS [] with ops := [sramOp n] } : State).mgmtBehind (sramOp n) sramReq = false ∧ (sramOp n).fin = .none ∧
    ((sramOp n).bk - fwBase) % 16 = n := by
  simp only [List.mem_cons, List.not_mem_nil, or_false, forall_eq_or_imp, forall_eq, InProgress]
  decide

/-- A flit of channel 6 that waits for a link with no credit for it. -/
theorem test_witness_notice_flits :
    ({ sendingPkg 0 with outbox := [{ waitingFlit with vc := 6 }] } : Pkg).linkFor waitingFlit.path = some 0 ∧
    (FMap.look (sendingPkg 0).links {} 0).inService = true ∧ (FMap.look (sendingPkg 0).links {} 0).recal = false ∧
    (FMap.look (FMap.look (sendingPkg 0).links {} 0).credit 0 6 + 2 ^ 16 - 0) % 2 ^ 16 = 0 := by
  refine ⟨by simp [Pkg.linkFor, sendingPkg, Nat.mod_one], by decide, by decide, by decide⟩

/-- A slice end that is not in progress; one of a function that has run. -/
theorem test_witness_slice_events :
    ((ts.part 0).ending = none ∧ (ts.part 0).layers ≠ 0) ∧
    ((({ ts with parts := [(0, { layers := 1, cur := some 0, ending := some 0, frames := [0] })] } : State).part 0).ending = some 0 ∧
      ({ ts with parts := [(0, { layers := 1, cur := some 0, ending := some 0, frames := [0] })] } : State).settled 0 = true) := by decide

/-- A state has the form, and a step of it answers a next state. -/
theorem test_witness_form : ({ cycle := 1 } : State).formed ∧ ∃ t, step { cycle := 1 } = .next t := by
  refine ⟨⟨by simp only [State.canonical]; decide, ⟨?_, ?_⟩, ?_⟩, _, rfl⟩
  · intro o h; cases h
  · intro e h; cases h
  · intro x h; cases h

end Sys2Proof.Tests
end

/-! PROOFS. `rejoin` (R75, R197): what one thread's part of it does, what the pass over the executing threads leaves in
every thread, register and family, and the two outcomes of the instruction. -/

namespace Sys2Proof.Machine

/-! ### Masks and choices -/

theorem hasBit_bitMask {t : Nat} (ht : t < 64) (u : Nat) : hasBit (bitMask t) u = decide (u = t) := by
  simp only [hasBit, bitMask, BitVec.getLsbD_ofNat, Nat.testBit_two_pow]
  by_cases h : u = t
  · simp [h, ht]
  · simp [h, Ne.symm h]

theorem hasBit_or (a b : DWord) (t : Nat) : hasBit (a ||| b) t = (hasBit a t || hasBit b t) :=
  BitVec.getLsbD_or

theorem hasBit_lt {m : DWord} {t : Nat} (h : hasBit m t = true) : t < 64 := BitVec.lt_of_getLsbD h

theorem mem_bitsOf_iff_hasBit (m : DWord) (t : Nat) : t ∈ bitsOf m ↔ hasBit m t = true := by
  rw [mem_bitsOf]
  exact ⟨And.right, fun h => ⟨hasBit_lt h, h⟩⟩

@[simp] theorem Bundle.choose_thr (b : Bundle) : b.choose.thr = b.thr := by rw [Bundle.choose_eq]
@[simp] theorem Bundle.choose_v (b : Bundle) : b.choose.v = b.v := by rw [Bundle.choose_eq]
@[simp] theorem Bundle.choose_fam (b : Bundle) : b.choose.fam = b.fam := by rw [Bundle.choose_eq]

theorem Bundle.family_setFamily_eq (b : Bundle) (j k : Nat) (m : DWord) :
    (b.setFamily j m).family k = if k = j then m else b.family k :=
  FMap.look_write ..

/-- A change of the entries that leaves the keys, and the entries at one key, leaves the value at that key. -/
theorem FMap.look_map {α : Type} (m : FMap α) (d : α) (k : Nat) (f : Nat × α → Nat × α)
    (hkey : ∀ e, (f e).1 = e.1) (hk : ∀ e, e.1 = k → f e = e) : FMap.look (m.map f) d k = FMap.look m d k := by
  induction m with
  | nil => rfl
  | cons e m ih =>
    by_cases h : e.1 = k
    · simp [FMap.look, h, hk e h]
    · simp [FMap.look, hkey, h, ih]

/-- A thread outside the mask of a change is as it was. -/
theorem Bundle.thread_mapThreads_of_not_hasBit (b : Bundle) (m : DWord) (f : Thread → Thread) (u : Nat)
    (h : hasBit m u = false) : (b.mapThreads m f).thread u = b.thread u := by
  refine FMap.look_map _ _ _ _ (fun e => ?_) (fun e he => ?_)
  · split <;> rfl
  · simp [he, h]

/-! ### One thread's part -/

/-- A thread one level deeper, with a new meeting address (R75). -/
def Thread.rejoins (th : Thread) (l : Word) : Thread := { th with meet := l, depth := th.depth + 1 }

theorem Bundle.rejoinThread_thr (b : Bundle) (l : Word) {t : Nat} (ht : t < 64) :
    (b.rejoinThread l t).thr = b.thr.map (fun e => if e.1 = t then (e.1, e.2.rejoins l) else e) := by
  simp [Bundle.rejoinThread, Bundle.mapThreads, hasBit_bitMask ht, Thread.rejoins]

theorem Bundle.thread_rejoinThread_ne (b : Bundle) (l : Word) {t u : Nat} (ht : t < 64) (h : u ≠ t) :
    (b.rejoinThread l t).thread u = b.thread u := by
  have hu : hasBit (bitMask t) u = false := by simp [hasBit_bitMask ht, h]
  exact Bundle.thread_mapThreads_of_not_hasBit b (bitMask t) (·.rejoins l) u hu

theorem Bundle.vreg_rejoinThread (b : Bundle) (l : Word) {t u : Nat} (n : Nat) (ht : t < 64) (hu : u < 64) :
    (b.rejoinThread l t).vreg u n =
      if u = t ∧ n = b.allot - 1 - (b.thread t).depth then (b.thread t).meet else b.vreg u n :=
  Bundle.vreg_setVreg b t _ u n _ ht hu

theorem Bundle.hasBit_family_rejoinThread (b : Bundle) (l : Word) {t : Nat} (k u : Nat) (ht : t < 64) :
    hasBit ((b.rejoinThread l t).family k) u =
      (hasBit (b.family k) u || (decide (u = t) && decide ((b.thread t).depth + 1 = k))) := by
  have hfam : (b.rejoinThread l t).family k = if k = (b.thread t).depth + 1
      then b.family ((b.thread t).depth + 1) ||| bitMask t else b.family k :=
    Bundle.family_setFamily_eq ..
  rw [hfam]
  by_cases hk : k = (b.thread t).depth + 1
  · simp [hk, hasBit_or, hasBit_bitMask ht]
  · simp [hk, Ne.symm hk]

theorem Bundle.rejoinThread_frame (b : Bundle) (l : Word) (t : Nat) :
    b.rejoinThread l t =
      { b with v := (b.rejoinThread l t).v, fam := (b.rejoinThread l t).fam, thr := (b.rejoinThread l t).thr } := rfl

/-! ### The pass over threads -/

/-- `rejoin` of a list of threads, one after another (R75). -/
def Bundle.rejoinAll (b : Bundle) (l : Word) (ts : List Nat) : Bundle := ts.foldl (fun c t => c.rejoinThread l t) b

theorem Bundle.rejoinAll_cons (b : Bundle) (l : Word) (t : Nat) (ts : List Nat) :
    b.rejoinAll l (t :: ts) = (b.rejoinThread l t).rejoinAll l ts := rfl

theorem Bundle.rejoinAll_frame (b : Bundle) (l : Word) (ts : List Nat) :
    b.rejoinAll l ts =
      { b with v := (b.rejoinAll l ts).v, fam := (b.rejoinAll l ts).fam, thr := (b.rejoinAll l ts).thr } := by
  induction ts generalizing b with
  | nil => rfl
  | cons t ts ih => rw [Bundle.rejoinAll_cons, ih, Bundle.rejoinThread_frame]

theorem Bundle.rejoinAll_active (b : Bundle) (l : Word) (ts : List Nat) : (b.rejoinAll l ts).active = b.active := by
  rw [Bundle.rejoinAll_frame]

section
variable {ts : List Nat} (hnodup : ts.Nodup) (hlt : ∀ t ∈ ts, t < 64)
include hnodup hlt

/-- Each thread of the list, and no other, is one level deeper with the new meeting address. -/
theorem Bundle.rejoinAll_thr (b : Bundle) (l : Word) :
    (b.rejoinAll l ts).thr = b.thr.map (fun e => if e.1 ∈ ts then (e.1, e.2.rejoins l) else e) := by
  induction ts generalizing b with
  | nil => simp [Bundle.rejoinAll]
  | cons t ts ih =>
    obtain ⟨hnot, hnodup⟩ := List.nodup_cons.1 hnodup
    obtain ⟨ht, hlt⟩ := List.forall_mem_cons.1 hlt
    rw [Bundle.rejoinAll_cons, ih hnodup hlt, Bundle.rejoinThread_thr b l ht, List.map_map]
    refine List.map_congr_left fun e _ => ?_
    by_cases he : e.1 = t
    · simp [he, hnot]
    · simp [he]

/-- Each thread of the list has saved the meeting address that it had before the pass, in the register that its depth
before the pass names. -/
theorem Bundle.vreg_rejoinAll (b : Bundle) (l : Word) {u : Nat} (n : Nat) (hu : u < 64) :
    (b.rejoinAll l ts).vreg u n =
      if u ∈ ts ∧ n = b.allot - 1 - (b.thread u).depth then (b.thread u).meet else b.vreg u n := by
  induction ts generalizing b with
  | nil => simp [Bundle.rejoinAll]
  | cons t ts ih =>
    obtain ⟨hnot, hnodup⟩ := List.nodup_cons.1 hnodup
    obtain ⟨ht, hlt⟩ := List.forall_mem_cons.1 hlt
    have hallot : (b.rejoinThread l t).allot = b.allot := rfl
    rw [Bundle.rejoinAll_cons, ih hnodup hlt, Bundle.vreg_rejoinThread b l n ht hu, hallot]
    by_cases h : u = t
    · simp [h, hnot]
    · simp [h, Bundle.thread_rejoinThread_ne b l ht h]

/-- Each thread of the list is a new member of the family of its new depth. -/
theorem Bundle.hasBit_family_rejoinAll (b : Bundle) (l : Word) (k u : Nat) :
    hasBit ((b.rejoinAll l ts).family k) u =
      (hasBit (b.family k) u || (decide (u ∈ ts) && decide ((b.thread u).depth + 1 = k))) := by
  induction ts generalizing b with
  | nil => simp [Bundle.rejoinAll]
  | cons t ts ih =>
    obtain ⟨hnot, hnodup⟩ := List.nodup_cons.1 hnodup
    obtain ⟨ht, hlt⟩ := List.forall_mem_cons.1 hlt
    rw [Bundle.rejoinAll_cons, ih hnodup hlt, Bundle.hasBit_family_rejoinThread b l k u ht]
    by_cases h : u = t
    · simp [h, hnot]
    · simp [h, Bundle.thread_rejoinThread_ne b l ht h]

end

/-! ### The instruction -/

/-- The bundle after a `rejoin` that does not trap: the executing threads rejoin, the path goes on to the next unit, and
a path is chosen (R74, R75). -/
def Bundle.rejoined (b : Bundle) (x : Enc) : Bundle :=
  ((b.rejoinAll (b.target x) (bitsOf (b.executing x))).advance (unitLen x)).choose

theorem exec_rejoin (x : Enc) (s : State) : exec (.rejoin x) s = execRejoin x s := rfl

/-- A `rejoin` of a thread at depth D traps (R75). -/
theorem exec_rejoin_of_full {x : Enc} {s : State} {bk : Nat} (h : Passes s bk (rowOf (.rejoin x)) x) {t : Nat}
    (ht : hasBit ((s.bundle bk).executing x) t = true) (hd : ((s.bundle bk).thread t).depth = (s.bundle bk).dmax) :
    exec (.rejoin x) s = .next (s.trapSync bk 0x0D (s.bundle bk).dmax) := by
  have hany : (bitsOf ((s.bundle bk).executing x)).any
      (fun t => ((s.bundle bk).thread t).depth == (s.bundle bk).dmax) = true :=
    List.any_eq_true.2 ⟨t, (mem_bitsOf_iff_hasBit _ _).2 ht, beq_iff_eq.2 hd⟩
  rw [exec_rejoin, execRejoin, State.onUnit_eq s _ x bk h]
  simp only [hany, if_true]

/-- A `rejoin` of threads below depth D changes its bundle only (R75). -/
theorem exec_rejoin_of_below {x : Enc} {s : State} {bk : Nat} (h : Passes s bk (rowOf (.rejoin x)) x)
    (hd : ∀ t, hasBit ((s.bundle bk).executing x) t = true → ((s.bundle bk).thread t).depth ≠ (s.bundle bk).dmax) :
    exec (.rejoin x) s = .next (after s bk ((s.bundle bk).rejoined x)) := by
  have hany : ¬ (bitsOf ((s.bundle bk).executing x)).any
      (fun t => ((s.bundle bk).thread t).depth == (s.bundle bk).dmax) = true := by
    intro hany
    obtain ⟨t, ht, heq⟩ := List.any_eq_true.1 hany
    exact hd t ((mem_bitsOf_iff_hasBit _ _).1 ht) (beq_iff_eq.1 heq)
  rw [exec_rejoin, execRejoin, State.onUnit_eq s _ x bk h]
  simp only [hany]
  rfl

theorem Bundle.rejoined_thr (b : Bundle) (x : Enc) :
    (b.rejoined x).thr = b.thr.map (fun e =>
      let th := if hasBit (b.executing x) e.1 then e.2.rejoins (b.target x) else e.2
      if hasBit b.active e.1 then (e.1, th.advance (unitLen x)) else (e.1, th)) := by
  have hthr := Bundle.rejoinAll_thr (bitsOf_nodup (b.executing x)) (fun t ht => ((mem_bitsOf _ _).1 ht).1) b (b.target x)
  simp only [Bundle.rejoined, Bundle.choose_thr, Bundle.advance, Bundle.mapThreads, Bundle.rejoinAll_active, hthr,
    List.map_map]
  refine List.map_congr_left fun e _ => ?_
  by_cases he : hasBit (b.executing x) e.1 = true <;> simp [mem_bitsOf_iff_hasBit, he]

theorem Bundle.vreg_rejoined (b : Bundle) (x : Enc) {t : Nat} (n : Nat) (ht : t < 64) :
    (b.rejoined x).vreg t n = if hasBit (b.executing x) t = true ∧ n = b.allot - 1 - (b.thread t).depth
      then (b.thread t).meet else b.vreg t n := by
  have hv : (b.rejoined x).vreg t n = (b.rejoinAll (b.target x) (bitsOf (b.executing x))).vreg t n := by
    simp [Bundle.rejoined, Bundle.vreg]
  rw [hv, Bundle.vreg_rejoinAll (bitsOf_nodup _) (fun t ht => ((mem_bitsOf _ _).1 ht).1) b _ n ht]
  simp only [mem_bitsOf_iff_hasBit]

theorem Bundle.hasBit_family_rejoined (b : Bundle) (x : Enc) (k t : Nat) :
    hasBit ((b.rejoined x).family k) t =
      (hasBit (b.family k) t || (hasBit (b.executing x) t && decide ((b.thread t).depth + 1 = k))) := by
  have hfam : (b.rejoined x).family k = (b.rejoinAll (b.target x) (bitsOf (b.executing x))).family k := by
    simp [Bundle.rejoined, Bundle.family]
  rw [hfam, Bundle.hasBit_family_rejoinAll (bitsOf_nodup _) (fun t ht => ((mem_bitsOf _ _).1 ht).1)]
  simp only [mem_bitsOf_iff_hasBit, Bool.decide_eq_true]

theorem Bundle.rejoined_frame (b : Bundle) (x : Enc) :
    b.rejoined x = { b with v := (b.rejoined x).v, fam := (b.rejoined x).fam, thr := (b.rejoined x).thr,
                            active := (b.rejoined x).active } := by
  rw [Bundle.rejoined, Bundle.choose_eq, Bundle.advance, Bundle.mapThreads, Bundle.rejoinAll_frame]

/-- Settles O8: the check for depth D comes before the pass, and in the pass no thread's part touches what the part of
another one reads. -/
theorem rejoinActsOnEachThread : Obligations.RejoinActsOnEachThread := by
  intro x s bk h
  constructor
  · rintro ⟨t, -, ht, hd⟩
    exact exec_rejoin_of_full h ht hd
  · intro hd
    exact ⟨(s.bundle bk).rejoined x, exec_rejoin_of_below h (fun t ht => hd t (hasBit_lt ht) ht),
      Bundle.rejoined_thr _ x, fun t n ht => Bundle.vreg_rejoined _ x n ht,
      fun k t _ => Bundle.hasBit_family_rejoined _ x k t, Bundle.choose_onChosenPath _, Bundle.rejoined_frame _ x⟩

end Sys2Proof.Machine

/-! PROOFS. `tid.wr` and `tid.rd` (R156): the entry that two 64-bit registers make and are given back, the table and the
registers after each instruction, and the outcome of each. -/

namespace Sys2Proof.Machine

/-! ### An entry and the two registers that hold it -/

/-- The entry that `tid.wr` makes of two registers, as a number. -/
theorem zeroExtend_shiftLeft_or (hi lo : DWord) :
    hi.zeroExtend 128 <<< 64 ||| lo.zeroExtend 128 = BitVec.ofNat 128 (hi.toNat * 2 ^ 64 + lo.toNat) := by
  rw [← Nat.shiftLeft_eq, Nat.shiftLeft_add_eq_or_of_lt lo.isLt, ← BitVec.toNat_append, BitVec.ofNat_toNat,
    BitVec.setWidth_append_eq_shiftLeft_setWidth_or]

theorem truncate_eq_ofNat (e : BitVec 128) : e.truncate 64 = BitVec.ofNat 64 e.toNat :=
  BitVec.eq_of_toNat_eq (by simp)

/-! ### `tid.wr` -/

/-- A core after entry `k` of its table was written. -/
def Core.writeTid (c : Core) (k : Nat) (e : BitVec 128) : Core := { c with tid := FMap.write c.tid 0 k e }

theorem Core.look_writeTid (c : Core) (k : Nat) (e : BitVec 128) (j : Nat) :
    FMap.look (c.writeTid k e).tid 0 j = if j = k then e else FMap.look c.tid 0 j := FMap.look_write ..

/-- The entry that a `tid.wr` writes: S[a+1] above S[a]. -/
def Bundle.tidEntry (b : Bundle) (x : Enc) : BitVec 128 :=
  BitVec.ofNat 128 ((b.sreg (x.a.toNat + 1)).toNat * 2 ^ 64 + (b.sreg x.a.toNat).toNat)

theorem exec_tidWr (x : Enc) (s : State) : exec (.tidWr x) s = execTidWr x s := rfl

/-- Both outcomes of a `tid.wr` that passes (R156). -/
theorem exec_tidWr_of_passes {x : Enc} {s : State} {bk : Nat} (h : Passes s bk (rowOf (.tidWr x)) x) :
    exec (.tidWr x) s = .next (
      if (tidOf ((s.bundle bk).tidEntry x)).valid = false then s.trapSync bk 0x09 (x.w2.toNat % 256)
      else (s.setCore (coreOfBundle bk) ((s.core (coreOfBundle bk)).writeTid (x.w2.toNat % 256)
        ((s.bundle bk).tidEntry x))).retire bk (s.bundle bk) x) := by
  rw [exec_tidWr, execTidWr, State.onUnit_eq s _ x bk h]
  simp only [zeroExtend_shiftLeft_or, Bool.not_eq_true']
  rfl

/-! ### `tid.rd` -/

/-- A bundle after S[n] and S[n+1] were given the two halves of an entry. -/
def Bundle.readTid (b : Bundle) (n : Nat) (e : BitVec 128) : Bundle :=
  (b.setSreg n (BitVec.ofNat 64 e.toNat)).setSreg (n + 1) (BitVec.ofNat 64 (e.toNat / 2 ^ 64))

theorem Bundle.sreg_readTid (b : Bundle) (n : Nat) (e : BitVec 128) (k : Nat) :
    (b.readTid n e).sreg k = if k = n + 1 then BitVec.ofNat 64 (e.toNat / 2 ^ 64)
      else if k = n then BitVec.ofNat 64 e.toNat else b.sreg k := by
  rw [Bundle.readTid]
  split
  · next hk => rw [hk, Bundle.sreg_setSreg]
  · next hk =>
    rw [Bundle.sreg_setSreg_ne _ _ _ _ hk]
    split
    · next hn => rw [hn, Bundle.sreg_setSreg]
    · next hn => exact Bundle.sreg_setSreg_ne _ _ _ _ hn

theorem exec_tidRd (x : Enc) (s : State) : exec (.tidRd x) s = execTidRd x s := rfl

/-- A `tid.rd` that passes changes its bundle only (R156). -/
theorem exec_tidRd_of_passes {x : Enc} {s : State} {bk : Nat} (h : Passes s bk (rowOf (.tidRd x)) x) :
    exec (.tidRd x) s = .next (after s bk (((s.bundle bk).readTid x.d.toNat
      (FMap.look (s.core (coreOfBundle bk)).tid 0 (x.w2.toNat % 256))).advance (unitLen x))) := by
  rw [exec_tidRd, execTidRd, State.onUnit_eq s _ x bk h]
  simp only [truncate_eq_ofNat, BitVec.toNat_ushiftRight, Nat.shiftRight_eq_div_pow, State.retire_eq]
  rfl

/-! ### The obligation -/

/-- Settles O40: a valid entry is one write into the core's table, and a read is two writes of registers that differ. -/
theorem tensorIdentifierInstructions : Obligations.TensorIdentifierInstructions := by
  constructor
  · intro x s bk h
    constructor
    · intro hv
      exact (exec_tidWr_of_passes h).trans (congrArg _ (if_pos hv))
    · intro hv
      exact ⟨(s.core (coreOfBundle bk)).writeTid (x.w2.toNat % 256) ((s.bundle bk).tidEntry x),
        (exec_tidWr_of_passes h).trans (congrArg _ (if_neg (ne_false_of_eq_true hv))), rfl,
        Core.look_writeTid _ _ _⟩
  · intro x s bk h
    exact ⟨_, exec_tidRd_of_passes h, rfl, Bundle.sreg_readTid _ _ _⟩

end Sys2Proof.Machine

/-! PROOFS. `set.free` (R212): when a set may go back to the free pool, the record after it, and the outcome of the
instruction. -/

namespace Sys2Proof.Machine

/-! ### When a set may be freed -/

/-- The model's test for a barrier that is bound to a set of cores, chiplets or packages. -/
theorem State.setBound_eq_true (s : State) (key : Nat) : s.setBound key = true ↔ BoundSomewhere s key := by
  simp only [State.setBound, List.any_eq_true, BoundSomewhere]
  refine exists_congr fun e => ?_
  cases hb : e.2.bound with
  | none => simp
  | some p => simp [Prod.ext_iff, and_comm, and_assoc]

/-- What keeps a set from the free pool (R212): it is an initial set, it has members, or a barrier is bound to it. -/
def State.setHeld (s : State) (key : Nat) : Bool :=
  (s.setRec key).initial || !(s.setRec key).members.isEmpty || s.setBound key

theorem State.setHeld_eq_true (s : State) (key : Nat) :
    s.setHeld key = true ↔
      (s.setRec key).members ≠ [] ∨ BoundSomewhere s key ∨ (s.setRec key).initial = true := by
  simp only [State.setHeld, Bool.or_eq_true, State.setBound_eq_true, Bool.not_eq_true', List.isEmpty_eq_false_iff]
  tauto

/-! ### The record after it -/

/-- The state after a set's record was put back as not allocated. -/
def State.releaseSet (s : State) (key : Nat) : State := s.putSet key { s.setRec key with alloc := false }

theorem State.setRec_releaseSet_same (s : State) (key : Nat) :
    (s.releaseSet key).setRec key = { s.setRec key with alloc := false } :=
  s.setRec_putSet key _

theorem State.setRec_releaseSet (s : State) (key k : Nat) :
    (s.releaseSet key).setRec k = if k = key then { s.setRec k with alloc := false } else s.setRec k := by
  split
  · next hk => rw [hk, State.setRec_releaseSet_same]
  · next hk => exact s.setRec_putSet_ne key k _ hk

/-- A set that nothing holds is one that `set.new` may take, once it is released (R210). -/
theorem State.freeSet_releaseSet {s : State} {key : Nat} (hm : (s.setRec key).members = [])
    (hb : ¬ BoundSomewhere s key) (hi : (s.setRec key).initial = false) : FreeSet (s.releaseSet key) key := by
  rw [FreeSet, State.setRec_releaseSet_same]
  exact ⟨hi, rfl, hm, hb⟩

/-! ### The instruction -/

/-- An instruction whose handle names a set acts on that set (R213). -/
theorem State.onSet_eq {s : State} {i : Instr} {x : Enc} {bk key : Nat} (h : Passes s bk (rowOf i) x)
    (hkey : s.setKeyOf (coreOfBundle bk) ((s.bundle bk).syncField x) = some key)
    (f : Nat → Bundle → Nat → Nat → State) :
    s.onSet i x f = .next (f bk (s.bundle bk) ((s.bundle bk).syncField x) key) := by
  rw [State.onSet, State.onUnit_eq s i x bk h]
  simp only [hkey]

theorem exec_setFree (x : Enc) (s : State) : exec (.setFree x) s = execSetFree x s := rfl

/-- Both outcomes of a `set.free` that passes and names a set (R212). -/
theorem exec_setFree_of_passes {x : Enc} {s : State} {bk key : Nat} (h : Passes s bk (rowOf (.setFree x)) x)
    (hkey : s.setKeyOf (coreOfBundle bk) ((s.bundle bk).syncField x) = some key) :
    exec (.setFree x) s = .next (
      if s.setHeld key then s.trapSync bk 0x0A ((s.bundle bk).syncField x)
      else (s.releaseSet key).retire bk (s.bundle bk) x) := by
  rw [exec_setFree, execSetFree, State.onSet_eq h hkey]
  rfl

/-! ### The obligation -/

/-- Settles O37: the check is R212's three cases, and a set that passes it lacks only the release to be free. -/
theorem setFreeReturnsTheSet : Obligations.SetFreeReturnsTheSet := by
  intro x s bk key h hkey
  have hexec := exec_setFree_of_passes h hkey
  constructor
  · intro hheld
    rw [hexec, if_pos ((s.setHeld_eq_true key).2 hheld)]
  · intro hm hb hi
    have hnot : ¬ s.setHeld key = true := by simp [State.setHeld_eq_true, hm, hb, hi]
    refine ⟨s.releaseSet key, ?_, s.setRec_releaseSet key, State.freeSet_releaseSet hm hb hi⟩
    rw [hexec, if_neg hnot]
    rfl

end Sys2Proof.Machine
